-- ==== Sys2Proof/Word.lean ====
section
/-! DEFINITION. The word types of the J96 and the tables of keyed data the whole model is built on.
Only names are given here; what a table does on a read or a write stands in Machine/Tables.lean. -/

namespace Sys2Proof

/-- The smallest addressable unit (R4). -/
abbrev Byte := BitVec 8

/-- A 32-bit word: a granule of code (R84), a scalar register, one lane of a vector register (R39). -/
abbrev Word := BitVec 32

/-- A 64-bit value: an address (R56), a register pair (R40). -/
abbrev DWord := BitVec 64

/-- One bit for each of the 96 lanes of a warp, bit `l` for lane `l` (R11). -/
abbrev LaneMask := BitVec 96

/-- Keyed data in one canonical form: keys strictly rise. -/
abbrev Tbl (α : Type) := List (Nat × α)

end Sys2Proof
end

