-- ==== Sys2Proof/Config.lean ====
section
/-! DEFINITION. What an implementation fixes and the spec leaves open: constants with no body, so that no proof can see a value. -/

namespace Sys2Proof

/-- Rank of a lane among lanes of one instruction that touch one word, for the n-th such choice (R163, R168; log 2). -/
opaque Config.lanePriority : Nat → Nat → Nat

/-- Which of the values that a reader may return of a word it returns, by the count of free values taken, CLK, the reader and the word
(R59, R176, R221, R230, R233; log 66). -/
opaque Config.oldOrNew : Nat → Nat → Nat → Nat → Nat

/-- The 256-bit seed of the PUF and helper data (R353; log 4). -/
opaque Config.seed : List Byte

/-- The two primes of the device RSA-3072 key, derived from a seed; how is not given (R353; log 4). -/
opaque Config.keyPrimes : List Byte → Nat × Nat

/-- A public key, modulus and exponent, as the bytes that DEVKEYH hashes (R345; log 4). -/
opaque Config.keyBytes : Nat → Nat → List Byte

/-- Moduli of Salril's configuration and firmware keys (R345, R347; log 4). -/
opaque Config.configModulus : Nat
opaque Config.firmwareModulus : Nat

/-- SHA-256 of the security core's boot ROM (Table 17.10; log 4). -/
opaque Config.romHash : List Byte

/-- Fields of a firmware or record-update image that the spec does not lay out: is it a record update, its version, security version,
block layout version, record bytes, the signed bytes and the signature (R346, R347; log 4). -/
opaque Config.imageIsRecord : List Byte → Bool
opaque Config.imageFwver : List Byte → BitVec 32
opaque Config.imageSecver : List Byte → BitVec 32
opaque Config.imageMajor : List Byte → Nat
opaque Config.imageMinor : List Byte → Nat
opaque Config.imageRecord : List Byte → List Byte
opaque Config.imageSigned : List Byte → List Byte
opaque Config.imageSignature : List Byte → List Byte

/-- Body of the state block at a hand-over, whose layout each MAJOR fixes (R347; log 4). -/
opaque Config.stateBody : Nat → List Byte

/-- Place of the state block in pump-house SRAM, which the spec does not give (R347; log 4). -/
opaque Config.blockAddress : Nat

/-- Where the kernel table of a code-object image stands and how many entries it has, and what the 64 bytes of an entry give: name offset, code
offset, code length, launch-record template offset and granule-map offset; the spec gives no places for them (R349, R351; log 4). -/
opaque Config.kernelTable : List Byte → Nat × Nat
opaque Config.kernelFields : List Byte → Nat × Nat × Nat × Nat × Nat

/-- Deepest settings of the two throttles (R366; log 4). -/
opaque Config.deepestSpace : Nat
opaque Config.deepestWithhold : Nat

/-- Cycles, of some number from a CLK on, in which a start or an issue is withheld under two throttle settings (R366; log 4). -/
opaque Config.throttled : Nat → Nat → Nat → Nat → Nat

/-- Events a log holds (R382), and the bytes that encode an event in EVREAD's 16 B (Table 17.6; log 4). -/
opaque Config.logCapacity : Nat
opaque Config.eventBytes : Nat → Nat → Nat → List Byte

/-- Bytes of a save of the pump house, of a build checkpoint or of a core's state whose layout the spec does not give: word `n` of
the `k`-th save (R258, R299; log 4). -/
opaque Config.saveByte : Nat → Nat → Byte

/-- Offsets and bytes of a context's save area that the `k`-th save of a core or half writes (R299; log 4). -/
opaque Config.saveImage : Nat → List (Nat × Byte)

/-- The n-th word whose value the spec leaves open, and a byte of an unused place of a structure that the build engine writes (R240,
R258; log 12). -/
opaque Config.freeWord : Nat → Word
opaque Config.padByte : Nat → Byte

end Sys2Proof
end

