-- ==== Sys2Proof/Syntax.lean ====
section
/-! DEFINITION. The instructions and the part's own steps, one constructor for each row of the opcode table.

Decmen instructions carry the fields of their format (R85 to R95), with selectors, types and conditions already turned into
constructors. Walk micro-operations (R241) and pump-house instructions (R339) carry the fields of their own word spaces. The
part's other steps (engine steps, scheduler steps, queue commands, driver messages, fabric, network and bring-up events) have no
encoding: which unit, object or input such a step is about stands in State.ev. -/

namespace Sys2Proof

/-- Vector type codes 0 to 14 (R64, Table 03.2). Code 15 is no type. -/
inductive VTy where
  | s32 | n32 | s16x2 | n16x2 | s8x4 | n8x4 | f32 | f16x2 | bf16x2 | e4m3x4 | e5m2x4 | e2m1x8 | b32 | s64 | n64
  deriving DecidableEq, Repr

/-- Scalar type codes 0 to 5 (R65). -/
inductive STy where
  | s32 | n32 | s64 | n64 | f32 | b32
  deriving DecidableEq, Repr

/-- Rounding control (R69): the mode of MODE.RM, a named mode, or stochastic rounding. -/
inductive Rc where
  | mode | rne | rtz | rup | rdn | sr
  deriving DecidableEq, Repr

/-- A 12-bit source selector (R95, Table 04.8). -/
inductive Sel where
  /-- Vector register vn. -/
  | vreg (n : BitVec 11)
  /-- Latch ^(k+1). -/
  | latch (k : BitVec 2)
  /-- Scalar broadcast. -/
  | sreg (n : BitVec 9)
  /-- Special source of Table 02.3. -/
  | special (code : BitVec 9)
  /-- Inline integer, signed. -/
  | imm (v : BitVec 9)
  deriving DecidableEq, Repr

/-- The condition of a CX instruction (R88): the kind CK with its register number CR. -/
inductive Cond where
  | mask (m : BitVec 11)
  | vec (v : BitVec 11)
  | scal (s : BitVec 11)
  deriving DecidableEq, Repr

/-- Conditions of `scmp`, and the first six of `vcmp` (R113, R143). -/
inductive Cc where
  | eq | ne | lt | le | gt | ge
  deriving DecidableEq, Repr

/-- Conditions of `vcmp` (R143). -/
inductive VCc where
  | eq | ne | lt | le | gt | ge | unord | ord
  deriving DecidableEq, Repr

/-- Conditions of `swait` (R172). -/
inductive WaitCc where
  | eq | ne | ge | lt | andnz
  deriving DecidableEq, Repr

/-- Access sizes of the loads of OPC 0x60, 0x62 and 0x63 (Table 07.1). -/
inductive LdFn where
  | b8z | b8s | b16z | b16s | b32 | b64 | b128
  deriving DecidableEq, Repr

/-- Access sizes of the stores of OPC 0x61 and 0x64 (Table 07.1). -/
inductive StFn where
  | b8 | b16 | b32 | b64 | b128
  deriving DecidableEq, Repr

/-- Atomic operations (Table 07.3). -/
inductive AtomOp where
  | add | sub | min | max | and | or | xor | xchg | cas | fadd | fmin | fmax
  deriving DecidableEq, Repr

/-- Kinds of `vpref` (R169). -/
inductive PrefKind where
  | l1 | l2 | evf
  deriving DecidableEq, Repr

/-- Orders of `fence` (R171). -/
inductive FenceOrd where
  | acq | rel | acqrel
  deriving DecidableEq, Repr

/-- C format (R87). -/
structure CFmt where
  lk  : Bool
  imm : BitVec 16
  deriving DecidableEq, Repr

/-- CX format (R88). -/
structure CXFmt where
  lk   : Bool
  imm  : BitVec 16
  cond : Cond
  neg  : Bool
  lp   : BitVec 9
  deriving DecidableEq, Repr

/-- The two layouts of granule G1 in the S format (R90). -/
inductive SSrc where
  | regs (a b : BitVec 9) (imm14 : BitVec 14)
  | imm (a : BitVec 9) (imm23 : BitVec 23)
  deriving DecidableEq, Repr

/-- S format (R90). -/
structure SFmt where
  lk  : Bool
  ty  : STy
  d   : BitVec 9
  z   : BitVec 3
  src : SSrc
  deriving DecidableEq, Repr

/-- V format (R91); the E format has the same bits (R93). `guard` is none for GE = 0. -/
structure VFmt where
  lk    : Bool
  ty    : VTy
  sat   : Bool
  rc    : Rc
  guard : Option (BitVec 7)
  nw    : Bool
  d     : BitVec 11
  a     : Sel
  x     : BitVec 8
  b     : Sel
  c     : Sel
  y     : BitVec 8
  deriving DecidableEq, Repr

/-- VM format (R92). -/
structure VMFmt where
  lk    : Bool
  ty    : VTy
  cpol  : BitVec 2
  guard : Option (BitVec 7)
  d     : BitVec 11
  a     : Sel
  te    : Bool
  sc    : BitVec 3
  k     : BitVec 4
  sb    : BitVec 9
  c     : Sel
  imm8  : BitVec 8
  deriving DecidableEq, Repr

/-- Why the granules at a fragment's PC are no instruction (R98). -/
inductive DecodeFail where
  /-- A granule could not be fetched: PAGE (step 1). -/
  | fetchPage
  /-- A granule could not be fetched: PROT (step 1). -/
  | fetchProt
  /-- An address of R56 that names no code: PATH. -/
  | fetchPath
  /-- Steps 2 to 4: LEN 11, an unassigned OPC, or a LEN that is not the format's. -/
  | early
  /-- Steps 6 and 7 of an OPC of the H level: PRIV comes first at level U (step 5). -/
  | lateHandler
  /-- Steps 6 and 7 of any other OPC. -/
  | late
  deriving DecidableEq, Repr

/-- One constructor for each row of the opcode table. -/
inductive Instr where
  -- Control (OPC 0x00 to 0x09)
  | nop (f : CFmt)
  | land (f : CFmt)
  | exit (f : CFmt)
  | yield (f : CFmt)
  | brk (f : CFmt)
  | trap (f : CFmt)
  | br (f : CFmt)
  | brc (f : CXFmt)
  | brany (f : CXFmt)
  | brall (f : CXFmt)
  | iff (f : CXFmt)
  | els (f : CFmt)
  | endif (f : CFmt)
  | loop (f : CFmt)
  | endloop (f : CFmt)
  | brkLoop (f : CFmt)
  | cont (f : CFmt)
  | rejoin (f : CFmt)
  | call (f : SFmt)
  | ret (f : SFmt)
  | jmp (f : SFmt)
  | jtab (f : CXFmt)
  | ctab (f : CXFmt)
  | wait (f : CFmt)
  -- Scalar (OPC 0x10 to 0x13)
  | sadd (f : SFmt)
  | ssub (f : SFmt)
  | smul (f : SFmt)
  | smulh (f : SFmt)
  | sand (f : SFmt)
  | sor (f : SFmt)
  | sxor (f : SFmt)
  | sandn (f : SFmt)
  | sshl (f : SFmt)
  | sshr (f : SFmt)
  | ssar (f : SFmt)
  | smin (f : SFmt)
  | smax (f : SFmt)
  | spopc (f : SFmt)
  | sclz (f : SFmt)
  | sctz (f : SFmt)
  | sbfe (f : SFmt)
  | sbfi (f : SFmt)
  | sbrev (f : SFmt)
  | smov (f : SFmt)
  | ssel (f : SFmt)
  | scmp (cc : Cc) (f : SFmt)
  | sfadd (f : SFmt)
  | sfsub (f : SFmt)
  | sfmul (f : SFmt)
  | sffma (f : SFmt)
  | sfmin (f : SFmt)
  | sfmax (f : SFmt)
  | scvt (f : SFmt)
  | ldlit (f : SFmt)
  -- Mask triples, PCRs and register blocks (OPC 0x14 to 0x16)
  | mand (f : SFmt)
  | mor (f : SFmt)
  | mxor (f : SFmt)
  | mandn (f : SFmt)
  | mnot (f : SFmt)
  | mpopc (f : SFmt)
  | mffs (f : SFmt)
  | mmov (f : SFmt)
  | mact (f : SFmt)
  | pcrr (f : SFmt)
  | pcrw (f : SFmt)
  | vacq (f : SFmt)
  | vrel (f : SFmt)
  -- Vector arithmetic and logic (OPC 0x40 to 0x47)
  | vadd (f : VFmt)
  | vsub (f : VFmt)
  | vmul (f : VFmt)
  | vmulh (f : VFmt)
  | vmad (f : VFmt)
  | vfma (f : VFmt)
  | vmin (f : VFmt)
  | vmax (f : VFmt)
  | vabs (f : VFmt)
  | vneg (f : VFmt)
  | vand (f : VFmt)
  | vor (f : VFmt)
  | vxor (f : VFmt)
  | vandn (f : VFmt)
  | vnot (f : VFmt)
  | vshl (f : VFmt)
  | vshr (f : VFmt)
  | vsar (f : VFmt)
  | vlut3 (f : VFmt)
  | vfshl (f : VFmt)
  | vfshr (f : VFmt)
  | vpopc (f : VFmt)
  | vclz (f : VFmt)
  | vctz (f : VFmt)
  | vbfe (f : VFmt)
  | vbfi (f : VFmt)
  | vbrev (f : VFmt)
  | vmov (f : VFmt)
  | vsel (f : VFmt)
  | vcmp (cc : VCc) (f : VFmt)
  | vrcp (f : VFmt)
  | vrsq (f : VFmt)
  | vsqrt (f : VFmt)
  | vfloor (f : VFmt)
  | vceil (f : VFmt)
  | vtrunc (f : VFmt)
  | vrint (f : VFmt)
  | vfract (f : VFmt)
  | vclass (f : VFmt)
  | vldexp (f : VFmt)
  | vgetexp (f : VFmt)
  | vgetman (f : VFmt)
  | vprof (fid : BitVec 3) (f : VFmt)
  | pload (f : VFmt)
  | vcvt (f : VFmt)
  | vmxs (f : VFmt)
  | vpack (f : VFmt)
  | vunpack (f : VFmt)
  | vdot2 (f : VFmt)
  | vdot4 (f : VFmt)
  -- Cross-lane and edge (OPC 0x48, 0x49), deprecated forms (OPC 0x5C to 0x5E)
  | vshfl (f : VFmt)
  | vbcast (f : VFmt)
  | vrot (f : VFmt)
  | vballot (f : VFmt)
  | vred (f : VFmt)
  | vscan (f : VFmt)
  | vnzs (f : VFmt)
  | vmatch (f : VFmt)
  | vedge (f : VFmt)
  | vmad24 (f : VFmt)
  | vbfly (f : VFmt)
  | vsad4 (f : VFmt)
  -- Memory (OPC 0x60 to 0x6D)
  | vld (fn : LdFn) (f : VMFmt)
  | vst (fn : StFn) (f : VMFmt)
  | vgld (fn : LdFn) (f : VMFmt)
  | vgldl (fn : LdFn) (f : VMFmt)
  | vgst (fn : StFn) (f : VMFmt)
  | vatom (op : AtomOp) (f : VMFmt)
  | vpref (kind : PrefKind) (f : VMFmt)
  | sld (f : SFmt)
  | sst (f : SFmt)
  | satom (op : AtomOp) (f : SFmt)
  | fence (ord : FenceOrd) (f : SFmt)
  | swait (cc : WaitCc) (f : SFmt)
  | tlock (f : SFmt)
  | tunlock (f : SFmt)
  -- Copies and barrier objects (OPC 0x70 to 0x72)
  | xcopy (f : VFmt)
  | binit (f : VFmt)
  | barr (f : VFmt)
  | bexp (f : VFmt)
  | bwait (f : VFmt)
  | btest (f : VFmt)
  | bar (f : CFmt)
  | barcl (f : CFmt)
  -- Tiles, matrix operations, accumulators, neural calls (OPC 0x80 to 0x85)
  | tcfg (f : SFmt)
  | tld (f : VFmt)
  | tst (f : VFmt)
  | tzero (f : VFmt)
  | vtot (f : VFmt)
  | ttov (f : VFmt)
  | ttr (f : VFmt)
  | mma (f : VFmt)
  | mmaz (f : VFmt)
  | mmax (f : VFmt)
  | mmaxz (f : VFmt)
  | czero (f : VFmt)
  | cst (f : VFmt)
  | cld (f : VFmt)
  | ctov (f : VFmt)
  | crel (f : VFmt)
  | ncall (f : VFmt)
  | wpin (f : SFmt)
  | wunpin (f : SFmt)
  | wpref (f : SFmt)
  -- Rays and builds (OPC 0x90 to 0x92)
  | rtrace (f : VFmt)
  | rresume (f : VFmt)
  -- Walk micro-operations (Table 10.5)
  | wld (gd : BitVec 3)
  | wchild (gd : BitVec 3)
  | wbox8 (gd ga : BitVec 3) (push : Bool)
  | wpush (ga : BitVec 3)
  | wpop (label : BitVec 8)
  | wtri (ga gb : BitVec 3)
  | winst (ga : BitVec 3)
  | whit (ga gb : BitVec 3)
  | wany (label : BitVec 8)
  | wbr (label : BitVec 8)
  | wbz (ga : BitVec 3) (label : BitVec 8)
  | wbnz (ga : BitVec 3) (label : BitVec 8)
  | wadd (gd ga gb : BitVec 3)
  | waddImm (gd ga : BitVec 3) (imm : BitVec 16)
  | wsub (gd ga gb : BitVec 3)
  | wsubImm (gd ga : BitVec 3) (imm : BitVec 16)
  | wand (gd ga gb : BitVec 3)
  | wandImm (gd ga : BitVec 3) (imm : BitVec 16)
  | wshr (gd ga gb : BitVec 3)
  | wshrImm (gd ga : BitVec 3) (imm : BitVec 16)
  | wmov (gd ga : BitVec 3)
  | wmovSpecial (gd : BitVec 3) (src : BitVec 4)
  | wldi (gd : BitVec 3) (imm : BitVec 16)
  | wldiHi (gd : BitVec 3) (imm : BitVec 16)
  | wld32 (gd : BitVec 3) (off : BitVec 16)
  | wcmp (gd ga gb : BitVec 3) (cc : BitVec 2)
  | wcall (gd : BitVec 3) (label : BitVec 8)
  | wret (ga : BitVec 3)
  | wfail (ga : BitVec 3)
  | xbuild (f : VFmt)
  -- Work graphs, raster and pixels (OPC 0x94, 0x95)
  | ralloc (f : VFmt)
  | rcommit (f : VFmt)
  | rfree (f : VFmt)
  | pzt (f : VFmt)
  | pwr (f : VFmt)
  | pdone (f : VFmt)
  -- Handler instructions (OPC 0xE0, 0xE2)
  | fmask (f : SFmt)
  | fstate (f : SFmt)
  | fresReplay (f : SFmt)
  | fresComplete (f : SFmt)
  | fkill (f : SFmt)
  | fpark (f : SFmt)
  | hcrr (f : SFmt)
  | hcrw (f : SFmt)
  -- Pump-house instructions (Table 17.1)
  | phring (rd rs1 rs2 : BitVec 5)
  | phretire (rd rs1 : BitVec 5)
  | phbfx (rd rs1 rs2 : BitVec 5)
  | phbfxS (rd rs1 rs2 : BitVec 5)
  | phwait (rd rs1 rs2 : BitVec 5)
  | phdisp (rd rs1 rs2 : BitVec 5)
  | phunseal (rd rs1 : BitVec 5)
  | phseal (rd rs1 : BitVec 5)
  -- Words that are no instruction (R98)
  | unassignedEncoding (why : DecodeFail) (granules : List (BitVec 32))
  -- Entries with no operand field of their own: micro-operations, and the part's own steps, whose operands stand in State.ev
  -- Memory (OPC 0x60 to 0x6D)
  | swaitRecheck
  | swaitTimeout
  -- Copies and barrier objects (OPC 0x70 to 0x72)
  | copyChunk
  | copyComplete
  | barto
  -- Tiles, matrix operations, accumulators, neural calls (OPC 0x80 to 0x85)
  | matrixOpStart
  | matrixOpComplete
  | mbuPeriod
  | binAgeFlush
  | sluiceJobComplete
  -- Walk micro-operations (Table 10.5)
  | wleaf
  | winstN
  | wexit
  | wdone
  | build
  -- Work graphs, raster and pixels (OPC 0x94, 0x95)
  | basinTimeout
  | rasterise
  | cellEmit
  | pixelOperation
  | cellWriteback
  -- Steps of the cores and of the scheduler
  | pendingPark
  | timer
  | reachSelect
  | accessComplete
  | refreshWindowBegin
  | refreshWindowEnd
  | dispatch
  | handlerLaunch
  | faultService
  | budgetPeriod
  | budgetCollect
  | eviction
  | preemption
  | saveComplete
  | restore
  | uncorrectableError
  | halt
  | launchComplete
  -- Queue commands (Table 17.4)
  | launch
  | fill
  | signal
  | waitCommand
  | waitCommandRecheck
  | waitCommandTimeout
  | nopCommand
  | wake
  | wakeWrite
  -- Driver messages (Table 17.6), each the message at the head of a ring
  | ctxnew
  | ctxset
  | ctxfree
  | partset
  | qcreate
  | qfree
  | qadminPause
  | qadminResume
  | qadminReset
  | qstat
  | map
  | unmap
  | protect
  | pgreg
  | pgans
  | handler
  | peergrant
  | kill
  | evread
  | resync
  | fwload
  | fwswap
  | fwswapRollback
  | attest
  | xlate
  | xlateTimeout
  | ethring
  | timeset
  | ptpcfg
  -- Register window, fabric, network, power and bring-up
  | mtail
  | devnum
  | registerWrite
  | causewayLoad
  | causewayStore
  | causewayAtomic
  | causewayCompletion
  | causewayImage
  | causewayEvent
  | causewayWake
  | causewayDiscard
  | peerTimeout
  | hostTimeout
  | linkDown
  | linkUp
  | frameReceive
  | ptpMessage
  | powerCheck
  | tempLimit
  | reset
  | boot3Timeout
  | phwaitTimeout
  | correctableError
  deriving DecidableEq, Repr

/-- Where an instruction's words belong, with every field of its encoding; `event` is a step with no encoding. -/
inductive Shape where
  | c (opc : BitVec 8) (fn : BitVec 5) (f : CFmt)
  | cx (opc : BitVec 8) (fn : BitVec 5) (f : CXFmt)
  | s (opc : BitVec 8) (fn : BitVec 5) (f : SFmt)
  | v (opc : BitVec 8) (fn : BitVec 5) (f : VFmt)
  | vm (opc : BitVec 8) (fn : BitVec 5) (f : VMFmt)
  | walk (wop : BitVec 5) (gd ga gb : BitVec 3) (f : BitVec 2) (imm : BitVec 16)
  | ph (custom1 : Bool) (funct3 : BitVec 3) (funct7 : BitVec 7) (rd rs1 rs2 : BitVec 5)
  | event
  deriving DecidableEq, Repr

end Sys2Proof
end

