-- ==== Sys2Proof/WellFormed.lean ====
section
/-! DEFINITION. Which field values each instruction accepts (R98 step 7): the legal sets of R86 to R97, R138 and of every entry.
A term of `Instr` that breaks its check is no instruction: the decoder refuses its words with ILL. Checks that need the state
(the warp's level, register top, barrier slots, latch counts) are no part of this file. -/

namespace Sys2Proof

/-! ## Types -/

/-- Type set I (chapter 06). -/
def VTy.isI : VTy → Bool
  | .s32 | .n32 | .s16x2 | .n16x2 | .s8x4 | .n8x4 => true
  | _ => false

/-- Type set L: the 64-bit types. -/
def VTy.isL : VTy → Bool
  | .s64 | .n64 => true
  | _ => false

/-- Type set F. -/
def VTy.isF : VTy → Bool
  | .f32 | .f16x2 | .bf16x2 => true
  | _ => false

/-- Any floating element format (Table 03.2). -/
def VTy.isFloat : VTy → Bool
  | .f32 | .f16x2 | .bf16x2 | .e4m3x4 | .e5m2x4 | .e2m1x8 => true
  | _ => false

/-- A signed type of I or L. -/
def VTy.isSigned : VTy → Bool
  | .s32 | .s16x2 | .s8x4 | .s64 => true
  | _ => false

/-- Elements per lane (Table 03.2); an L type counts 1. -/
def VTy.count : VTy → Nat
  | .s16x2 | .n16x2 | .f16x2 | .bf16x2 => 2
  | .s8x4 | .n8x4 | .e4m3x4 | .e5m2x4 => 4
  | .e2m1x8 => 8
  | _ => 1

/-- Element width in bits (Table 03.2). -/
def VTy.width : VTy → Nat
  | .s16x2 | .n16x2 | .f16x2 | .bf16x2 => 16
  | .s8x4 | .n8x4 | .e4m3x4 | .e5m2x4 => 8
  | .e2m1x8 => 4
  | .s64 | .n64 => 64
  | _ => 32

/-- Operand width of a scalar type (R109). -/
def STy.wide : STy → Bool
  | .s64 | .n64 => true
  | _ => false

def STy.isInt : STy → Bool
  | .s32 | .n32 | .s64 | .n64 => true
  | _ => false

def STy.isSigned : STy → Bool
  | .s32 | .s64 => true
  | _ => false

def STy.bits : STy → Nat
  | .s64 | .n64 => 64
  | _ => 32

/-! ## Selectors -/

/-- The bits a selector kind fixes: scalar number below 384, special code below 10 (R95). -/
def Sel.inRange : Sel → Bool
  | .sreg n => n.toNat < 384
  | .special c => c.toNat < 10
  | _ => true

/-- A selector read at type `ty` (R40, R43, R95). -/
def Sel.okFor (ty : VTy) (s : Sel) : Bool :=
  s.inRange && match s with
  | .vreg n => !ty.isL || n.toNat % 2 == 0
  | .sreg n => !ty.isL || n.toNat % 2 == 0
  | .special c => c.toNat < 7 || !(ty.isI || ty.isL)
  | _ => true

/-- A position read as a 32-bit integer (R97). -/
def Sel.okInt (s : Sel) : Bool :=
  s.inRange && match s with
  | .special c => c.toNat < 7
  | _ => true

/-- A selector the entry does not use (R94). -/
def Sel.unused (s : Sel) : Bool := s == .vreg 0

def Sel.isVreg : Sel → Bool
  | .vreg _ => true
  | _ => false

def Sel.isLatch : Sel → Bool
  | .latch _ => true
  | _ => false

/-- A scalar-broadcast or inline selector. -/
def Sel.isScalarOrImm (s : Sel) : Bool :=
  s.inRange && match s with
  | .sreg _ | .imm _ => true
  | _ => false

/-- A scalar-broadcast, inline or special selector (R181). -/
def Sel.isUniform (s : Sel) : Bool :=
  s.okInt && match s with
  | .sreg _ | .imm _ | .special _ => true
  | _ => false

/-- A scalar-broadcast selector naming an even pair. -/
def Sel.isPair : Sel → Bool
  | .sreg n => n.toNat < 384 && n.toNat % 2 == 0
  | _ => false

def Sel.isEvenVreg : Sel → Bool
  | .vreg n => n.toNat % 2 == 0
  | _ => false

/-! ## Formats -/

def CFmt.zero (f : CFmt) : Bool := f.imm == 0

/-- Parity and range of a scalar register or pair (R39, R40, R90). -/
def sregOk (wide : Bool) (n : BitVec 9) : Bool :=
  n.toNat < 384 && (!wide || n.toNat % 2 == 0)

def tripleOk (n : BitVec 9) : Bool := n.toNat < 128

def CXFmt.condOk (f : CXFmt) : Bool :=
  match f.cond with
  | .mask m => m.toNat < 128
  | .vec _ => true
  | .scal s => s.toNat < 384

def CXFmt.laneCond (f : CXFmt) : Bool :=
  match f.cond with
  | .scal _ => false
  | _ => true

def CXFmt.scalCond (f : CXFmt) : Bool :=
  match f.cond with
  | .scal _ => true
  | _ => false

def CXFmt.vecCond (f : CXFmt) : Bool :=
  match f.cond with
  | .vec _ => true
  | _ => false

/-- A link pair of `ctab`: even, 4 to 382 (R88). -/
def linkOk (n : BitVec 9) : Bool := n.toNat % 2 == 0 && 4 ≤ n.toNat && n.toNat ≤ 382

def CXFmt.tableOk (f : CXFmt) : Bool := f.vecCond && f.imm == 0 && !f.neg

/-- G1 with I = 0 and no immediate; `useA`, `useB` say which registers the entry uses. -/
def SFmt.regsOk (f : SFmt) (wideA wideB useA useB : Bool) : Bool :=
  match f.src with
  | .regs a b i =>
    (if useA then sregOk wideA a else a == 0) && (if useB then sregOk wideB b else b == 0) && i == 0
  | .imm _ _ => false

/-- Operand op2 of R110 beside a first operand. -/
def SFmt.op2Ok (f : SFmt) (wide useA : Bool) : Bool :=
  match f.src with
  | .regs a b i => (if useA then sregOk wide a else a == 0) && sregOk wide b && i == 0
  | .imm a _ => if useA then sregOk wide a else a == 0

def SFmt.isImm (f : SFmt) : Bool :=
  match f.src with
  | .regs _ _ _ => false
  | .imm _ _ => true

/-- Binary operations of Table 05.1; `b32` says whether that type is allowed. -/
def SFmt.binOk (f : SFmt) (b32 : Bool) : Bool :=
  (f.ty.isInt || (b32 && f.ty == .b32)) && f.z == 0 && sregOk f.ty.wide f.d && f.op2Ok f.ty.wide true

/-- Unary operations of Table 05.1. -/
def SFmt.unOk (f : SFmt) : Bool :=
  (f.ty.isInt || f.ty == .b32) && f.z == 0 && sregOk f.ty.wide f.d && f.regsOk f.ty.wide f.ty.wide true false

/-- Bit-field operations (R112). -/
def SFmt.fieldOk (f : SFmt) (useB b32 : Bool) : Bool :=
  (f.ty.isInt || (b32 && f.ty == .b32)) && f.z == 0 && sregOk f.ty.wide f.d &&
  match f.src with
  | .regs a b i =>
    sregOk f.ty.wide a && (if useB then sregOk f.ty.wide b else b == 0) && (i.toNat / 4096 == 0) &&
      decide (i.toNat % 64 + (i.toNat / 64 % 64 + 1) ≤ f.ty.bits)
  | .imm _ _ => false

/-- Float operations (R114). -/
def SFmt.floatOk (f : SFmt) : Bool :=
  f.ty == .f32 && f.z == 0 && sregOk false f.d && f.regsOk false false true true

/-- The source type in Z of `scvt` (R115): no b32, no code 6 or 7. -/
def SFmt.zTy (f : SFmt) : Option STy :=
  match f.z.toNat with
  | 0 => some .s32
  | 1 => some .n32
  | 2 => some .s64
  | 3 => some .n64
  | 4 => some .f32
  | _ => none

/-- Mask-triple instructions (R117): three triples. -/
def SFmt.tripleOp (f : SFmt) (useA useB : Bool) : Bool :=
  f.ty == .s32 && f.z == 0 && tripleOk f.d &&
  match f.src with
  | .regs a b i => (if useA then tripleOk a else a == 0) && (if useB then tripleOk b else b == 0) && i == 0
  | .imm _ _ => false

/-- Mask-triple instructions with a scalar destination (R117). -/
def SFmt.tripleToScalar (f : SFmt) : Bool :=
  f.ty == .s32 && f.z == 0 && sregOk false f.d &&
  match f.src with
  | .regs a b i => tripleOk a && b == 0 && i == 0
  | .imm _ _ => false

/-- PCR indices that `pcrw` may write (R44, Table 02.4). -/
def pcrWritable (n : Nat) : Bool :=
  n == 0 || n == 2 || n == 9 || n == 10 || n == 11 || n == 12 || (16 ≤ n && n ≤ 31)

/-- The operand of `vacq`, `vrel`, `wpin`, `wunpin` and `wpref`: a register or an immediate. -/
def SFmt.countOk (f : SFmt) : Bool :=
  f.ty == .s32 && f.z == 0 &&
  match f.src with
  | .regs a b i => sregOk false a && b == 0 && i == 0
  | .imm a _ => a == 0

/-- The address of a jump or call (R130). -/
def SFmt.targetOk (f : SFmt) (imm : Bool) : Bool :=
  f.ty == .s32 && f.z == 0 &&
  match f.src with
  | .regs a b i => sregOk true a && b == 0 && i == 0
  | .imm a _ => imm && a == 0

/-- The address of `sld` and `sst` (R170). -/
def SFmt.addrOk (f : SFmt) : Bool :=
  match f.src with
  | .regs a b _ => sregOk true a && sregOk false b
  | .imm a _ => sregOk true a

/-- Legal types of an atomic operation (Table 07.3). -/
def AtomOp.allows (op : AtomOp) (ty : VTy) : Bool :=
  match op with
  | .add | .sub | .min | .max => ty == .s32 || ty == .n32 || ty.isL
  | .and | .or | .xor => ty == .n32 || ty == .b32 || ty == .n64
  | .xchg | .cas => ty == .b32 || ty == .n64
  | .fadd | .fmin | .fmax => ty.isF

/-- The vector type with the same elements as a scalar type. -/
def STy.vty : STy → VTy
  | .s32 => .s32
  | .n32 => .n32
  | .s64 => .s64
  | .n64 => .n64
  | .f32 => .f32
  | .b32 => .b32

/-- Fields common to the handler instructions (R312): TY = 0, I = 0. -/
def SFmt.handlerOk (f : SFmt) (useA : Bool) (d : BitVec 9 → Bool) (b : BitVec 9 → Bool) (i : BitVec 14 → Bool) : Bool :=
  f.ty == .s32 && d f.d &&
  match f.src with
  | .regs a b' i' => (if useA then sregOk false a else a == 0) && b b' && i i'
  | .imm _ _ => false

/-! ## V and E format -/

/-- An even destination for 64-bit types (R40). -/
def VFmt.dOk (f : VFmt) : Bool := !f.ty.isL || f.d.toNat % 2 == 0

def VFmt.noRound (f : VFmt) : Bool := !f.sat && f.rc == .mode

/-- X and Y both zero. -/
def VFmt.noXY (f : VFmt) : Bool := f.x == 0 && f.y == 0

/-- A 64-bit type needs an even number in every selector that names a vector register, whatever the position reads (R40). -/
def Sel.evenIn (ty : VTy) (s : Sel) : Bool :=
  match s with
  | .vreg n => !ty.isL || n.toNat % 2 == 0
  | _ => true

/-- One, two or three typed sources; the rest unused (R138). -/
def VFmt.src1 (f : VFmt) : Bool := f.a.okFor f.ty && f.b.unused && f.c.unused
def VFmt.src2 (f : VFmt) : Bool := f.a.okFor f.ty && f.b.okFor f.ty && f.c.unused
def VFmt.src3 (f : VFmt) : Bool := f.a.okFor f.ty && f.b.okFor f.ty && f.c.okFor f.ty

/-- Rounding allowed on F types only, never stochastic (Table 06.1). -/
def VFmt.rcF (f : VFmt) : Bool := f.rc == .mode || (f.ty.isF && f.rc != .sr)

/-- `vadd`, `vsub`, `vmul`. -/
def VFmt.arithOk (f : VFmt) : Bool :=
  (f.ty.isI || f.ty.isL || f.ty.isF) && f.rcF && f.src2 && f.dOk && f.noXY

/-- `vmin`, `vmax`. -/
def VFmt.minmaxOk (f : VFmt) : Bool :=
  (f.ty.isI || f.ty.isL || f.ty.isF) && f.noRound && f.src2 && f.dOk && f.noXY

/-- `vabs`, `vneg`. -/
def VFmt.signOk (f : VFmt) : Bool :=
  (f.ty.isSigned || f.ty.isF) && (!f.sat || f.ty.isSigned) && f.rc == .mode && f.src1 && f.dOk && f.noXY

def VFmt.isILB (f : VFmt) : Bool := f.ty.isI || f.ty.isL || f.ty == .b32

/-- Two-source logic and shifts. -/
def VFmt.logic2Ok (f : VFmt) : Bool := f.isILB && f.noRound && f.src2 && f.dOk && f.noXY

/-- One-source logic and counts. -/
def VFmt.logic1Ok (f : VFmt) : Bool := f.isILB && f.noRound && f.src1 && f.dOk && f.noXY

/-- `vbfe`, `vbfi`, `vbrev`: 32-bit types. -/
def VFmt.is32 (f : VFmt) : Bool := f.ty == .s32 || f.ty == .n32 || f.ty == .b32

/-- OPC 0x43 (Table 06.3): type F, one source. -/
def VFmt.funcOk (f : VFmt) (sat rc : Bool) : Bool :=
  f.ty.isF && (sat || !f.sat) && (f.rc == .mode || (rc && f.rc != .sr)) && f.src1 && f.noXY

/-- Type code of a 4-bit field; 15 is none. -/
def vtyOfCode (n : Nat) : Option VTy :=
  match n with
  | 0 => some .s32
  | 1 => some .n32
  | 2 => some .s16x2
  | 3 => some .n16x2
  | 4 => some .s8x4
  | 5 => some .n8x4
  | 6 => some .f32
  | 7 => some .f16x2
  | 8 => some .bf16x2
  | 9 => some .e4m3x4
  | 10 => some .e5m2x4
  | 11 => some .e2m1x8
  | 12 => some .b32
  | 13 => some .s64
  | 14 => some .n64
  | _ => none

/-- The source type in X[3:0] of the conversions (Table 06.5). -/
def VFmt.srcTy (f : VFmt) : Option VTy := vtyOfCode (f.x.toNat % 16)

/-- X[6:4]. -/
def VFmt.xPos (f : VFmt) : Nat := f.x.toNat / 16 % 8

def VFmt.xBit7 (f : VFmt) : Bool := f.x.toNat / 128 == 1

/-- Rounding of a conversion: stochastic only into a floating type (R69). -/
def VFmt.cvtRc (f : VFmt) : Bool := f.rc != .sr || f.ty.isFloat

def VFmt.cvtOk (f : VFmt) : Bool :=
  match f.srcTy with
  | none => false
  | some st =>
    let ns := st.count
    let nd := f.ty.count
    f.ty != .b32 && st != .b32 && !f.xBit7 && f.cvtRc && f.a.okFor st && f.a.evenIn f.ty && f.b.unused && f.c.unused && f.dOk && f.y == 0 &&
      (if ns ≤ nd then decide ((f.xPos + 1) * ns ≤ nd) else decide ((f.xPos + 1) * nd ≤ ns))

def VFmt.packOk (f : VFmt) : Bool :=
  match f.srcTy with
  | none => false
  | some st =>
    f.ty != .b32 && st != .b32 && !f.ty.isL && !st.isL && f.ty.count == 2 * st.count && f.x.toNat / 16 == 0 &&
      f.cvtRc && f.a.okFor st && f.b.okFor st && f.c.unused && f.y == 0

/-- Legal pairs of `vunpack` (Table 06.6). -/
def unpackPair (src dst : VTy) : Bool :=
  match src, dst with
  | .s16x2, .s32 | .n16x2, .n32 | .n16x2, .s32 | .s8x4, .s16x2 | .n8x4, .n16x2 | .n8x4, .s16x2 | .f16x2, .f32 | .bf16x2, .f32
  | .e4m3x4, .f16x2 | .e4m3x4, .bf16x2 | .e5m2x4, .f16x2 | .e5m2x4, .bf16x2 | .e2m1x8, .e4m3x4 | .e2m1x8, .e5m2x4 => true
  | _, _ => false

def VFmt.unpackOk (f : VFmt) : Bool :=
  match f.srcTy with
  | none => false
  | some st =>
    unpackPair st f.ty && f.noRound && f.x.toNat / 32 == 0 && f.a.okFor st && f.b.unused && f.c.unused && f.y == 0

def VFmt.mxsOk (f : VFmt) : Bool :=
  (f.ty == .e2m1x8 || f.ty == .e4m3x4 || f.ty == .e5m2x4) && !f.sat && !f.nw && f.d.toNat % 2 == 0 && f.a.okFor .f32 &&
    f.b.unused && f.c.unused && f.y == 0 && f.x.toNat % 16 == 0 && !f.xBit7 && decide (f.xPos < f.ty.count)

/-- `vdot2`, `vdot4`: A and B at the packed type, C one 32-bit value (R152). -/
def VFmt.dotOk (f : VFmt) : Bool :=
  (f.rc == .mode || (f.ty.isFloat && f.rc != .sr)) && f.a.okFor f.ty && f.b.okFor f.ty &&
    f.c.okFor (if f.ty.isFloat then .f32 else .s32) && f.noXY

/-- X holds only a group selector, if any (R153). -/
def VFmt.groupOnly (f : VFmt) (group : Bool) : Bool :=
  f.y == 0 && (if group then f.x.toNat % 16 == 0 && f.x.toNat / 64 == 0 else f.x == 0)

/-- Cross-lane instructions write no latch: NW = 1 is ILL. -/
def VFmt.crossOk (f : VFmt) : Bool := !f.nw && f.dOk

def VFmt.redOk (f : VFmt) (kind : Bool) : Bool :=
  let op := f.x.toNat % 16
  f.crossOk && f.src1 && f.y == 0 && !f.xBit7 && (kind || f.x.toNat / 64 % 2 == 0) &&
    (if op ≤ 2 then f.ty.isI || f.ty.isL || f.ty.isF
     else decide (op ≤ 5) && f.isILB) &&
    (if op == 0 then f.rc == .mode || (f.ty.isF && f.rc != .sr) else f.noRound)

/-- No type, rounding or write-back field is used. -/
def VFmt.plain (f : VFmt) : Bool := f.ty == .s32 && f.noRound && !f.nw

/-- A token in X[3:0] with X[7:4] zero. -/
def VFmt.tokX (f : VFmt) : Bool := f.x.toNat / 16 == 0

/-- Barrier-object instructions (R181). -/
def VFmt.bobjOk (f : VFmt) (d b c : Bool) : Bool :=
  f.plain && f.noXY && f.a.isScalarOrImm &&
    (if d then decide (f.d.toNat < 384) else f.d == 0) && (if b then f.b.isUniform else f.b.unused) &&
    (if c then f.c.isUniform else f.c.unused)

/-- Tile instructions (Table 08.1). -/
def VFmt.tileOk (f : VFmt) : Bool := f.plain && f.c.unused

def VFmt.tileMemOk (f : VFmt) : Bool :=
  f.tileOk && f.d == 0 && f.a.isPair && f.b.isScalarOrImm && f.tokX && f.y.toNat / 16 == 0

def VFmt.chunkOk (f : VFmt) : Bool := f.tileOk && f.b.isScalarOrImm && f.tokX && f.y.toNat / 64 == 0

/-- An accumulator tile name in X[5:0], c0 to c47 (R39, R195). -/
def VFmt.accOk (f : VFmt) : Bool := decide (f.x.toNat < 48)

/-- Formats and functions of Table 08.2; `scaled` is FN 2 or 3. -/
def mmaTy (scaled : Bool) : VTy → Bool
  | .e4m3x4 | .e5m2x4 => true
  | .s8x4 | .n8x4 | .f16x2 | .bf16x2 => !scaled
  | .e2m1x8 => scaled
  | _ => false

def VFmt.mmaOk (f : VFmt) (scaled : Bool) : Bool :=
  mmaTy scaled f.ty && f.noRound && !f.nw && f.d == 0 && f.a.unused && f.c.unused && f.accOk &&
    match f.b with
    | .vreg n => if scaled then decide (n.toNat < 256) else n == 0
    | _ => false

/-- `cst` (Tables 08.3 and 08.4); its ACT = 11 and an ACT or BIAS with a raw type trap at issue, not here (R201). -/
def VFmt.cstOk (f : VFmt) : Bool :=
  let bias := f.y.toNat / 64 % 2
  (f.ty == .s32 || f.ty == .b32 || f.ty == .f32 || f.ty == .f16x2 || f.ty == .bf16x2 || f.ty == .e4m3x4 || f.ty == .e5m2x4) && f.rc != .sr && !f.nw && f.d == 0 && f.a.isScalarOrImm &&
    (match f.b with | .sreg n => decide (n.toNat < 384) | _ => false) &&
    (if bias == 1 then f.c.isScalarOrImm else f.c.unused) && f.accOk && f.y.toNat / 128 == 0

/-- Ray instructions (R249, R252). -/
def VFmt.rayOk (f : VFmt) : Bool := f.plain && f.tokX && f.c.okInt

/-- Record instructions (Table 11.3). -/
def VFmt.recOk (f : VFmt) : Bool := f.plain && f.c.unused && f.noXY

/-- Pixel instructions (Table 11.6). -/
def VFmt.pixOk (f : VFmt) : Bool :=
  f.noRound && !f.nw && f.c.unused && f.b.isPair && f.tokX && f.y.toNat / 16 == 0

/-! ## VM format -/

/-- The footprint of a load in registers (Table 07.1). -/
def LdFn.regs : LdFn → Nat
  | .b64 => 2
  | .b128 => 4
  | _ => 1

def StFn.regs : StFn → Nat
  | .b64 => 2
  | .b128 => 4
  | _ => 1

/-- Address fields of R92. -/
def VMFmt.addrOk (f : VMFmt) : Bool :=
  decide (f.sc.toNat ≤ 4) && (f.te || f.k == 0) &&
    (if f.sb == 0 then f.a.isEvenVreg && f.sc == 0
     else decide (f.sb.toNat ≤ 382) && f.sb.toNat % 2 == 0 && f.a.okFor .s32)

def VMFmt.loadOk (f : VMFmt) (q : Nat) : Bool :=
  f.ty == .s32 && f.c.unused && f.d.toNat % q == 0

/-- A data selector of a store of `q` registers (R159). -/
def Sel.dataOk (q : Nat) (s : Sel) : Bool :=
  match q with
  | 4 => (match s with | .vreg n => n.toNat % 4 == 0 | _ => false)
  | 2 => s.okFor .s64
  | _ => s.okFor .s32

/-- A data selector of `vgst`: registers only (R165). -/
def Sel.vdataOk (q : Nat) (s : Sel) : Bool :=
  match s with
  | .vreg n => n.toNat % q == 0
  | _ => false

/-- The list form of `vgld` and `vgst` (R165): base pair, vector offsets, count in IMM8[2:0]. -/
def VMFmt.gatherOk (f : VMFmt) : Bool := f.sb != 0 && f.a.isVreg && f.imm8.toNat / 8 == 0

/-! ## Every instruction -/

/-- The field checks of R98 step 7. A step with no encoding has no fields to check; a list or object it names is judged by its
meaning. -/
def Instr.wellFormed : Instr → Bool
  | .nop f | .land f | .exit f | .yield f | .endif f | .rejoin f => f.zero
  | .brk _ | .trap _ | .br _ | .els _ | .loop _ | .endloop _ | .wait _ => true
  | .brkLoop f => 1 ≤ f.imm.toNat && f.imm.toNat ≤ 254
  | .cont f => 1 ≤ f.imm.toNat && f.imm.toNat ≤ 255
  | .bar f | .barcl f => f.imm.toNat < 16
  | .brc f => f.condOk && f.scalCond && f.lp == 0
  | .brany f | .brall f => f.condOk && f.laneCond && f.lp == 0
  | .iff f => f.condOk && f.lp == 0
  | .jtab f => f.tableOk && f.lp == 0
  | .ctab f => f.tableOk && linkOk f.lp
  | .call f => f.targetOk true && linkOk f.d
  | .ret f => f.targetOk false && f.d == 0
  | .jmp f => f.targetOk true && f.d == 0
  | .sadd f | .ssub f | .smul f | .smulh f | .smin f | .smax f => f.binOk false
  | .sand f | .sor f | .sxor f | .sandn f | .sshl f | .sshr f | .ssar f => f.binOk true
  | .spopc f | .sclz f | .sctz f | .sbrev f => f.unOk
  | .sbfe f => f.fieldOk false false
  | .sbfi f => f.fieldOk true true
  | .smov f => f.z == 0 && sregOk f.ty.wide f.d && f.op2Ok f.ty.wide false && !(f.ty == .f32 && f.isImm)
  | .ssel f =>
    f.z == 0 && sregOk f.ty.wide f.d &&
      (match f.src with
       | .regs a b i => sregOk f.ty.wide a && sregOk f.ty.wide b && decide (i.toNat < 384)
       | .imm _ _ => false)
  | .scmp _ f =>
    (f.ty.isInt || f.ty == .f32) && f.z == 0 && sregOk f.ty.wide f.d && f.op2Ok f.ty.wide true && !(f.ty == .f32 && f.isImm)
  | .sfadd f | .sfsub f | .sfmul f | .sffma f | .sfmin f | .sfmax f => f.floatOk
  | .scvt f =>
    f.ty != .b32 && sregOk f.ty.wide f.d &&
      (match f.zTy with
       | some st => f.regsOk st.wide false true false
       | none => false)
  | .ldlit f => f.z == 0 && sregOk f.ty.wide f.d && (match f.src with | .imm a _ => a == 0 | .regs _ _ _ => false)
  | .mand f | .mor f | .mxor f | .mandn f => f.tripleOp true true
  | .mnot f | .mmov f => f.tripleOp true false
  | .mact f => f.tripleOp false false
  | .mpopc f | .mffs f => f.tripleToScalar
  | .pcrr f =>
    f.ty == .s32 && f.z == 0 && sregOk false f.d &&
      (match f.src with | .regs a b i => a == 0 && b == 0 && decide (i.toNat < 64) | .imm _ _ => false)
  | .pcrw f =>
    f.ty == .s32 && f.z == 0 && f.d == 0 &&
      (match f.src with | .regs a b i => sregOk false a && b == 0 && pcrWritable i.toNat | .imm _ _ => false)
  | .vacq f | .vrel f | .wpref f => f.countOk && f.d == 0
  | .wpin f | .wunpin f => f.countOk && sregOk false f.d
  | .vadd f | .vsub f | .vmul f => f.arithOk
  | .vmulh f => (f.ty.isI || f.ty.isL) && f.noRound && f.src2 && f.dOk && f.noXY
  | .vmad f => f.ty.isI && f.rc == .mode && f.src3 && f.noXY
  | .vfma f => f.ty.isF && f.rcF && f.src3 && f.noXY
  | .vmin f | .vmax f => f.minmaxOk
  | .vabs f | .vneg f => f.signOk
  | .vand f | .vor f | .vxor f | .vandn f | .vshl f | .vshr f | .vsar f => f.logic2Ok
  | .vnot f | .vpopc f | .vclz f | .vctz f => f.logic1Ok
  | .vlut3 f => f.ty == .b32 && f.noRound && f.src3 && f.y == 0
  | .vfshl f | .vfshr f => f.ty == .b32 && f.noRound && f.src3 && f.noXY
  | .vbfe f => f.is32 && f.noRound && f.src2 && f.noXY
  | .vbfi f => f.is32 && f.noRound && f.src3 && f.noXY
  | .vbrev f => f.is32 && f.noRound && f.src1 && f.noXY
  | .vmov f => f.noRound && f.src1 && f.dOk && f.noXY
  | .vsel f => f.noRound && f.src2 && f.dOk && !f.xBit7 && f.y == 0
  | .vcmp cc f =>
    (f.ty.isI || f.ty.isL || f.ty.isF) && (f.ty.isF || !(cc == .unord || cc == .ord)) && f.noRound && f.src2 &&
      decide (f.d.toNat < 128) && decide (f.x.toNat < f.ty.count) && f.y == 0
  | .vrcp f | .vrsq f | .vsqrt f => f.funcOk true true
  | .vfloor f | .vceil f | .vtrunc f | .vclass f | .vgetexp f | .vgetman f => f.funcOk false false
  | .vrint f | .vfract f => f.funcOk false true
  | .vldexp f => f.ty.isF && f.rcF && f.src2 && f.noXY
  | .vprof _ f => f.ty.isF && !f.sat && (f.rc == .mode || f.rc == .rne) && f.src1 && f.noXY
  | .pload f => f.plain && f.guard == none && f.d == 0 && f.a.isPair && f.b.unused && f.c.unused && f.noXY
  | .vcvt f => f.cvtOk
  | .vmxs f => f.mxsOk
  | .vpack f => f.packOk
  | .vunpack f => f.unpackOk
  | .vdot2 f => (f.ty == .f16x2 || f.ty == .bf16x2 || f.ty == .s16x2 || f.ty == .n16x2) && f.dotOk
  | .vdot4 f => (f.ty == .s8x4 || f.ty == .n8x4 || f.ty == .e4m3x4 || f.ty == .e5m2x4) && f.dotOk
  | .vshfl f =>
    f.crossOk && f.noRound && f.a.okFor f.ty && !f.a.isLatch && f.b.okInt && f.b.evenIn f.ty && f.c.okFor f.ty && f.groupOnly false
  | .vbcast f =>
    f.crossOk && f.noRound && f.a.okFor f.ty && !f.a.isLatch && f.b.isScalarOrImm && f.c.okFor f.ty && f.groupOnly true
  | .vrot f =>
    f.crossOk && f.noRound && f.a.okFor f.ty && !f.a.isLatch && f.b.isScalarOrImm && f.c.unused && f.groupOnly true
  | .vballot f => (f.ty == .n32 || f.ty == .b32) && f.noRound && !f.nw && decide (f.d.toNat < 128) && f.src1 && f.noXY
  | .vred f => f.redOk false
  | .vscan f => f.redOk true
  | .vnzs f =>
    (f.ty == .b32 || f.ty.isL) && f.noRound && f.crossOk && f.src1 && f.y == 0 && !f.xBit7 && f.x.toNat % 16 == 0
  | .vmatch f => (f.ty == .b32 || f.ty.isL) && f.noRound && f.crossOk && f.src1 && f.groupOnly true
  | .vedge f => f.ty == .s32 && f.noRound && f.src3 && decide (f.x.toNat < 2)
  | .vmad24 f => (f.ty == .s32 || f.ty == .n32) && f.noRound && !f.nw && f.src3 && f.noXY
  | .vbfly f => (f.ty.isI || f.ty == .b32) && f.noRound && !f.nw && f.a.okFor f.ty && f.b.isScalarOrImm && f.c.unused && f.noXY
  | .vsad4 f => f.ty == .n8x4 && f.noRound && !f.nw && f.src3 && f.noXY
  | .vld fn f => f.addrOk && f.loadOk fn.regs
  | .vst fn f => f.addrOk && f.ty == .s32 && f.d == 0 && f.c.dataOk fn.regs
  | .vgld fn f => f.addrOk && f.gatherOk && f.loadOk fn.regs
  | .vgst fn f => f.addrOk && f.gatherOk && f.ty == .s32 && f.d == 0 && f.c.vdataOk fn.regs
  | .vgldl fn f =>
    fn != .b128 && decide (f.sc.toNat ≤ 4) && (f.te || f.k == 0) && f.sb != 0 && decide (f.sb.toNat ≤ 382) &&
      f.sb.toNat % 2 == 0 && f.ty == .s32 && f.a.isScalarOrImm && f.c.isScalarOrImm && f.imm8 == 0 && f.d.toNat % fn.regs == 0
  | .vatom op f => op.allows f.ty && f.addrOk && f.a.evenIn f.ty && f.c.okFor f.ty && (!f.ty.isL || f.d.toNat % 2 == 0)
  | .vpref _ f => f.addrOk && f.ty == .s32 && f.d == 0 && f.c.unused && !f.te && f.cpol == 0
  | .sld f => f.ty == .s32 && decide (f.z.toNat ≤ 5) && sregOk (f.z.toNat == 5) f.d && f.addrOk
  | .sst f => f.ty == .s32 && decide (f.z.toNat ≤ 3) && sregOk (f.z.toNat == 3) f.d && f.addrOk
  | .satom op f =>
    op.allows f.ty.vty && decide (f.z.toNat < 4) && sregOk f.ty.wide f.d &&
      (match f.src with | .regs a b _ => sregOk true a && sregOk f.ty.wide b | .imm _ _ => false)
  | .fence _ f =>
    f.ty == .s32 && f.z == 0 && f.d == 0 &&
      (match f.src with | .regs a b i => a == 0 && b == 0 && decide (i.toNat ≤ 4) | .imm _ _ => false)
  | .swait cc f =>
    (f.ty.isInt || (f.ty == .b32 && cc != .ge && cc != .lt)) && f.z == 0 && sregOk f.ty.wide f.d &&
      (match f.src with | .regs a b _ => sregOk true a && sregOk f.ty.wide b | .imm _ _ => false)
  | .tlock f | .tunlock f => f.ty == .s32 && f.z == 0 && sregOk false f.d && f.regsOk true true true true
  | .xcopy f => f.plain && f.d == 0 && f.a.isScalarOrImm && f.b.unused && f.c.unused && f.tokX && f.y == 0
  | .binit f => f.bobjOk false true true
  | .barr f | .bexp f | .bwait f => f.bobjOk false true false
  | .btest f => f.bobjOk true false false
  | .tcfg f =>
    f.ty == .s32 && f.z == 0 && decide (f.d.toNat < 16) &&
      (match f.src with | .regs a b i => sregOk false a && b == 0 && i == 0 | .imm a _ => a == 0)
  | .tld f | .tst f => f.tileMemOk
  | .tzero f => f.tileOk && f.d == 0 && f.a.unused && f.b.unused && f.tokX && f.y == 0
  | .vtot f => f.chunkOk && f.d == 0 && f.a.isVreg
  | .ttov f => f.chunkOk && f.a.unused
  | .ttr f => f.tileOk && f.d == 0 && f.a.unused && f.b.unused && f.y == 0
  | .mma f | .mmaz f => f.mmaOk false
  | .mmax f | .mmaxz f => f.mmaOk true
  | .czero f | .crel f => f.plain && f.d == 0 && f.a.unused && f.b.unused && f.c.unused && f.accOk && f.y == 0
  | .cst f => f.cstOk
  | .cld f =>
    f.ty == .b32 && f.noRound && !f.nw && f.d == 0 && f.a.isScalarOrImm &&
      (match f.b with | .sreg n => decide (n.toNat < 384) | _ => false) && f.c.unused && f.accOk && f.y.toNat / 16 == 0
  | .ctov f =>
    f.ty == .b32 && f.noRound && !f.nw && f.a.unused && f.b.isScalarOrImm && f.c.unused && f.accOk && f.y.toNat / 64 == 0
  | .ncall f =>
    f.ty == .f16x2 && f.noRound && !f.nw && f.a.isVreg && f.b.isScalarOrImm && f.c.unused && f.tokX && f.y == 0
  | .rtrace f => f.rayOk && f.a.isVreg && f.b.isScalarOrImm && f.y.toNat / 4 == 0
  | .rresume f => f.rayOk && f.a.unused && f.b.unused && f.y.toNat / 2 == 0
  | .wpush ga | .winst ga => ga.toNat % 2 == 0
  | .wtri ga _ => ga.toNat % 2 == 0
  | .whit ga _ => decide (ga.toNat ≤ 5)
  | .wmovSpecial _ src => decide (src.toNat < 8)
  | .wld32 _ off => off.toNat % 4 == 0 && decide (off.toNat < 512)
  | .xbuild f => f.plain && f.d == 0 && f.a.isPair && f.b.unused && f.c.unused && f.tokX && f.y == 0
  | .ralloc f => f.recOk && f.d.toNat % 2 == 0 && f.a.unused && f.b.isScalarOrImm
  | .rcommit f | .rfree f => f.recOk && f.d == 0 && f.a.isEvenVreg && f.b.unused
  | .pzt f => f.ty == .f32 && f.pixOk && f.a.okFor .f32
  | .pwr f => f.ty == .b32 && f.pixOk && f.d == 0 && f.a.okFor .b32
  | .pdone f => f.ty == .s32 && f.pixOk && f.d == 0 && f.a.unused && f.x == 0
  | .fmask f => f.handlerOk true tripleOk (· == 0) (· == 0) && decide (f.z.toNat ≤ 1)
  | .fstate f => f.handlerOk true (sregOk false) (· == 0) (fun i => decide (i.toNat ≤ 11)) && f.z == 0
  | .fresReplay f =>
    f.handlerOk true (· == 0) (if f.z.toNat / 2 % 2 == 1 then tripleOk else (· == 0)) (· == 0) && (f.z.toNat == 0 || f.z.toNat == 2)
  | .fresComplete f =>
    f.handlerOk true (· == 0) (if f.z.toNat / 2 % 2 == 1 then tripleOk else (· == 0)) (· == 0) && (f.z.toNat == 1 || f.z.toNat == 3)
  | .fkill f => f.handlerOk true (· == 0) (· == 0) (· == 0) && f.z == 0
  | .fpark f => f.handlerOk true (· == 0) (· == 0) (fun _ => true) && f.z == 0
  | .hcrr f =>
    (match f.src with
     | .regs _ _ i => f.handlerOk false (sregOk false) (· == 0) (fun i => decide (i.toNat < 16)) &&
         (f.z == 0 || (f.z == 1 && i == 0))
     | .imm _ _ => false)
  | .hcrw f => f.handlerOk true (· == 0) (· == 0) (fun i => decide (i.toNat < 7)) && f.z == 0
  | _ => true

end Sys2Proof
end

