-- ==== Sys2Proof/Decode.lean ====
section
/-! DEFINITION. Decoding (R84 to R98) and, after it, the encoder written from the same tables.

Three word spaces have no decoder in common (R102): Decmen granules, walk micro-operation words, pump-house custom words.
Every decoder is total; words that are no instruction are rejected with the step of R98 that rejects them. -/

namespace Sys2Proof

/-- Bits [hi:lo] of a word (R4). -/
def field {n : Nat} (w : BitVec n) (lo len : Nat) : BitVec len := w.extractLsb' lo len

/-! ## Fields -/

/-- Rounding control field (R69); codes 6 and 7 are ILL. -/
def rcOfCode (n : Nat) : Option Rc :=
  match n with
  | 0 => some .mode
  | 1 => some .rne
  | 2 => some .rtz
  | 3 => some .rup
  | 4 => some .rdn
  | 5 => some .sr
  | _ => none

/-- Scalar type field (R65); codes 6 and 7 are ILL. -/
def styOfCode (n : Nat) : Option STy :=
  match n with
  | 0 => some .s32
  | 1 => some .n32
  | 2 => some .s64
  | 3 => some .n64
  | 4 => some .f32
  | 5 => some .b32
  | _ => none

/-- A source selector (R95, Table 04.8). -/
def selOfBits (w : BitVec 12) : Option Sel :=
  if field w 11 1 == 0 then some (.vreg (field w 0 11))
  else match (field w 9 2).toNat with
    | 0 => if field w 2 7 == 0 then some (.latch (field w 0 2)) else none
    | 1 => some (.sreg (field w 0 9))
    | 2 => some (.special (field w 0 9))
    | _ => some (.imm (field w 0 9))

/-- Guard fields GE and GM (R91): GE = 0 with GM nonzero is ILL. -/
def guardOfBits (ge : BitVec 1) (gm : BitVec 7) : Option (Option (BitVec 7)) :=
  if ge == 1 then some (some gm) else if gm == 0 then some none else none

/-! ## Formats -/

def parseC (g0 : Word) : CFmt := { lk := field g0 29 1 == 1, imm := field g0 0 16 }

/-- CX format (R88); CK 11 and a nonzero G1[8:0] are ILL. -/
def parseCX (g0 g1 : Word) : Option CXFmt :=
  let cr := field g1 19 11
  let mk (c : Cond) : Option CXFmt :=
    some { lk := field g0 29 1 == 1, imm := field g0 0 16, cond := c, neg := field g1 18 1 == 1, lp := field g1 9 9 }
  if field g1 0 9 == 0 then
    match (field g1 30 2).toNat with
    | 0 => mk (.mask cr)
    | 1 => mk (.vec cr)
    | 2 => mk (.scal cr)
    | _ => none
  else none

/-- S format (R90). -/
def parseS (g0 g1 : Word) : Option SFmt :=
  (styOfCode (field g0 13 3).toNat).map fun ty =>
    { lk := field g0 29 1 == 1, ty := ty, d := field g0 4 9, z := field g0 0 3,
      src := if field g0 3 1 == 1 then .imm (field g1 23 9) (field g1 0 23)
             else .regs (field g1 23 9) (field g1 14 9) (field g1 0 14) }

/-- V and E format (R91, R93). -/
def parseV (g0 g1 g2 : Word) : Option VFmt := do
  let ty ← vtyOfCode (field g0 12 4).toNat
  let rc ← rcOfCode (field g0 8 3).toNat
  let guard ← guardOfBits (field g0 7 1) (field g0 0 7)
  let a ← selOfBits (field g1 8 12)
  let b ← selOfBits (field g2 20 12)
  let c ← selOfBits (field g2 8 12)
  return { lk := field g0 29 1 == 1, ty := ty, sat := field g0 11 1 == 1, rc := rc, guard := guard, nw := field g1 31 1 == 1,
           d := field g1 20 11, a := a, x := field g1 0 8, b := b, c := c, y := field g2 0 8 }

/-- VM format (R92); NW = 1 is ILL (R159). -/
def parseVM (g0 g1 g2 : Word) : Option VMFmt := do
  let ty ← vtyOfCode (field g0 12 4).toNat
  let guard ← guardOfBits (field g0 7 1) (field g0 0 7)
  let a ← selOfBits (field g1 8 12)
  let c ← selOfBits (field g2 8 12)
  if field g0 10 2 == 0 && field g1 31 1 == 0 && field g2 20 3 == 0 then
    return { lk := field g0 29 1 == 1, ty := ty, cpol := field g0 8 2, guard := guard, d := field g1 20 11, a := a,
             te := field g1 7 1 == 1, sc := field g1 4 3, k := field g1 0 4, sb := field g2 23 9, c := c, imm8 := field g2 0 8 }
  else none

/-! ## The opcode map (R100, Table 04.9) -/

/-- The format of each assigned OPC (R86, R100): 0 C, 1 CX, 2 S, 3 V or E, 4 VM. -/
def opcFormat (opc : Nat) : Option Nat :=
  match opc with
  | 0x00 | 0x01 | 0x04 | 0x05 | 0x06 | 0x09 | 0x72 => some 0
  | 0x02 | 0x03 | 0x08 => some 1
  | 0x07 | 0x10 | 0x11 | 0x12 | 0x13 | 0x14 | 0x15 | 0x16 | 0x68 | 0x69 | 0x6A | 0x6B | 0x6C | 0x6D | 0x80 | 0x85 | 0xE0 | 0xE2 => some 2
  | 0x40 | 0x41 | 0x42 | 0x43 | 0x44 | 0x45 | 0x46 | 0x47 | 0x48 | 0x49 | 0x5C | 0x5D | 0x5E | 0x70 | 0x71 | 0x81 | 0x82 | 0x83 | 0x84 | 0x90 | 0x91 | 0x92 | 0x94 | 0x95 => some 3
  | 0x60 | 0x61 | 0x62 | 0x63 | 0x64 | 0x65 | 0x66 => some 4
  | _ => none

/-- LEN of a format (R86). -/
def formatLen (fmt : Nat) : Nat :=
  match fmt with
  | 0 => 0
  | 1 | 2 => 1
  | _ => 2

/-- Granules that LEN of a G0 names; one for LEN 11 (R98 step 1). -/
def granulesOf (g0 : Word) : Nat :=
  match (field g0 30 2).toNat with
  | 1 => 2
  | 2 => 3
  | _ => 1

/-- Rows of Table 04.9 in this format; any other FN of the OPC is unassigned (R100). -/
def ofC (opc : BitVec 8) (fn : BitVec 5) (f : CFmt) : Option Instr :=
  match opc.toNat with
  | 0x00 =>
    (match fn.toNat with
     | 0 => some (.nop f)
     | 1 => some (.land f)
     | 2 => some (.exit f)
     | 3 => some (.yield f)
     | 4 => some (.brk f)
     | 5 => some (.trap f)
     | _ => none)
  | 0x01 =>
    (match fn.toNat with
     | 0 => some (.br f)
     | _ => none)
  | 0x04 =>
    (match fn.toNat with
     | 0 => some (.els f)
     | 1 => some (.endif f)
     | _ => none)
  | 0x05 =>
    (match fn.toNat with
     | 0 => some (.loop f)
     | 1 => some (.endloop f)
     | 2 => some (.brkLoop f)
     | 3 => some (.cont f)
     | _ => none)
  | 0x06 =>
    (match fn.toNat with
     | 0 => some (.rejoin f)
     | _ => none)
  | 0x09 =>
    (match fn.toNat with
     | 0 => some (.wait f)
     | _ => none)
  | 0x72 =>
    (match fn.toNat with
     | 0 => some (.bar f)
     | 1 => some (.barcl f)
     | _ => none)
  | _ => none

/-- Rows of Table 04.9 in this format; any other FN of the OPC is unassigned (R100). -/
def ofCX (opc : BitVec 8) (fn : BitVec 5) (f : CXFmt) : Option Instr :=
  match opc.toNat with
  | 0x02 =>
    (match fn.toNat with
     | 0 => some (.brc f)
     | 1 => some (.brany f)
     | 2 => some (.brall f)
     | _ => none)
  | 0x03 =>
    (match fn.toNat with
     | 0 => some (.iff f)
     | _ => none)
  | 0x08 =>
    (match fn.toNat with
     | 0 => some (.jtab f)
     | 1 => some (.ctab f)
     | _ => none)
  | _ => none

/-- Rows of Table 04.9 in this format; any other FN of the OPC is unassigned (R100). -/
def ofS (opc : BitVec 8) (fn : BitVec 5) (f : SFmt) : Option Instr :=
  match opc.toNat with
  | 0x07 =>
    (match fn.toNat with
     | 0 => some (.call f)
     | 1 => some (.ret f)
     | 2 => some (.jmp f)
     | _ => none)
  | 0x10 =>
    (match fn.toNat with
     | 0 => some (.sadd f)
     | 1 => some (.ssub f)
     | 2 => some (.smul f)
     | 3 => some (.smulh f)
     | 4 => some (.sand f)
     | 5 => some (.sor f)
     | 6 => some (.sxor f)
     | 7 => some (.sandn f)
     | 8 => some (.sshl f)
     | 9 => some (.sshr f)
     | 10 => some (.ssar f)
     | 11 => some (.smin f)
     | 12 => some (.smax f)
     | 13 => some (.spopc f)
     | 14 => some (.sclz f)
     | 15 => some (.sctz f)
     | 16 => some (.sbfe f)
     | 17 => some (.sbfi f)
     | 18 => some (.sbrev f)
     | 19 => some (.smov f)
     | 20 => some (.ssel f)
     | _ => none)
  | 0x11 =>
    (match fn.toNat with
     | 0 => some (.scmp .eq f)
     | 1 => some (.scmp .ne f)
     | 2 => some (.scmp .lt f)
     | 3 => some (.scmp .le f)
     | 4 => some (.scmp .gt f)
     | 5 => some (.scmp .ge f)
     | _ => none)
  | 0x12 =>
    (match fn.toNat with
     | 0 => some (.sfadd f)
     | 1 => some (.sfsub f)
     | 2 => some (.sfmul f)
     | 3 => some (.sffma f)
     | 4 => some (.sfmin f)
     | 5 => some (.sfmax f)
     | 6 => some (.scvt f)
     | _ => none)
  | 0x13 =>
    (match fn.toNat with
     | 0 => some (.ldlit f)
     | _ => none)
  | 0x14 =>
    (match fn.toNat with
     | 0 => some (.mand f)
     | 1 => some (.mor f)
     | 2 => some (.mxor f)
     | 3 => some (.mandn f)
     | 4 => some (.mnot f)
     | 5 => some (.mpopc f)
     | 6 => some (.mffs f)
     | 7 => some (.mmov f)
     | 8 => some (.mact f)
     | _ => none)
  | 0x15 =>
    (match fn.toNat with
     | 0 => some (.pcrr f)
     | 1 => some (.pcrw f)
     | _ => none)
  | 0x16 =>
    (match fn.toNat with
     | 0 => some (.vacq f)
     | 1 => some (.vrel f)
     | _ => none)
  | 0x68 =>
    (match fn.toNat with
     | 0 => some (.sld f)
     | _ => none)
  | 0x69 =>
    (match fn.toNat with
     | 0 => some (.sst f)
     | _ => none)
  | 0x6A =>
    (match fn.toNat with
     | 0 => some (.satom .add f)
     | 1 => some (.satom .sub f)
     | 2 => some (.satom .min f)
     | 3 => some (.satom .max f)
     | 4 => some (.satom .and f)
     | 5 => some (.satom .or f)
     | 6 => some (.satom .xor f)
     | 7 => some (.satom .xchg f)
     | 8 => some (.satom .cas f)
     | 9 => some (.satom .fadd f)
     | 10 => some (.satom .fmin f)
     | 11 => some (.satom .fmax f)
     | _ => none)
  | 0x6B =>
    (match fn.toNat with
     | 0 => some (.fence .acq f)
     | 1 => some (.fence .rel f)
     | 2 => some (.fence .acqrel f)
     | _ => none)
  | 0x6C =>
    (match fn.toNat with
     | 0 => some (.swait .eq f)
     | 1 => some (.swait .ne f)
     | 2 => some (.swait .ge f)
     | 3 => some (.swait .lt f)
     | 4 => some (.swait .andnz f)
     | _ => none)
  | 0x6D =>
    (match fn.toNat with
     | 0 => some (.tlock f)
     | 1 => some (.tunlock f)
     | _ => none)
  | 0x80 =>
    (match fn.toNat with
     | 0 => some (.tcfg f)
     | _ => none)
  | 0x85 =>
    (match fn.toNat with
     | 0 => some (.wpin f)
     | 1 => some (.wunpin f)
     | 2 => some (.wpref f)
     | _ => none)
  | 0xE0 =>
    (match fn.toNat with
     | 0 => some (.fmask f)
     | 1 => some (.fstate f)
     | 3 => some (.fkill f)
     | 4 => some (.fpark f)
     | 2 => some (if f.z.toNat % 2 == 1 then .fresComplete f else .fresReplay f)
     | _ => none)
  | 0xE2 =>
    (match fn.toNat with
     | 0 => some (.hcrr f)
     | 1 => some (.hcrw f)
     | _ => none)
  | _ => none

/-- Rows of Table 04.9 in this format; any other FN of the OPC is unassigned (R100). -/
def ofV (opc : BitVec 8) (fn : BitVec 5) (f : VFmt) : Option Instr :=
  match opc.toNat with
  | 0x40 =>
    (match fn.toNat with
     | 0 => some (.vadd f)
     | 1 => some (.vsub f)
     | 2 => some (.vmul f)
     | 3 => some (.vmulh f)
     | 4 => some (.vmad f)
     | 5 => some (.vfma f)
     | 6 => some (.vmin f)
     | 7 => some (.vmax f)
     | 8 => some (.vabs f)
     | 9 => some (.vneg f)
     | _ => none)
  | 0x41 =>
    (match fn.toNat with
     | 0 => some (.vand f)
     | 1 => some (.vor f)
     | 2 => some (.vxor f)
     | 3 => some (.vandn f)
     | 4 => some (.vnot f)
     | 5 => some (.vshl f)
     | 6 => some (.vshr f)
     | 7 => some (.vsar f)
     | 8 => some (.vlut3 f)
     | 9 => some (.vfshl f)
     | 10 => some (.vfshr f)
     | 11 => some (.vpopc f)
     | 12 => some (.vclz f)
     | 13 => some (.vctz f)
     | 14 => some (.vbfe f)
     | 15 => some (.vbfi f)
     | 16 => some (.vbrev f)
     | 17 => some (.vmov f)
     | 18 => some (.vsel f)
     | _ => none)
  | 0x42 =>
    (match fn.toNat with
     | 0 => some (.vcmp .eq f)
     | 1 => some (.vcmp .ne f)
     | 2 => some (.vcmp .lt f)
     | 3 => some (.vcmp .le f)
     | 4 => some (.vcmp .gt f)
     | 5 => some (.vcmp .ge f)
     | 6 => some (.vcmp .unord f)
     | 7 => some (.vcmp .ord f)
     | _ => none)
  | 0x43 =>
    (match fn.toNat with
     | 0 => some (.vrcp f)
     | 1 => some (.vrsq f)
     | 2 => some (.vsqrt f)
     | 3 => some (.vfloor f)
     | 4 => some (.vceil f)
     | 5 => some (.vtrunc f)
     | 6 => some (.vrint f)
     | 7 => some (.vfract f)
     | 8 => some (.vclass f)
     | 9 => some (.vldexp f)
     | 10 => some (.vgetexp f)
     | 11 => some (.vgetman f)
     | _ => none)
  | 0x44 =>
    (match fn.toNat with
     | 0 => some (.vprof 0 f)
     | 1 => some (.vprof 1 f)
     | 2 => some (.vprof 2 f)
     | 3 => some (.vprof 3 f)
     | 4 => some (.vprof 4 f)
     | 5 => some (.vprof 5 f)
     | 6 => some (.vprof 6 f)
     | 7 => some (.vprof 7 f)
     | _ => none)
  | 0x45 =>
    (match fn.toNat with
     | 0 => some (.vcvt f)
     | 1 => some (.vmxs f)
     | 2 => some (.vpack f)
     | 3 => some (.vunpack f)
     | _ => none)
  | 0x46 =>
    (match fn.toNat with
     | 0 => some (.vdot2 f)
     | 1 => some (.vdot4 f)
     | _ => none)
  | 0x47 =>
    (match fn.toNat with
     | 0 => some (.pload f)
     | _ => none)
  | 0x48 =>
    (match fn.toNat with
     | 0 => some (.vshfl f)
     | 1 => some (.vbcast f)
     | 2 => some (.vrot f)
     | 3 => some (.vballot f)
     | 4 => some (.vred f)
     | 5 => some (.vscan f)
     | 6 => some (.vnzs f)
     | 7 => some (.vmatch f)
     | _ => none)
  | 0x49 =>
    (match fn.toNat with
     | 0 => some (.vedge f)
     | _ => none)
  | 0x5C =>
    (match fn.toNat with
     | 0 => some (.vmad24 f)
     | _ => none)
  | 0x5D =>
    (match fn.toNat with
     | 0 => some (.vbfly f)
     | _ => none)
  | 0x5E =>
    (match fn.toNat with
     | 0 => some (.vsad4 f)
     | _ => none)
  | 0x70 =>
    (match fn.toNat with
     | 0 => some (.xcopy f)
     | _ => none)
  | 0x71 =>
    (match fn.toNat with
     | 0 => some (.binit f)
     | 1 => some (.barr f)
     | 2 => some (.bexp f)
     | 3 => some (.bwait f)
     | 4 => some (.btest f)
     | _ => none)
  | 0x81 =>
    (match fn.toNat with
     | 0 => some (.tld f)
     | 1 => some (.tst f)
     | 2 => some (.tzero f)
     | 3 => some (.vtot f)
     | 4 => some (.ttov f)
     | 5 => some (.ttr f)
     | _ => none)
  | 0x82 =>
    (match fn.toNat with
     | 0 => some (.mma f)
     | 1 => some (.mmaz f)
     | 2 => some (.mmax f)
     | 3 => some (.mmaxz f)
     | _ => none)
  | 0x83 =>
    (match fn.toNat with
     | 0 => some (.czero f)
     | 1 => some (.cst f)
     | 2 => some (.cld f)
     | 3 => some (.ctov f)
     | 4 => some (.crel f)
     | _ => none)
  | 0x84 =>
    (match fn.toNat with
     | 0 => some (.ncall f)
     | _ => none)
  | 0x90 =>
    (match fn.toNat with
     | 0 => some (.rtrace f)
     | _ => none)
  | 0x91 =>
    (match fn.toNat with
     | 0 => some (.rresume f)
     | _ => none)
  | 0x92 =>
    (match fn.toNat with
     | 0 => some (.xbuild f)
     | _ => none)
  | 0x94 =>
    (match fn.toNat with
     | 0 => some (.ralloc f)
     | 1 => some (.rcommit f)
     | 2 => some (.rfree f)
     | _ => none)
  | 0x95 =>
    (match fn.toNat with
     | 0 => some (.pzt f)
     | 1 => some (.pwr f)
     | 2 => some (.pdone f)
     | _ => none)
  | _ => none

/-- Rows of Table 04.9 in this format; any other FN of the OPC is unassigned (R100). -/
def ofVM (opc : BitVec 8) (fn : BitVec 5) (f : VMFmt) : Option Instr :=
  match opc.toNat with
  | 0x60 =>
    (match fn.toNat with
     | 0 => some (.vld .b8z f)
     | 1 => some (.vld .b8s f)
     | 2 => some (.vld .b16z f)
     | 3 => some (.vld .b16s f)
     | 4 => some (.vld .b32 f)
     | 5 => some (.vld .b64 f)
     | 6 => some (.vld .b128 f)
     | _ => none)
  | 0x61 =>
    (match fn.toNat with
     | 0 => some (.vst .b8 f)
     | 1 => some (.vst .b16 f)
     | 2 => some (.vst .b32 f)
     | 3 => some (.vst .b64 f)
     | 4 => some (.vst .b128 f)
     | _ => none)
  | 0x62 =>
    (match fn.toNat with
     | 0 => some (.vgld .b8z f)
     | 1 => some (.vgld .b8s f)
     | 2 => some (.vgld .b16z f)
     | 3 => some (.vgld .b16s f)
     | 4 => some (.vgld .b32 f)
     | 5 => some (.vgld .b64 f)
     | 6 => some (.vgld .b128 f)
     | _ => none)
  | 0x63 =>
    (match fn.toNat with
     | 0 => some (.vgldl .b8z f)
     | 1 => some (.vgldl .b8s f)
     | 2 => some (.vgldl .b16z f)
     | 3 => some (.vgldl .b16s f)
     | 4 => some (.vgldl .b32 f)
     | 5 => some (.vgldl .b64 f)
     | 6 => some (.vgldl .b128 f)
     | _ => none)
  | 0x64 =>
    (match fn.toNat with
     | 0 => some (.vgst .b8 f)
     | 1 => some (.vgst .b16 f)
     | 2 => some (.vgst .b32 f)
     | 3 => some (.vgst .b64 f)
     | 4 => some (.vgst .b128 f)
     | _ => none)
  | 0x65 =>
    (match fn.toNat with
     | 0 => some (.vatom .add f)
     | 1 => some (.vatom .sub f)
     | 2 => some (.vatom .min f)
     | 3 => some (.vatom .max f)
     | 4 => some (.vatom .and f)
     | 5 => some (.vatom .or f)
     | 6 => some (.vatom .xor f)
     | 7 => some (.vatom .xchg f)
     | 8 => some (.vatom .cas f)
     | 9 => some (.vatom .fadd f)
     | 10 => some (.vatom .fmin f)
     | 11 => some (.vatom .fmax f)
     | _ => none)
  | 0x66 =>
    (match fn.toNat with
     | 0 => some (.vpref .l1 f)
     | 1 => some (.vpref .l2 f)
     | 2 => some (.vpref .evf f)
     | _ => none)
  | _ => none

/-- The instruction in an OPC's format, before its own field checks. -/
def parseFormat (fmt : Nat) (opc : BitVec 8) (fn : BitVec 5) (g0 g1 g2 : Word) : Option Instr :=
  match fmt with
  | 0 => ofC opc fn (parseC g0)
  | 1 => (parseCX g0 g1).bind (ofCX opc fn)
  | 2 => (parseS g0 g1).bind (ofS opc fn)
  | 3 => (parseV g0 g1 g2).bind (ofV opc fn)
  | _ => (parseVM g0 g1 g2).bind (ofVM opc fn)

/-- The check of R98 that the granules fail, when they are no instruction. -/
def lateFail (opc : BitVec 8) : DecodeFail :=
  if opc.toNat == 0xE0 || opc.toNat == 0xE2 then .lateHandler else .late

/-- Steps 2 to 7 of R98 on granules that were fetched. Step 5 (PRIV) and step 8 (UNAVAIL) look at the warp and stand in the
meanings. -/
def decodeGranules (g0 g1 g2 : Word) : Except DecodeFail Instr :=
  let opc := field g0 21 8
  let fn := field g0 16 5
  if (field g0 30 2).toNat == 3 then .error .early
  else match opcFormat opc.toNat with
    | none => .error .early
    | some fmt =>
      if (field g0 30 2).toNat != formatLen fmt then .error .early
      else match parseFormat fmt opc fn g0 g1 g2 with
        | none => .error (lateFail opc)
        | some i => if i.wellFormed then .ok i else .error (lateFail opc)

/-- A little-endian granule at the front of a list of bytes (R84). -/
def granuleOfBytes : List Byte → Option (Word × List Byte)
  | b0 :: b1 :: b2 :: b3 :: rest => some (b3 ++ b2 ++ b1 ++ b0, rest)
  | _ => none

/-- Decoding on bytes: the instruction and the bytes after it. Too few bytes for the granules that LEN names is a fetch fault. -/
def decodeBytes (bytes : List Byte) : Except DecodeFail (Instr × List Byte) :=
  match granuleOfBytes bytes with
  | none => .error .fetchPage
  | some (g0, r0) =>
    let n := granulesOf g0
    if n ≤ 1 then (decodeGranules g0 0 0).map (·, r0)
    else match granuleOfBytes r0 with
      | none => .error .fetchPage
      | some (g1, r1) =>
        if n ≤ 2 then (decodeGranules g0 g1 0).map (·, r1)
        else match granuleOfBytes r1 with
          | none => .error .fetchPage
          | some (g2, r2) => (decodeGranules g0 g1 g2).map (·, r2)

/-! ## Walk micro-operations (R241, Table 10.5) -/

/-- A micro-operation from its fields; a field the operation does not use must be 0. -/
def ofWalk (wop : BitVec 5) (gd ga gb : BitVec 3) (f : BitVec 2) (imm : BitVec 16) : Option Instr :=
  let f0 := f.toNat == 0
  let f1 := f.toNat == 1
  let d0 := gd == 0
  let a0 := ga == 0
  let b0 := gb == 0
  let i0 := imm == 0
  let lab : BitVec 8 := field imm 0 8
  let labOk := field imm 8 8 == (0 : BitVec 8)
  let when (c : Bool) (i : Instr) : Option Instr := if c then some i else none
  match wop.toNat with
  | 0 => when (a0 && b0 && f0 && i0) (.wld gd)
  | 1 => when (a0 && b0 && f0 && i0) (.wchild gd)
  | 2 => when (b0 && (f0 || f1) && i0) (.wbox8 gd ga f1)
  | 3 => when (d0 && b0 && f0 && i0) (.wpush ga)
  | 4 => when (d0 && a0 && b0 && f0 && labOk) (.wpop lab)
  | 5 => when (d0 && f0 && i0) (.wtri ga gb)
  | 6 => when (d0 && a0 && b0 && f0 && i0) .wleaf
  | 7 => if f0 then when (d0 && b0 && i0) (.winst ga) else when (f1 && d0 && a0 && b0 && i0) .winstN
  | 8 => when (d0 && a0 && b0 && f0 && i0) .wexit
  | 9 => when (d0 && f0 && i0) (.whit ga gb)
  | 10 => when (d0 && a0 && b0 && f0 && labOk) (.wany lab)
  | 11 => when (d0 && a0 && b0 && f0 && labOk) (.wbr lab)
  | 12 => when (d0 && b0 && f0 && labOk) (.wbz ga lab)
  | 13 => when (d0 && b0 && f0 && labOk) (.wbnz ga lab)
  | 14 => if f0 then when i0 (.wadd gd ga gb) else when (f1 && b0) (.waddImm gd ga imm)
  | 15 => if f0 then when i0 (.wsub gd ga gb) else when (f1 && b0) (.wsubImm gd ga imm)
  | 16 => if f0 then when i0 (.wand gd ga gb) else when (f1 && b0) (.wandImm gd ga imm)
  | 17 => if f0 then when i0 (.wshr gd ga gb) else when (f1 && b0) (.wshrImm gd ga imm)
  | 18 =>
    if f0 then when (b0 && i0) (.wmov gd ga)
    else when (f1 && a0 && b0 && field imm 4 12 == (0 : BitVec 12)) (.wmovSpecial gd (field imm 0 4))
  | 19 => if f0 then when (a0 && b0) (.wldi gd imm) else when (f1 && a0 && b0) (.wldiHi gd imm)
  | 20 => when (a0 && b0 && f0) (.wld32 gd imm)
  | 21 => when i0 (.wcmp gd ga gb f)
  | 22 => when (a0 && b0 && f0 && labOk) (.wcall gd lab)
  | 23 => when (d0 && b0 && f0 && i0) (.wret ga)
  | 24 => when (d0 && a0 && b0 && f0 && i0) .wdone
  | 25 => when (d0 && b0 && f0 && i0) (.wfail ga)
  | _ => none

/-- A walk micro-operation word; none is refused at launch (R235). -/
def decodeWalk (w : Word) : Option Instr :=
  (ofWalk (field w 27 5) (field w 24 3) (field w 21 3) (field w 18 3) (field w 16 2) (field w 0 16)).bind fun i =>
    if i.wellFormed then some i else none

/-! ## Pump-house custom instructions (R339, Table 17.1) -/

/-- An entry of Table 17.1; any other funct3, funct7 or a nonzero rs2 where none is taken is an illegal instruction. -/
def ofPh (custom1 : Bool) (funct3 : BitVec 3) (funct7 : BitVec 7) (rd rs1 rs2 : BitVec 5) : Option Instr :=
  match custom1, funct3.toNat, funct7.toNat with
  | false, 0, 0 => some (.phring rd rs1 rs2)
  | false, 0, 1 => if rs2 == 0 then some (.phretire rd rs1) else none
  | false, 1, 0 => some (.phbfx rd rs1 rs2)
  | false, 1, 1 => some (.phbfxS rd rs1 rs2)
  | false, 2, 0 => some (.phwait rd rs1 rs2)
  | true, 0, 0 => some (.phdisp rd rs1 rs2)
  | true, 1, 0 => if rs2 == 0 then some (.phunseal rd rs1) else none
  | true, 1, 1 => if rs2 == 0 then some (.phseal rd rs1) else none
  | _, _, _ => none

/-- A word in one of the two custom major opcodes. -/
def isCustom (w : Word) : Bool := (field w 0 7).toNat == 0x0B || (field w 0 7).toNat == 0x2B

def decodePh (w : Word) : Option Instr :=
  if isCustom w then
    ofPh ((field w 0 7).toNat == 0x2B) (field w 12 3) (field w 25 7) (field w 7 5) (field w 15 5) (field w 20 5)
  else none

/-! ## The encoder -/

/-- FN code (Table 04.9). -/
def Cc.code : Cc → BitVec 5
  | .eq => 0
  | .ne => 1
  | .lt => 2
  | .le => 3
  | .gt => 4
  | .ge => 5

/-- FN code (Table 04.9). -/
def VCc.code : VCc → BitVec 5
  | .eq => 0
  | .ne => 1
  | .lt => 2
  | .le => 3
  | .gt => 4
  | .ge => 5
  | .unord => 6
  | .ord => 7

/-- FN code (Table 04.9). -/
def LdFn.code : LdFn → BitVec 5
  | .b8z => 0
  | .b8s => 1
  | .b16z => 2
  | .b16s => 3
  | .b32 => 4
  | .b64 => 5
  | .b128 => 6

/-- FN code (Table 04.9). -/
def StFn.code : StFn → BitVec 5
  | .b8 => 0
  | .b16 => 1
  | .b32 => 2
  | .b64 => 3
  | .b128 => 4

/-- FN code (Table 04.9). -/
def AtomOp.code : AtomOp → BitVec 5
  | .add => 0
  | .sub => 1
  | .min => 2
  | .max => 3
  | .and => 4
  | .or => 5
  | .xor => 6
  | .xchg => 7
  | .cas => 8
  | .fadd => 9
  | .fmin => 10
  | .fmax => 11

/-- FN code (Table 04.9). -/
def PrefKind.code : PrefKind → BitVec 5
  | .l1 => 0
  | .l2 => 1
  | .evf => 2

/-- FN code (Table 04.9). -/
def FenceOrd.code : FenceOrd → BitVec 5
  | .acq => 0
  | .rel => 1
  | .acqrel => 2

/-- FN code (Table 04.9). -/
def WaitCc.code : WaitCc → BitVec 5
  | .eq => 0
  | .ne => 1
  | .ge => 2
  | .lt => 3
  | .andnz => 4

def VTy.code : VTy → BitVec 4
  | .s32 => 0
  | .n32 => 1
  | .s16x2 => 2
  | .n16x2 => 3
  | .s8x4 => 4
  | .n8x4 => 5
  | .f32 => 6
  | .f16x2 => 7
  | .bf16x2 => 8
  | .e4m3x4 => 9
  | .e5m2x4 => 10
  | .e2m1x8 => 11
  | .b32 => 12
  | .s64 => 13
  | .n64 => 14

def STy.code : STy → BitVec 3
  | .s32 => 0
  | .n32 => 1
  | .s64 => 2
  | .n64 => 3
  | .f32 => 4
  | .b32 => 5

def Rc.code : Rc → BitVec 3
  | .mode => 0
  | .rne => 1
  | .rtz => 2
  | .rup => 3
  | .rdn => 4
  | .sr => 5

def Sel.bits : Sel → BitVec 12
  | .vreg n => (0 : BitVec 1) ++ n
  | .latch k => (0b100#3 ++ (0 : BitVec 7) ++ k)
  | .sreg n => 0b101#3 ++ n
  | .special n => 0b110#3 ++ n
  | .imm n => 0b111#3 ++ n

def guardBits (g : Option (BitVec 7)) : BitVec 8 :=
  match g with
  | none => 0
  | some m => 1#1 ++ m

def Cond.bits : Cond → BitVec 13
  | .mask m => 0b00#2 ++ m
  | .vec v => 0b01#2 ++ v
  | .scal s => 0b10#2 ++ s

/-- The header of G0 (R85). -/
def header (len : BitVec 2) (lk : Bool) (opc : BitVec 8) (fn : BitVec 5) (low : BitVec 16) : Word :=
  len ++ BitVec.ofBool lk ++ opc ++ fn ++ low

/-- The words of a shape: granules of a Decmen instruction, or the one word of the other two spaces. -/
def Shape.words : Shape → List Word
  | .c opc fn f => [header 0 f.lk opc fn f.imm]
  | .cx opc fn f =>
    [header 1 f.lk opc fn f.imm, f.cond.bits ++ BitVec.ofBool f.neg ++ f.lp ++ (0 : BitVec 9)]
  | .s opc fn f =>
    match f.src with
    | .regs a b i => [header 1 f.lk opc fn (f.ty.code ++ f.d ++ 0#1 ++ f.z), a ++ b ++ i]
    | .imm a i => [header 1 f.lk opc fn (f.ty.code ++ f.d ++ 1#1 ++ f.z), a ++ i]
  | .v opc fn f =>
    [header 2 f.lk opc fn (f.ty.code ++ BitVec.ofBool f.sat ++ f.rc.code ++ guardBits f.guard),
     BitVec.ofBool f.nw ++ f.d ++ f.a.bits ++ f.x, f.b.bits ++ f.c.bits ++ f.y]
  | .vm opc fn f =>
    [header 2 f.lk opc fn (f.ty.code ++ (0 : BitVec 2) ++ f.cpol ++ guardBits f.guard),
     (0 : BitVec 1) ++ f.d ++ f.a.bits ++ BitVec.ofBool f.te ++ f.sc ++ f.k, f.sb ++ (0 : BitVec 3) ++ f.c.bits ++ f.imm8]
  | .walk wop gd ga gb f imm => [wop ++ gd ++ ga ++ gb ++ f ++ imm]
  | .ph c1 f3 f7 rd rs1 rs2 => [f7 ++ rs2 ++ rs1 ++ f3 ++ rd ++ (if c1 then 0b0101011#7 else 0b0001011#7)]
  | .event => []

/-- Where an instruction's words belong (Table 04.9, Table 10.5, Table 17.1). -/
def Instr.shape : Instr → Shape
  | .nop f => .c 0x00 0 f
  | .land f => .c 0x00 1 f
  | .exit f => .c 0x00 2 f
  | .yield f => .c 0x00 3 f
  | .brk f => .c 0x00 4 f
  | .trap f => .c 0x00 5 f
  | .br f => .c 0x01 0 f
  | .brc f => .cx 0x02 0 f
  | .brany f => .cx 0x02 1 f
  | .brall f => .cx 0x02 2 f
  | .iff f => .cx 0x03 0 f
  | .els f => .c 0x04 0 f
  | .endif f => .c 0x04 1 f
  | .loop f => .c 0x05 0 f
  | .endloop f => .c 0x05 1 f
  | .brkLoop f => .c 0x05 2 f
  | .cont f => .c 0x05 3 f
  | .rejoin f => .c 0x06 0 f
  | .call f => .s 0x07 0 f
  | .ret f => .s 0x07 1 f
  | .jmp f => .s 0x07 2 f
  | .jtab f => .cx 0x08 0 f
  | .ctab f => .cx 0x08 1 f
  | .wait f => .c 0x09 0 f
  | .sadd f => .s 0x10 0 f
  | .ssub f => .s 0x10 1 f
  | .smul f => .s 0x10 2 f
  | .smulh f => .s 0x10 3 f
  | .sand f => .s 0x10 4 f
  | .sor f => .s 0x10 5 f
  | .sxor f => .s 0x10 6 f
  | .sandn f => .s 0x10 7 f
  | .sshl f => .s 0x10 8 f
  | .sshr f => .s 0x10 9 f
  | .ssar f => .s 0x10 10 f
  | .smin f => .s 0x10 11 f
  | .smax f => .s 0x10 12 f
  | .spopc f => .s 0x10 13 f
  | .sclz f => .s 0x10 14 f
  | .sctz f => .s 0x10 15 f
  | .sbfe f => .s 0x10 16 f
  | .sbfi f => .s 0x10 17 f
  | .sbrev f => .s 0x10 18 f
  | .smov f => .s 0x10 19 f
  | .ssel f => .s 0x10 20 f
  | .scmp k f => .s 0x11 k.code f
  | .sfadd f => .s 0x12 0 f
  | .sfsub f => .s 0x12 1 f
  | .sfmul f => .s 0x12 2 f
  | .sffma f => .s 0x12 3 f
  | .sfmin f => .s 0x12 4 f
  | .sfmax f => .s 0x12 5 f
  | .scvt f => .s 0x12 6 f
  | .ldlit f => .s 0x13 0 f
  | .mand f => .s 0x14 0 f
  | .mor f => .s 0x14 1 f
  | .mxor f => .s 0x14 2 f
  | .mandn f => .s 0x14 3 f
  | .mnot f => .s 0x14 4 f
  | .mpopc f => .s 0x14 5 f
  | .mffs f => .s 0x14 6 f
  | .mmov f => .s 0x14 7 f
  | .mact f => .s 0x14 8 f
  | .pcrr f => .s 0x15 0 f
  | .pcrw f => .s 0x15 1 f
  | .vacq f => .s 0x16 0 f
  | .vrel f => .s 0x16 1 f
  | .vadd f => .v 0x40 0 f
  | .vsub f => .v 0x40 1 f
  | .vmul f => .v 0x40 2 f
  | .vmulh f => .v 0x40 3 f
  | .vmad f => .v 0x40 4 f
  | .vfma f => .v 0x40 5 f
  | .vmin f => .v 0x40 6 f
  | .vmax f => .v 0x40 7 f
  | .vabs f => .v 0x40 8 f
  | .vneg f => .v 0x40 9 f
  | .vand f => .v 0x41 0 f
  | .vor f => .v 0x41 1 f
  | .vxor f => .v 0x41 2 f
  | .vandn f => .v 0x41 3 f
  | .vnot f => .v 0x41 4 f
  | .vshl f => .v 0x41 5 f
  | .vshr f => .v 0x41 6 f
  | .vsar f => .v 0x41 7 f
  | .vlut3 f => .v 0x41 8 f
  | .vfshl f => .v 0x41 9 f
  | .vfshr f => .v 0x41 10 f
  | .vpopc f => .v 0x41 11 f
  | .vclz f => .v 0x41 12 f
  | .vctz f => .v 0x41 13 f
  | .vbfe f => .v 0x41 14 f
  | .vbfi f => .v 0x41 15 f
  | .vbrev f => .v 0x41 16 f
  | .vmov f => .v 0x41 17 f
  | .vsel f => .v 0x41 18 f
  | .vcmp k f => .v 0x42 k.code f
  | .vrcp f => .v 0x43 0 f
  | .vrsq f => .v 0x43 1 f
  | .vsqrt f => .v 0x43 2 f
  | .vfloor f => .v 0x43 3 f
  | .vceil f => .v 0x43 4 f
  | .vtrunc f => .v 0x43 5 f
  | .vrint f => .v 0x43 6 f
  | .vfract f => .v 0x43 7 f
  | .vclass f => .v 0x43 8 f
  | .vldexp f => .v 0x43 9 f
  | .vgetexp f => .v 0x43 10 f
  | .vgetman f => .v 0x43 11 f
  | .vprof n f => .v 0x44 (n.setWidth 5) f
  | .vcvt f => .v 0x45 0 f
  | .vmxs f => .v 0x45 1 f
  | .vpack f => .v 0x45 2 f
  | .vunpack f => .v 0x45 3 f
  | .vdot2 f => .v 0x46 0 f
  | .vdot4 f => .v 0x46 1 f
  | .pload f => .v 0x47 0 f
  | .vshfl f => .v 0x48 0 f
  | .vbcast f => .v 0x48 1 f
  | .vrot f => .v 0x48 2 f
  | .vballot f => .v 0x48 3 f
  | .vred f => .v 0x48 4 f
  | .vscan f => .v 0x48 5 f
  | .vnzs f => .v 0x48 6 f
  | .vmatch f => .v 0x48 7 f
  | .vedge f => .v 0x49 0 f
  | .vmad24 f => .v 0x5C 0 f
  | .vbfly f => .v 0x5D 0 f
  | .vsad4 f => .v 0x5E 0 f
  | .vld k f => .vm 0x60 k.code f
  | .vst k f => .vm 0x61 k.code f
  | .vgld k f => .vm 0x62 k.code f
  | .vgldl k f => .vm 0x63 k.code f
  | .vgst k f => .vm 0x64 k.code f
  | .vatom k f => .vm 0x65 k.code f
  | .vpref k f => .vm 0x66 k.code f
  | .sld f => .s 0x68 0 f
  | .sst f => .s 0x69 0 f
  | .satom k f => .s 0x6A k.code f
  | .fence k f => .s 0x6B k.code f
  | .swait k f => .s 0x6C k.code f
  | .tlock f => .s 0x6D 0 f
  | .tunlock f => .s 0x6D 1 f
  | .xcopy f => .v 0x70 0 f
  | .binit f => .v 0x71 0 f
  | .barr f => .v 0x71 1 f
  | .bexp f => .v 0x71 2 f
  | .bwait f => .v 0x71 3 f
  | .btest f => .v 0x71 4 f
  | .bar f => .c 0x72 0 f
  | .barcl f => .c 0x72 1 f
  | .tcfg f => .s 0x80 0 f
  | .tld f => .v 0x81 0 f
  | .tst f => .v 0x81 1 f
  | .tzero f => .v 0x81 2 f
  | .vtot f => .v 0x81 3 f
  | .ttov f => .v 0x81 4 f
  | .ttr f => .v 0x81 5 f
  | .mma f => .v 0x82 0 f
  | .mmaz f => .v 0x82 1 f
  | .mmax f => .v 0x82 2 f
  | .mmaxz f => .v 0x82 3 f
  | .czero f => .v 0x83 0 f
  | .cst f => .v 0x83 1 f
  | .cld f => .v 0x83 2 f
  | .ctov f => .v 0x83 3 f
  | .crel f => .v 0x83 4 f
  | .ncall f => .v 0x84 0 f
  | .wpin f => .s 0x85 0 f
  | .wunpin f => .s 0x85 1 f
  | .wpref f => .s 0x85 2 f
  | .rtrace f => .v 0x90 0 f
  | .rresume f => .v 0x91 0 f
  | .xbuild f => .v 0x92 0 f
  | .ralloc f => .v 0x94 0 f
  | .rcommit f => .v 0x94 1 f
  | .rfree f => .v 0x94 2 f
  | .pzt f => .v 0x95 0 f
  | .pwr f => .v 0x95 1 f
  | .pdone f => .v 0x95 2 f
  | .fmask f => .s 0xE0 0 f
  | .fstate f => .s 0xE0 1 f
  | .fkill f => .s 0xE0 3 f
  | .fpark f => .s 0xE0 4 f
  | .hcrr f => .s 0xE2 0 f
  | .hcrw f => .s 0xE2 1 f
  | .fresReplay f => .s 0xE0 2 f
  | .fresComplete f => .s 0xE0 2 f
  | .wld gd => .walk 0 gd 0 0 0 0
  | .wchild gd => .walk 1 gd 0 0 0 0
  | .wbox8 gd ga p => .walk 2 gd ga 0 (if p then 1 else 0) 0
  | .wpush ga => .walk 3 0 ga 0 0 0
  | .wpop l => .walk 4 0 0 0 0 (0#8 ++ l)
  | .wtri ga gb => .walk 5 0 ga gb 0 0
  | .wleaf => .walk 6 0 0 0 0 0
  | .winst ga => .walk 7 0 ga 0 0 0
  | .winstN => .walk 7 0 0 0 1 0
  | .wexit => .walk 8 0 0 0 0 0
  | .whit ga gb => .walk 9 0 ga gb 0 0
  | .wany l => .walk 10 0 0 0 0 (0#8 ++ l)
  | .wbr l => .walk 11 0 0 0 0 (0#8 ++ l)
  | .wbz ga l => .walk 12 0 ga 0 0 (0#8 ++ l)
  | .wbnz ga l => .walk 13 0 ga 0 0 (0#8 ++ l)
  | .wadd gd ga gb => .walk 14 gd ga gb 0 0
  | .waddImm gd ga i => .walk 14 gd ga 0 1 i
  | .wsub gd ga gb => .walk 15 gd ga gb 0 0
  | .wsubImm gd ga i => .walk 15 gd ga 0 1 i
  | .wand gd ga gb => .walk 16 gd ga gb 0 0
  | .wandImm gd ga i => .walk 16 gd ga 0 1 i
  | .wshr gd ga gb => .walk 17 gd ga gb 0 0
  | .wshrImm gd ga i => .walk 17 gd ga 0 1 i
  | .wmov gd ga => .walk 18 gd ga 0 0 0
  | .wmovSpecial gd s => .walk 18 gd 0 0 1 (0#12 ++ s)
  | .wldi gd i => .walk 19 gd 0 0 0 i
  | .wldiHi gd i => .walk 19 gd 0 0 1 i
  | .wld32 gd o => .walk 20 gd 0 0 0 o
  | .wcmp gd ga gb cc => .walk 21 gd ga gb cc 0
  | .wcall gd l => .walk 22 gd 0 0 0 (0#8 ++ l)
  | .wret ga => .walk 23 0 ga 0 0 0
  | .wdone => .walk 24 0 0 0 0 0
  | .wfail ga => .walk 25 0 ga 0 0 0
  | .phring rd a b => .ph false 0 0 rd a b
  | .phretire rd a => .ph false 0 1 rd a 0
  | .phbfx rd a b => .ph false 1 0 rd a b
  | .phbfxS rd a b => .ph false 1 1 rd a b
  | .phwait rd a b => .ph false 2 0 rd a b
  | .phdisp rd a b => .ph true 0 0 rd a b
  | .phunseal rd a => .ph true 1 0 rd a 0
  | .phseal rd a => .ph true 1 1 rd a 0
  | _ => .event

/-- The words of an instruction: its granules from G0 on, or its one word. -/
def Instr.encode (i : Instr) : List Word := i.shape.words

/-- Granules of a Decmen instruction (R84). -/
def Instr.granules (i : Instr) : Nat :=
  match i.shape with
  | .c _ _ _ => 1
  | .cx _ _ _ | .s _ _ _ => 2
  | .v _ _ _ | .vm _ _ _ => 3
  | _ => 1

/-- The walk or pump-house instruction of a word. -/
def decodeOther (w : Word) : Option Instr :=
  match decodeWalk w with
  | some i => some i
  | none => decodePh w

/-- The instruction a decoder reads from a word of the opcode table, bit 0 the least significant bit of the first word.
The table does not say which of the three word spaces a word belongs to (R102). One granule whose LEN names more granules is first
read as a walk micro-operation or a pump-house instruction; every other word is first read as a Decmen instruction. -/
def decodeTableWord (nbits w : Nat) : Option Instr :=
  if nbits ≤ 96 then
    let v : BitVec 96 := BitVec.ofNat 96 w
    let g0 : Word := field v 0 32
    let decmen : Option Instr := match decodeGranules g0 (field v 32 32) (field v 64 32) with
      | .ok i => some i
      | .error _ => none
    if nbits ≤ 32 && granulesOf g0 != 1 || (field g0 30 2).toNat == 3 then (decodeOther g0).orElse fun _ => decmen
    else decmen.orElse fun _ => decodeOther g0
  else none

end Sys2Proof
end

