-- ==== Sys2Proof/Machine/Flags.lean ====
section
/-! DEFINITION. Number formats and arithmetic (R60 to R77, R83): elements of a lane, exact values, rounding, flushing,
saturation and NaNs. The part has no flag register (R60, R76): what other machines report in flags is here a value.

Exact values are rational numbers, so no rounding is hidden inside a step. An element is held as the natural number of its bits. -/

namespace Sys2Proof

/-! ## Elements of a lane (R64) -/

/-- Element `i` of width `w` of a lane value. -/
def elemAt (w : Nat) (v : DWord) (i : Nat) : Nat := v.toNat / 2 ^ (w * i) % 2 ^ w

/-- The elements of a lane value, element 0 first. -/
def VTy.elems (ty : VTy) (v : DWord) : List Nat := (List.range ty.count).map (elemAt ty.width v)

/-- Elements put back together, element 0 the least significant. -/
def packNat (w : Nat) : List Nat → Nat
  | [] => 0
  | e :: es => e % 2 ^ w + 2 ^ w * packNat w es

def VTy.pack (ty : VTy) (es : List Nat) : DWord := BitVec.ofNat 64 (packNat ty.width es)

/-! ## Integers (R60) -/

/-- The integer an element of `w` bits stands for. -/
def toI (signed : Bool) (w n : Nat) : Int := if signed && decide (2 ^ (w - 1) ≤ n) then (n : Int) - 2 ^ w else n

/-- Wrap modulo 2^w. -/
def wrapI (w : Nat) (x : Int) : Nat := (x % (2 ^ w : Int)).toNat

def loI (signed : Bool) (w : Nat) : Int := if signed then -(2 ^ (w - 1) : Int) else 0

def hiI (signed : Bool) (w : Nat) : Int := if signed then (2 ^ (w - 1) : Int) - 1 else (2 ^ w : Int) - 1

/-- Clamp to the range of a format. -/
def clampI (signed : Bool) (w : Nat) (x : Int) : Int := max (loI signed w) (min (hiI signed w) x)

/-- An exact integer as an element: clamped under SAT, else wrapped (R60). -/
def fitI (signed sat : Bool) (w : Nat) (x : Int) : Nat := wrapI w (if sat then clampI signed w x else x)

/-- Count of 1 bits in the low `w` bits. -/
def popcount : Nat → Nat → Nat
  | 0, _ => 0
  | w + 1, n => n % 2 + popcount w (n / 2)

/-- Leading zero bits of a `w`-bit element; `w` for 0. -/
def clz (w n : Nat) : Nat := if n = 0 then w else w - 1 - n.log2

/-- Trailing zero bits; `w` for 0. -/
def ctz : Nat → Nat → Nat
  | 0, _ => 0
  | w + 1, n => if n % 2 = 1 then 0 else 1 + ctz w (n / 2)

/-- Bit `i` moved to bit `w − 1 − i`. -/
def bitrev : Nat → Nat → Nat
  | 0, _ => 0
  | w + 1, n => n % 2 * 2 ^ w + bitrev w (n / 2)

/-- Shift right with copies of the top bit. -/
def sarNat (w n k : Nat) : Nat := wrapI w (toI true w n / (2 ^ k : Int))

/-! ## Floating formats (R61, Table 03.1) -/

inductive FF where
  | f32 | f16 | bf16 | e5m2 | e4m3 | e2m1
  deriving DecidableEq, Repr

def FF.width : FF → Nat
  | .f32 => 32
  | .f16 | .bf16 => 16
  | .e5m2 | .e4m3 => 8
  | .e2m1 => 4

/-- Mantissa bits. -/
def FF.man : FF → Nat
  | .f32 => 23
  | .f16 => 10
  | .bf16 => 7
  | .e5m2 => 2
  | .e4m3 => 3
  | .e2m1 => 1

def FF.bias : FF → Nat
  | .f32 | .bf16 => 127
  | .f16 | .e5m2 => 15
  | .e4m3 => 7
  | .e2m1 => 1

/-- Encoding of the largest finite magnitude. -/
def FF.maxMag : FF → Nat
  | .f32 => 0x7F7FFFFF
  | .f16 => 0x7BFF
  | .bf16 => 0x7F7F
  | .e5m2 => 0x7B
  | .e4m3 => 0x7E
  | .e2m1 => 7

/-- Encoding of +∞, where there is one. -/
def FF.infMag : FF → Option Nat
  | .f32 => some 0x7F800000
  | .f16 => some 0x7C00
  | .bf16 => some 0x7F80
  | .e5m2 => some 0x7C
  | .e4m3 | .e2m1 => none

/-- The floating format of a vector type's elements. -/
def VTy.ff : VTy → FF
  | .f16x2 => .f16
  | .bf16x2 => .bf16
  | .e4m3x4 => .e4m3
  | .e5m2x4 => .e5m2
  | .e2m1x8 => .e2m1
  | _ => .f32

def FF.signBit (f : FF) : Nat := 2 ^ (f.width - 1)

def FF.neg (f : FF) (b : Nat) : Bool := decide (f.signBit ≤ b)

def FF.mag (f : FF) (b : Nat) : Nat := b % f.signBit

def FF.isNan (f : FF) (b : Nat) : Bool :=
  match f with
  | .e4m3 => f.mag b == 0x7F
  | .e2m1 => false
  | _ => decide (f.maxMag + 1 < f.mag b)

def FF.isInf (f : FF) (b : Nat) : Bool := f.infMag == some (f.mag b)

def FF.isSub (f : FF) (b : Nat) : Bool := f.mag b != 0 && decide (f.mag b < 2 ^ f.man)

/-- Sign and magnitude put together. -/
def FF.signed (f : FF) (neg : Bool) (mag : Nat) : Nat := (if neg then f.signBit else 0) + mag

/-- The quiet bit set (R62, R83); the E4M3 NaN is quiet. -/
def FF.quiet (f : FF) (b : Nat) : Nat :=
  match f with
  | .e4m3 | .e2m1 => b
  | _ => if b / 2 ^ (f.man - 1) % 2 = 1 then b else b + 2 ^ (f.man - 1)

def FF.isSnan (f : FF) (b : Nat) : Bool := f.isNan b && f.quiet b != b

/-- Input flushing (R68). -/
def FF.flush (f : FF) (ftz : Bool) (b : Nat) : Nat := if ftz && f.isSub b then f.signed (f.neg b) 0 else b

/-! ## Exact values -/

/-- 2^e exactly. -/
def pow2 (e : Int) : Rat := if 0 ≤ e then ((2 ^ e.toNat : Nat) : Rat) else mkRat 1 (2 ^ (-e).toNat)

/-- floor(log2 x) of a positive rational. -/
def floorLog2 (x : Rat) : Int :=
  let d : Int := (x.num.natAbs.log2 : Int) - (x.den.log2 : Int)
  if pow2 d ≤ x then d else d - 1

/-- The exact value of an element that is no NaN. -/
inductive FVal where
  | inf (neg : Bool)
  | fin (neg : Bool) (mag : Rat)
  deriving DecidableEq, Repr

/-- Magnitude of a finite encoding (R61, R62). -/
def FF.magVal (f : FF) (m : Nat) : Rat :=
  let e := m / 2 ^ f.man
  let t := m % 2 ^ f.man
  if e = 0 then (t : Rat) * pow2 (1 - (f.bias : Int) - f.man)
  else ((2 ^ f.man + t : Nat) : Rat) * pow2 ((e : Int) - f.bias - f.man)

/-- dec (R83) of an encoding that is no NaN. -/
def FF.dec (f : FF) (b : Nat) : FVal :=
  if f.isInf b then .inf (f.neg b) else .fin (f.neg b) (f.magVal (f.mag b))

def FVal.neg : FVal → FVal
  | .inf n => .inf (!n)
  | .fin n m => .fin (!n) m

def FVal.isNeg : FVal → Bool
  | .inf n => n
  | .fin n _ => n

/-- Signed value of a finite number; 0 for an infinity, which no caller asks for. -/
def FVal.rat : FVal → Rat
  | .inf _ => 0
  | .fin n m => if n then -m else m

/-- A signed rational as a value; a zero has the sign given. -/
def FVal.ofRat (zeroNeg : Bool) (x : Rat) : FVal :=
  if x = 0 then .fin zeroNeg 0 else .fin (decide (x < 0)) (if x < 0 then -x else x)

/-- Order of values with −0 below +0. -/
def FVal.lt (a b : FVal) : Bool :=
  match a, b with
  | .inf n, .inf m => n && !m
  | .inf n, .fin _ _ => n
  | .fin _ _, .inf m => !m
  | .fin n x, .fin m y =>
    if n then (if m then decide (y < x) else true) else (if m then false else decide (x < y))

/-- IEEE order: −0 equals +0. -/
def FVal.ltNum (a b : FVal) : Bool :=
  match a, b with
  | .fin _ _, .fin _ _ => decide (a.rat < b.rat)
  | _, _ => a.lt b

def FVal.eqNum (a b : FVal) : Bool :=
  match a, b with
  | .inf n, .inf m => n == m
  | .fin _ _, .fin _ _ => decide (a.rat = b.rat)
  | _, _ => false

/-! ## Rounding (R66 to R69, R72) -/

/-- A rounding mode of RoundTo; `sr` carries the element's random bits and their number. -/
inductive Rm where
  | rne | rtz | rup | rdn
  | sr (rnd k : Nat)
  deriving DecidableEq, Repr

/-- MODE.RM (Table 02.5). -/
def rmOfMode (mode : Word) : Rm :=
  match mode.toNat % 4 with
  | 0 => .rne
  | 1 => .rtz
  | 2 => .rup
  | _ => .rdn

/-- Encoding of the magnitude nearest a positive rational, the exponent range unbounded above (R66, R72). -/
def FF.roundMag (f : FF) (rm : Rm) (neg : Bool) (x : Rat) : Nat :=
  let qmin : Int := 1 - (f.bias : Int) - f.man
  let q : Int := max (floorLog2 x - f.man) qmin
  let t := x / pow2 q
  let k := t.floor.toNat
  let r := t - (k : Rat)
  let up := match rm with
    | .rne => decide ((1 : Rat) / 2 < r) || (decide (r = (1 : Rat) / 2) && k % 2 == 1)
    | .rtz => false
    | .rup => !neg && decide (0 < r)
    | .rdn => neg && decide (0 < r)
    | .sr rnd kk => decide (0 < r) && decide ((rnd : Rat) < r * ((2 ^ kk : Nat) : Rat))
  (q - qmin).toNat * 2 ^ f.man + k + (if up then 1 else 0)

/-- Magnitude of an overflow (R67, Table 03.3). -/
def FF.overflow (f : FF) (rm : Rm) (neg sat : Bool) : Nat :=
  let toInf := match rm with
    | .rne | .sr _ _ => true
    | .rtz => false
    | .rup => !neg
    | .rdn => neg
  if sat || !toInf then f.maxMag
  else match f with
    | .e4m3 => 0x7F
    | .e2m1 => f.maxMag
    | _ => f.infMag.getD f.maxMag

/-- RoundTo of a finite value (R66). -/
def FF.roundFin (f : FF) (rm : Rm) (sat ftz neg : Bool) (x : Rat) : Nat :=
  if x = 0 then f.signed neg 0
  else
    let e := f.roundMag rm neg x
    if f.maxMag < e then f.signed neg (f.overflow rm neg sat)
    else if ftz && f.isSub e then f.signed neg 0
    else f.signed neg e

/-- RoundTo of an arithmetic result: SAT affects overflow only (R67). -/
def FF.round (f : FF) (rm : Rm) (sat ftz : Bool) (x : FVal) : Nat :=
  match x with
  | .inf n => f.signed n (f.infMag.getD f.maxMag)
  | .fin n m => f.roundFin rm sat ftz n m

/-! ## NaNs (R75, R76) -/

/-- Canonical quiet pattern of a format (Table 03.5, NTAG = 0). -/
def FF.canon : FF → Nat
  | .f32 => 0x7FC00000
  | .f16 => 0x7E00
  | .bf16 => 0x7FC0
  | .e5m2 => 0x7E
  | .e4m3 => 0x7F
  | .e2m1 => 0

/-- Tag(fmt, l, pc) (R75, Table 03.5). -/
def FF.tag (f : FF) (ntag : Bool) (l : Nat) (pc : DWord) : Nat :=
  if ntag then
    let p := pc.toNat
    match f with
    | .f32 => 0x7FC00000 ||| (l <<< 15) ||| (((p >>> 2) ^^^ (p >>> 17)) % 0x8000)
    | .f16 => 0x7E00 ||| (l <<< 2) ||| (p / 4 % 4)
    | .bf16 => 0x7FC0 ||| (l % 64)
    | .e5m2 => 0x7E ||| (l % 2)
    | .e4m3 => 0x7F
    | .e2m1 => 0
  else f.canon

/-! ## Environment of an element operation -/

/-- What MODE, the rounding control and SAT say for one instruction. -/
structure FEnv where
  rm : Rm
  sat : Bool
  ftz32 : Bool
  ftz16 : Bool
  ntag : Bool
  pc : DWord
  deriving DecidableEq, Repr

/-- The flush flag of a format (R68). -/
def FEnv.ftz (e : FEnv) : FF → Bool
  | .f32 => e.ftz32
  | .f16 | .bf16 => e.ftz16
  | _ => false

def FEnv.ofMode (mode : Word) (pc : DWord) : FEnv :=
  { rm := rmOfMode mode, sat := false, ftz32 := mode.getLsbD 2, ftz16 := mode.getLsbD 3, ntag := mode.getLsbD 4, pc := pc }

/-! ## Float element operations -/

/-- Exact sum; none is an invalid operation. A zero sum of unlike signs is −0 under RDN, else +0. -/
def FVal.add (rm : Rm) (a b : FVal) : Option FVal :=
  match a, b with
  | .inf n, .inf m => if n = m then some (.inf n) else none
  | .inf n, .fin _ _ => some (.inf n)
  | .fin _ _, .inf m => some (.inf m)
  | .fin n _, .fin m _ => some (.ofRat (if n = m then n else rm == .rdn) (a.rat + b.rat))

def FVal.mul (a b : FVal) : Option FVal :=
  let n := a.isNeg != b.isNeg
  match a, b with
  | .fin _ x, .fin _ y => some (.fin n (x * y))
  | .inf _, .inf _ => some (.inf n)
  | .inf _, .fin _ y => if y = 0 then none else some (.inf n)
  | .fin _ x, .inf _ => if x = 0 then none else some (.inf n)

/-- The first NaN operand, quieted, or the exact result rounded, or a generated NaN (R75, R76). -/
def FF.op (f : FF) (e : FEnv) (l : Nat) (operands : List Nat) (exact : List FVal → Option FVal) : Nat :=
  let xs := operands.map (f.flush (e.ftz f))
  match xs.find? f.isNan with
  | some x => f.quiet x
  | none =>
    match exact (xs.map f.dec) with
    | some v => f.round e.rm e.sat (e.ftz f) v
    | none => f.tag e.ntag l e.pc

def FF.add (f : FF) (e : FEnv) (l a b : Nat) : Nat :=
  f.op e l [a, b] fun | [x, y] => x.add e.rm y | _ => none

def FF.sub (f : FF) (e : FEnv) (l a b : Nat) : Nat :=
  f.op e l [a, b] fun | [x, y] => x.add e.rm y.neg | _ => none

def FF.mul (f : FF) (e : FEnv) (l a b : Nat) : Nat :=
  f.op e l [a, b] fun | [x, y] => x.mul y | _ => none

/-- A × B + C with one rounding. -/
def FF.fma (f : FF) (e : FEnv) (l a b c : Nat) : Nat :=
  f.op e l [a, b, c] fun | [x, y, z] => (x.mul y).bind (fun p => p.add e.rm z) | _ => none

/-- Smaller or larger with −0 < +0, bits of a flushed input (R140). -/
def FF.minmax (f : FF) (e : FEnv) (isMax : Bool) (a b : Nat) : Nat :=
  let x := f.flush (e.ftz f) a
  let y := f.flush (e.ftz f) b
  if f.isNan x then f.quiet x else if f.isNan y then f.quiet y
  else if (if isMax then (f.dec x).lt (f.dec y) else (f.dec y).lt (f.dec x)) then y else x

/-- |A| and −A: only the sign changes; a NaN is quieted with its sign unchanged (R140). -/
def FF.signOp (f : FF) (e : FEnv) (clear : Bool) (a : Nat) : Nat :=
  let x := f.flush (e.ftz f) a
  if f.isNan x then f.quiet x else f.signed (!clear && !f.neg x) (f.mag x)

/-- The conditions of a compare after input flushing (R113, R143). -/
def FF.cmp (f : FF) (ftz : Bool) (cc : VCc) (a b : Nat) : Bool :=
  let x := f.flush ftz a
  let y := f.flush ftz b
  if f.isNan x || f.isNan y then (match cc with | .ne | .unord => true | _ => false)
  else
    let u := f.dec x
    let v := f.dec y
    match cc with
    | .eq => u.eqNum v
    | .ne => !u.eqNum v
    | .lt => u.ltNum v
    | .le => u.ltNum v || u.eqNum v
    | .gt => v.ltNum u
    | .ge => v.ltNum u || u.eqNum v
    | .unord => false
    | .ord => true

def intCmp (cc : VCc) (a b : Int) : Bool :=
  match cc with
  | .eq => decide (a = b)
  | .ne => decide (a ≠ b)
  | .lt => decide (a < b)
  | .le => decide (a ≤ b)
  | .gt => decide (b < a)
  | .ge => decide (b ≤ a)
  | .unord => false
  | .ord => true

/-- The compare conditions scalar and vector instructions share. -/
def Cc.v : Cc → VCc
  | .eq => .eq
  | .ne => .ne
  | .lt => .lt
  | .le => .le
  | .gt => .gt
  | .ge => .ge

/-! ## Roots -/

/-- Bit-by-bit integer square root from bit `b` down. -/
def isqrtFrom (n : Nat) : Nat → Nat → Nat
  | 0, r => r
  | b + 1, r =>
    let t := r + 2 ^ b
    isqrtFrom n b (if t * t ≤ n then t else r)

def isqrt (n : Nat) : Nat := isqrtFrom n (n.log2 / 2 + 1) 0

/-- A rational that every format of Table 03.1 rounds as it rounds √x: √x itself where it is a multiple of 2^−200, else a value
strictly between the same two multiples of 2^−200. -/
def sqrtProxy (x : Rat) : Rat :=
  let y := x * pow2 400
  let n := y.floor.toNat
  let s := isqrt n
  if ((s * s : Nat) : Rat) = y then (s : Rat) * pow2 (-200) else ((2 * s + 1 : Nat) : Rat) * pow2 (-201)

/-! ## Special functions (R77, R144) -/

def FF.rcp (f : FF) (e : FEnv) (l a : Nat) : Nat :=
  f.op e l [a] fun
    | [.inf n] => some (.fin n 0)
    | [.fin n m] => if m = 0 then some (.inf n) else some (.fin n (1 / m))
    | _ => none

def FF.rsq (f : FF) (e : FEnv) (l a : Nat) : Nat :=
  f.op e l [a] fun
    | [.inf n] => if n then none else some (.fin false 0)
    | [.fin n m] => if m = 0 then some (.inf n) else if n then none else some (.fin false (sqrtProxy (1 / m)))
    | _ => none

def FF.sqrt (f : FF) (e : FEnv) (l a : Nat) : Nat :=
  f.op e l [a] fun
    | [.inf n] => if n then none else some (.inf false)
    | [.fin n m] => if m = 0 then some (.fin n 0) else if n then none else some (.fin false (sqrtProxy m))
    | _ => none

/-- Integral value of a rational under a rounding mode. -/
def roundInt (rm : Rm) (x : Rat) : Int :=
  let k := x.floor
  let r := x - (k : Rat)
  match rm with
  | .rne | .sr _ _ => if (1 : Rat) / 2 < r || (r = (1 : Rat) / 2 && k % 2 == 1) then k + 1 else k
  | .rtz => if x < 0 && 0 < r then k + 1 else k
  | .rup => if 0 < r then k + 1 else k
  | .rdn => k

/-- Rounding to an integral value: infinities stay, a zero result takes the sign of A. -/
def FF.integral (f : FF) (e : FEnv) (rm : Rm) (a : Nat) : Nat :=
  f.op { e with rm := .rne, sat := false } 0 [a] fun
    | [.inf n] => some (.inf n)
    | [.fin n m] => some (.ofRat n ((roundInt rm (if n then -m else m) : Int) : Rat))
    | _ => none

/-- Encoding of the largest value below 1. -/
def FF.belowOne (f : FF) : Nat := f.bias * 2 ^ f.man - 1

def FF.fract (f : FF) (e : FEnv) (l a : Nat) : Nat :=
  let r := f.op { e with sat := false } l [a] fun
    | [.inf _] => none
    | [.fin n m] =>
      let x := if n then -m else m
      some (.ofRat false (x - ((x.floor : Int) : Rat)))
    | _ => none
  if r = f.bias * 2 ^ f.man then f.belowOne else r

/-- Class mask of the raw input (R145, Table 06.4). -/
def FF.classMask (f : FF) (a : Nat) : Nat :=
  let n := f.neg a
  if f.isNan a then (if f.isSnan a then 1 else 2)
  else if f.isInf a then (if n then 4 else 0x200)
  else if f.mag a = 0 then (if n then 0x20 else 0x40)
  else if f.isSub a then (if n then 0x10 else 0x80)
  else (if n then 8 else 0x100)

/-- A × 2^n. A scale beyond ±1000 rounds as ±1000 does in every format: past the largest value, or below every nonzero one. -/
def FF.ldexp (f : FF) (e : FEnv) (l a : Nat) (n : Int) : Nat :=
  f.op e l [a] fun
    | [.inf s] => some (.inf s)
    | [.fin s m] => some (.fin s (m * pow2 (max (-1000) (min 1000 n))))
    | _ => none

def FF.getexp (f : FF) (e : FEnv) (l a : Nat) : Nat :=
  f.op { e with sat := false } l [a] fun
    | [.inf _] => some (.inf false)
    | [.fin _ m] => if m = 0 then some (.inf true) else some (.ofRat false ((floorLog2 m : Int) : Rat))
    | _ => none

def FF.getman (f : FF) (e : FEnv) (l a : Nat) : Nat :=
  f.op { e with sat := false } l [a] fun
    | [.inf _] => none
    | [.fin n m] => if m = 0 then some (.fin n 0) else some (.fin n (m / pow2 (floorLog2 m)))
    | _ => none

/-! ## Conversions (R70, R76) -/

/-- Conversion of a NaN (R76). DESIGN CHOICE (log 67): the spec gives the E4M3 NaN no payload split, and its three mantissa bits go to the top
of the target's mantissa, as those of any other format do. -/
def FF.convNan (src dst : FF) (b : Nat) : Nat :=
  match dst with
  | .e2m1 => 0
  | .e4m3 => dst.signed (src.neg b) 0x7F
  | _ =>
    let m := src.mag b % 2 ^ src.man
    let m' := if src.man ≤ dst.man then m * 2 ^ (dst.man - src.man) else m / 2 ^ (src.man - dst.man)
    dst.quiet (dst.signed (src.neg b) (dst.infMag.getD 0 + m'))

/-- Conversion of an infinity. -/
def FF.convInf (dst : FF) (sat neg : Bool) : Nat :=
  match dst with
  | .e4m3 => dst.signed neg (if sat then dst.maxMag else 0x7F)
  | .e2m1 => dst.signed neg dst.maxMag
  | _ => dst.signed neg (if sat then dst.maxMag else dst.infMag.getD 0)

/-- Float to float; a NaN of the same format is only made quiet. -/
def FF.conv (src dst : FF) (e : FEnv) (b : Nat) : Nat :=
  let x := src.flush (e.ftz src) b
  if src.isNan x then (if src = dst then src.quiet x else FF.convNan src dst x)
  else match src.dec x with
    | .inf n => dst.convInf e.sat n
    | .fin n m => dst.roundFin e.rm e.sat (e.ftz dst) n m

/-- Integer to float. -/
def FF.ofInt (dst : FF) (e : FEnv) (x : Int) : Nat :=
  dst.round e.rm e.sat (e.ftz dst) (.ofRat false (x : Rat))

/-- Float to integer: clamped whatever SAT says. -/
def FF.toInt (src : FF) (e : FEnv) (signed : Bool) (w : Nat) (b : Nat) : Nat :=
  let x := src.flush (e.ftz src) b
  if src.isNan x then 0
  else match src.dec x with
    | .inf n => wrapI w (if n then loI signed w else hiI signed w)
    | .fin n m => wrapI w (clampI signed w (roundInt e.rm (if n then -m else m)))

/-- The R70 conversion of one element between vector types (no b32 on either side). -/
def convElem (st dt : VTy) (e : FEnv) (b : Nat) : Nat :=
  match st.isFloat, dt.isFloat with
  | true, true => FF.conv st.ff dt.ff e b
  | true, false => FF.toInt st.ff e dt.isSigned dt.width b
  | false, true => FF.ofInt dt.ff e (toI st.isSigned st.width b)
  | false, false => fitI dt.isSigned e.sat dt.width (toI st.isSigned st.width b)

/-! ## Stochastic state (R71) -/

/-- SRS[l] at launch and at a write of SEED. -/
def srsInit (seed : Word) (l : Nat) : Word := seed ^^^ BitVec.ofNat 32 ((l + 1) * 0x9E3779B9)

/-- One advance of a lane's generator at an instruction address. -/
def srsNext (x : Word) (pc : DWord) : Word :=
  let a := x ^^^ BitVec.ofNat 32 (pc.toNat / 4)
  let a := if a = 0 then 0x6D2B79F5 else a
  let a := a ^^^ (a <<< 13)
  let a := a ^^^ (a >>> 17)
  a ^^^ (a <<< 5)

/-- The random bits of element `i` of `n` (R72 step 1). -/
def srsElem (rnd : Word) (n i : Nat) : Rm := .sr (elemAt (32 / n) (rnd.setWidth 64) i) (32 / n)

/-! ## Block scales (R63, R73, R74) -/

/-- emax of an MX element format. -/
def FF.emax : FF → Int
  | .e2m1 => 2
  | .e4m3 => 8
  | _ => 15

/-- The E8M0 scale of a block of f32 encodings, already flushed (R73). -/
def mxScale (dst : FF) (xs : List Nat) : Nat :=
  if xs.any (fun x => FF.f32.isNan x || FF.f32.isInf x) then 0xFF
  else
    let mx := xs.foldl (fun (a : Rat) x => max a (FF.f32.magVal (FF.f32.mag x))) 0
    if mx = 0 then 0 else (max (-127) (min 127 (floorLog2 mx - dst.emax)) + 127).toNat

/-- Narrowing of one element under a block scale (R74). -/
def mxNarrow (dst : FF) (rm : Rm) (scale : Nat) (x : Nat) : Nat :=
  if scale = 0xFF then 0
  else dst.roundFin rm true false (FF.f32.neg x) (FF.f32.magVal (FF.f32.mag x) / pow2 ((scale : Int) - 127))

end Sys2Proof
end

