-- ==== Sys2Proof/Machine/State.lean ====
section
/-! DEFINITION. The state of a J96: plain data, one home for every piece of state the spec names.
Tables (Tbl) list entries by key; a sparse table reads its default where nothing is listed (Machine/Tables.lean). -/

namespace Sys2Proof.Machine

/-! ## Reasons a step can stop -/

/-- Faults of the model. Every trap of the part is a next state, so none of them stands here. -/
inductive Fault where
  /-- Raised by a meaning executed while no fragment, walk or service core is the one executing (State.focus). Safe: no step
  reaches it, and the part has no such situation. -/
  | noFocus
  deriving DecidableEq, Repr

/-- Refusals of the model. -/
inductive Refusal where
  /-- An instruction that has no meaning yet. Safe. -/
  | notModelled (mnemonic : String)
  deriving DecidableEq, Repr

/-! ## Names -/

/-- Queue classes and the class of handler warps (Table 14.5, R377). -/
inductive Cls where
  | d | v | g | l | b | h
  deriving DecidableEq, Repr

/-- Privilege levels of warps (R282). -/
inductive Level where
  | u | h
  deriving DecidableEq, Repr

/-- STATE of a live fragment (Table 15.3); a fragment that is not live has no entry. -/
inductive FragSt where
  | running | ready | held | parked | waiting | stalled
  deriving DecidableEq, Repr

/-- WKIND (Table 15.3); `none` is 0. `peer` is the model's name for a fragment that stands at an instruction until its path-0x4 or
path-0x5 lanes have completed (R160 step 6), whose entry shows STATE 1 and WKIND 0. -/
inductive WKind where
  | none | swait | bwait | ralloc | vacq | line | bar | barcl | frames | copySlots | buildQueue | walkRoom | hcrr | wait | walks
  | peer
  deriving DecidableEq, Repr

/-- Trap causes (Table 15.1). -/
inductive Cause where
  | none | ill | priv | nest | page | prot | lockmiss | align | path | disp | land | lazy | mpart | tile | accx | regx | fragx
  | peer | wswr | barto | timer | brk | trap | unavail | ray | ecc
  deriving DecidableEq, Repr

/-- Where a warp's or workgroup's state is (R51, R299). -/
inductive Resid where
  /-- `written`: its state is saved, and its core still saves work of other contexts, so its room is not released (R299). -/
  | resident | leaving | written | saved
  deriving DecidableEq, Repr

/-- Kinds of access: load, store, atomic, execute (Table 16.3). -/
inductive Kind where
  | ld | st | at | ex
  deriving DecidableEq, Repr

/-- A failed access of an engine or a walk that is with the pump house (R333): what failed, and the fault message it waits on. -/
structure EngFault where
  cause : Cause
  addr  : DWord
  kind  : Kind
  msg   : Option Nat
  deriving DecidableEq, Repr

/-! ## Fragments -/

/-- One operand as the trap frame records it (R307): validity, whether a latch delivered it, and word `w` of lane `l` at key
`96w + l`. -/
structure OpRec where
  valid : Bool
  lat   : Bool
  words : Tbl Word
  deriving DecidableEq, Repr

/-- What a park records (Table 15.2, Table 15.3a). -/
structure ParkRec where
  cause  : Cause
  sub    : BitVec 16
  lanes  : LaneMask
  /-- INFO word of lane `l` at key `l`; accesses that the pump house can walk again at keys from 96 (noteAccess). -/
  info   : Tbl Word
  faddr  : DWord
  g0     : Word
  g1     : Word
  g2     : Word
  fw     : Nat
  a      : OpRec
  b      : OpRec
  c      : OpRec
  clk    : DWord
  deriving DecidableEq, Repr

/-- What `fres.replay` leaves for the next issue (R314). -/
structure Replay where
  lanes : LaneMask
  a     : Option (Tbl Word)
  b     : Option (Tbl Word)
  c     : Option (Tbl Word)
  deriving DecidableEq, Repr

/-- One access of a lane: element of a list form, address and size in bytes. -/
structure LAcc where
  lane : Nat
  elem : Nat
  addr : DWord
  n    : Nat
  deriving DecidableEq, Repr

/-- Data of a wait or stall that Table 15.3 does not show. -/
structure WaitData where
  /-- Order of request among waiters (R35, R264). -/
  order  : Nat
  /-- Resident cycles left of a `swait` timeout; none is no timeout (R172). -/
  left   : Option Nat
  /-- Last value read by a `swait`; none before its first read. -/
  last   : Option DWord
  /-- CLK by which a `swait` reads again (R172). -/
  again  : Nat
  /-- Address a `swait` waits on; blocks a `vacq` waits for; otherwise 0. -/
  arg    : DWord
  /-- Requests or walks still outstanding for this instruction (R160, R250); the lines that an absent-line wait stands on. -/
  ids    : List Nat
  /-- Lanes that completed, and their faults by lane, of an instruction with outstanding parts. -/
  done   : LaneMask
  faults : List (Nat × Cause × Nat × DWord)
  /-- What completions have brought so far, and the accesses to perform once they have all come (R160, R165). -/
  got    : List (LAcc × List Byte)
  rest   : List LAcc
  /-- A park that waits for frames after an effect was taken (R306). -/
  pend   : Option ParkRec
  /-- A stall for frames of a fragment that holds no slot: it waited, or a pre-emption took the slot away. -/
  slotless : Bool
  deriving DecidableEq, Repr

/-- A live fragment: its fragment-table entry (Table 15.3) and per-fragment state (R42). -/
structure Frag where
  st      : FragSt
  cause   : Cause
  sub     : BitVec 16
  s       : Byte
  j       : Byte
  fw      : Nat
  pc      : DWord
  pidx    : Word
  tokw    : BitVec 16
  frame   : DWord
  lanes   : LaneMask
  wkind   : WKind
  warg    : BitVec 28
  /-- Latches ^1 first, at most four; each lists lane values (R26). -/
  latches : List (Tbl DWord)
  /-- Instructions of the current reach already issued (R24). -/
  reach   : Nat
  /-- Reaches of its quarter that went to others while it stayed ready (R25 rule 1). -/
  starve  : Nat
  /-- Fragments that must receive a reach first after a `yield` (R123). -/
  yield   : List (Nat × Nat)
  /-- Executes its join instruction without holding (R20, R122, R315). -/
  skip    : Bool
  /-- The reach was won while TIMER was pending, and its first instruction has not issued (R51). -/
  due     : Bool
  /-- A pre-emption stopped its reach, which goes on as the same reach (R24). -/
  cont    : Bool
  /-- The next instruction acquires at `dev` (R313). -/
  acq     : Bool
  replay  : Option Replay
  /-- Hidden intermediate values of the deprecated forms (R158). -/
  hidden  : List (Tbl DWord)
  /-- Lanes whose result those steps write. -/
  hidAct  : LaneMask
  /-- The token that a `vgldl` in progress keeps busy between its steps (R29, R166). -/
  tokHeld : Option Nat
  /-- CLK at the last park (R377). -/
  parkClk : DWord
  /-- An `fpark` that waits for the end of the instruction in progress (R316). -/
  brk     : Option (BitVec 14)
  wait    : WaitData
  deriving DecidableEq, Repr

/-! ## Warps -/

/-- An access of a warp in flight (R161): what lands in registers when it completes, and the token it holds. -/
structure Access where
  tok   : Option Nat
  frag  : Nat
  /-- Vector words to land, at key `96 reg + lane`. -/
  vdst  : Tbl Word
  /-- Scalar words to land. -/
  sdst  : Tbl Word
  /-- Lanes of the fragment that issued it, for R11 at a landing in s0 to s2. -/
  lanes : LaneMask
  /-- Tiles and accumulator tiles it writes, and those it reads (R187). -/
  tiles  : List Nat
  accs   : List Nat
  tilesR : List Nat
  accsR  : List Nat
  /-- Tile bytes to land, at key `16384 t + offset`, and accumulator words at key `4096 c + index`. -/
  tdst  : Tbl Byte
  adst  : Tbl Word
  /-- Scratchpad lines that are absent until it completes (R191, R201). -/
  lines : List Nat
  deriving DecidableEq, Repr

/-- An error held until an instruction that waits on a token or object receives it (R179, R211). -/
structure TokErr where
  tok    : Nat
  /-- The credited barrier object of a copy. -/
  obj    : Option Nat
  /-- Lanes, first register and count of the results of a neural call (R211). -/
  lanes  : LaneMask
  d      : Nat
  n      : Nat
  cause  : Cause
  sub    : BitVec 16
  addr   : DWord
  detail : Word
  deriving DecidableEq, Repr

/-- Program control registers held per warp (Table 02.4) and the counter shadows (R50). -/
structure Pcrs where
  mode   : Word
  rlab   : Word
  dtl    : Word
  wtim   : Word
  wtcmp  : Word
  nflush : Word
  seed   : Word
  mbu    : Word
  /-- TSH0 to TSH15, sparse with default 0. -/
  tsh    : Tbl Word
  clkHi  : Word
  timeHi : Word
  deriving DecidableEq, Repr

/-- A warp (R39 to R54). -/
structure Warp where
  warpId  : BitVec 20
  ctx     : Nat
  launch  : Nat
  wg      : Nat
  index   : Nat
  cls     : Cls
  level   : Level
  /-- It runs on a control core (R376). -/
  ctl     : Bool
  core    : Nat
  quarter : Nat
  /-- Dispatch order (R25). -/
  age     : Nat
  resid   : Resid
  /-- s0 to s383, sparse with default 0. -/
  sregs   : Tbl Word
  /-- Vector register r of lane l at key 96r + l, sparse with default 0. -/
  vregs   : Tbl Word
  base    : Nat
  top     : Nat
  /-- m0 at launch (R313). -/
  lanes0  : LaneMask
  /-- Depth counters by lane, sparse with default 0. -/
  depth   : Tbl Byte
  frags   : Tbl Frag
  /-- GEN by fragment id, sparse with default 0 (R309). -/
  gens    : Tbl (BitVec 7)
  /-- Outstanding parts by token, sparse with default 0; a token is free when it has none (R29). -/
  tokens  : Tbl Nat
  access  : Tbl Access
  errs    : List TokErr
  pcr     : Pcrs
  /-- Stochastic state of the lanes that have advanced since SEED was last set (R71). -/
  srs     : Tbl Word
  /-- Words of the profile table image, sparse with default 0 (R78). -/
  prof    : Tbl Word
  tiles   : Nat
  accs    : Nat
  /-- Tile bytes at key 16384 t + offset, sparse with default 0. -/
  tile    : Tbl Byte
  /-- Accumulator words at key 4096 c + index, sparse with default 0, and the live bits (R186). -/
  acc     : Tbl Word
  live    : BitVec 48
  timer   : Bool
  /-- LASTERR of a handler warp (Table 15.5). -/
  lasterr : Word
  /-- Launch of the fragment whose handle this warp last read from TQ. -/
  tqLast  : Option Nat
  /-- Last PHASE this warp read of each barrier object, by offset (Table 07.8). -/
  phases  : Tbl Word
  /-- Every lane has ended; what it issued is not complete (R122). -/
  ended   : Bool
  /-- Fragment-table entries that an ended warp keeps until every token is free (R122). -/
  kept    : Nat
  /-- Found restartable by the pre-emption that is stopping it (R204). -/
  restart : Bool
  /-- It goes on at RLAB after a restart, and the instruction there has not been found to be `land` yet (R48, R205). -/
  landDue : Bool
  deriving DecidableEq, Repr

/-! ## Workgroups and cluster groups -/

/-- A round of a `bar` or `barcl` slot (R317). -/
structure Round where
  /-- Cycles counted towards the watchdog. -/
  count : Nat
  /-- PC of the first arrival. -/
  pc    : DWord
  deriving DecidableEq, Repr

/-- What stands for a page of a locked region (R328, R330). -/
inductive LockSt where
  /-- `locked`: a valid lockable entry; `invalid`: a change of mapping has made it invalid, and no access has met that yet; `ordinary`:
  since then an ordinary entry serves the page; `lost`: a restore found no room for the region. -/
  | locked | invalid | ordinary | lost
  deriving DecidableEq, Repr

/-- A region locked by `tlock` (R173, R328). -/
structure LockRegion where
  base    : DWord
  len     : Nat
  /-- Its pages, rounded out: page address, size in bytes, and what stands for the page. -/
  pages   : List (Nat × Nat × LockSt)
  deriving DecidableEq, Repr

structure Wg where
  ctx     : Nat
  launch  : Nat
  linear  : Nat
  x       : Nat
  y       : Nat
  z       : Nat
  cg      : Nat
  cls     : Cls
  ctl     : Bool
  core    : Nat
  resid   : Resid
  warps   : List Nat
  /-- Scratchpad bytes and its size in lines (R55). -/
  scratch : List Host.Cell
  lines   : Nat
  /-- Copies in flight with bytes still to land in a line, by line number; a line listed is absent (R174). -/
  absent  : Tbl Nat
  /-- Blocks of the extended pool: declared and free (R34). -/
  pool    : Nat
  free    : Nat
  slots   : Nat
  rounds  : Tbl Round
  locks   : List LockRegion
  /-- CLK since which every warp stands descheduled (R297). -/
  idle    : Option Nat
  deriving DecidableEq, Repr

structure Cg where
  launch  : Nat
  cluster : Nat
  wgs     : List Nat
  rounds  : Tbl Round
  deriving DecidableEq, Repr

/-! ## Copies (R175 to R179) -/

/-- A matrix command captured at issue, from an instruction or a CHAIN word (R177, R197): the tiles with the shapes captured. -/
structure MOp where
  warp   : Nat
  ctx    : Nat
  cls    : Cls
  core   : Nat
  /-- 0 `mma`, 1 `mmaz`, 2 `mmax`, 3 `mmaxz`. -/
  fn     : Nat
  ty     : VTy
  acc    : Nat
  ta     : Nat
  tb     : Nat
  xa     : Nat
  xb     : Nat
  shA    : Word
  shB    : Word
  shXA   : Word
  shXB   : Word
  /-- The copy it is chained to. -/
  copy   : Option Nat
  /-- Order of issue, the CLK since which it waits, and whether the array has started it. -/
  order  : Nat
  queued : Nat
  running : Bool
  deriving DecidableEq, Repr

structure Copy where
  warp    : Nat
  wg      : Nat
  ctx     : Nat
  cls     : Cls
  core    : Nat
  ctl     : Bool
  tok     : Nat
  /-- Address of its descriptor (Table 15.9). -/
  desc    : DWord
  /-- Descriptor fields (Table 07.5). -/
  kind    : Nat
  fill    : Word
  esize   : Nat
  scope   : Nat
  rel     : Bool
  acq     : Bool
  src     : DWord
  dst     : DWord
  dim0    : Nat
  dim1    : Nat
  dim2    : Nat
  sstr1   : Int
  sstr2   : Int
  dstr1   : Int
  dstr2   : Int
  listcnt : Nat
  listoff : Nat
  barv    : Bool
  baroff  : Nat
  chain   : Option MOp
  /-- Its identity. -/
  id      : Nat
  /-- Bytes moved or scanned so far, and credit already given. -/
  done    : Nat
  credited : Nat
  /-- Source bytes read beyond `done` with the word of the last one moved, by byte index (R231). -/
  ahead   : Tbl Byte
  /-- Numbers of nonzero elements found by an nzscan, oldest first (R176). -/
  found   : List Nat
  /-- Lines whose presence this copy holds off. -/
  lines   : List Nat
  /-- Peer or host request the engine waits for. -/
  req     : Option Nat
  /-- The last byte has landed and the chained command has been issued. -/
  landed  : Bool
  /-- A fault of the copy is with the pump house (R179). -/
  fault   : Option EngFault
  resid   : Resid
  deriving DecidableEq, Repr

/-! ## The sluice (R208 to R214) -/

/-- One layer of a weight set (Table 08.7). -/
structure WLayer where
  act   : Nat
  nout  : Nat
  scale : Word
  woff  : Nat
  boff  : Nat
  xoff  : Nat
  deriving DecidableEq, Repr

/-- A weight-set descriptor as kept with an accepted launch (R208). -/
structure WSet where
  nin    : Nat
  mxfp4  : Bool
  wbase  : DWord
  layers : List WLayer
  deriving DecidableEq, Repr

/-- One row of an `ncall`. -/
structure Row where
  warp    : Nat
  launch  : Nat
  access  : Nat
  lane    : Nat
  d       : Nat
  tok     : Nat
  input   : List Nat
  prof    : Tbl Word
  nflush  : Nat
  entered : Nat
  cls     : Cls
  deriving DecidableEq, Repr

structure Bin where
  ctx  : Nat
  h    : Nat
  rows : List Row
  deriving DecidableEq, Repr

/-- A group of at most 64 rows of a job and the layer it has reached (R213): `h` holds the f16 values of each row. -/
structure Group where
  rows    : List Row
  layer   : Nat
  h       : List (List Nat)
  /-- The core chosen for the next operation, its order of issue, the CLK since which it waits, and whether the array has started it. -/
  core    : Nat
  order   : Nat
  queued  : Nat
  running : Bool
  /-- f32 outputs by row once the last layer has run. -/
  out     : Option (List (List Nat))
  /-- A failed read that is with the pump house, and the error that ended the group (R211). -/
  fault   : Option EngFault
  err     : Option (Cause × DWord)
  deriving DecidableEq, Repr

structure Job where
  cluster : Nat
  ctx     : Nat
  h       : Nat
  groups  : List Group
  deriving DecidableEq, Repr

/-! ## Walks and builds (R234 to R258) -/

/-- A node layout descriptor (Table 10.2). -/
structure Layout where
  q8      : Bool
  rel     : Bool
  cntw    : Nat
  cntpos  : Nat
  cntoff  : Nat
  hdr     : Nat
  ptroff  : Nat
  ptrstr  : Nat
  boxoff  : Nat
  boxstr  : Nat
  qoff    : Nat
  pgran   : Nat
  maxch   : Nat
  leafoff : Nat
  leafstr : Nat
  inline  : Bool
  vbase   : DWord
  ibase   : DWord
  deriving DecidableEq, Repr

/-- A walk-table entry with its program and layouts as checked at launch (R235). -/
structure WalkProg where
  code    : List Word
  sign    : Word
  root    : DWord
  layouts : List (Option Layout)
  deriving DecidableEq, Repr

structure Walk where
  warp    : Nat
  frag    : Nat
  lane    : Nat
  ctx     : Nat
  cls     : Cls
  core    : Nat
  launch  : Nat
  access  : Nat
  tok     : Nat
  d       : Nat
  park    : Bool
  first   : Bool
  idx     : Nat
  prog    : Nat
  /-- ox, oy, oz, tmin, dx, dy, dz, tmax. -/
  world   : List Word
  /-- Level rays ox, oy, oz, dx, dy, dz and instance ids, current level first; level 0 is not listed. -/
  levels  : List (List Word × Word)
  /-- Instance record addresses, current level first. -/
  taddr   : List DWord
  g       : Tbl Word
  n       : DWord
  /-- Node buffer words, sparse with default 0. -/
  buf     : Tbl Word
  nb      : Bool
  hitv    : Bool
  u       : Word
  v       : Word
  prim    : Word
  inst    : Word
  /-- Stack entries on chip, oldest first. -/
  stk     : List DWord
  spl     : Nat
  upc     : Nat
  /-- The first step reads the record and rebuilds the state (R252). -/
  rebuild : Bool
  /-- A copy of the record kept in the save area because its save slot could not be written (R254). -/
  aside   : Option (List Byte)
  /-- A failed access that is with the pump house (R247, R333), and the walk fault whose record could not be written. -/
  pend    : Option EngFault
  saving  : Option (Cause × DWord)
  resid   : Resid
  deriving DecidableEq, Repr

structure Build where
  warp     : Nat
  ctx      : Nat
  cls      : Cls
  tok      : Nat
  half     : Nat
  desc     : DWord
  kind     : Nat
  radius   : Nat
  scope    : Nat
  rel      : Bool
  acq      : Bool
  count    : Nat
  prim     : DWord
  ibase    : DWord
  nodebase : DWord
  nodecap  : Nat
  scrbase  : DWord
  scrcap   : Nat
  order    : Nat
  /-- A failed access that is with the pump house, and whether it was refused (R258). -/
  fault    : Option EngFault
  refused  : Option DWord
  resid    : Resid
  deriving DecidableEq, Repr

/-! ## Launches, graphs and pixels (R259 to R276, R295, R296) -/

/-- A launch record (Table 14.7). -/
structure LaunchRec where
  kstart : DWord
  karg   : DWord
  gx     : Nat
  gy     : Nat
  gz     : Nat
  wx     : Nat
  wy     : Nat
  wz     : Nat
  cgwg   : Nat
  pool   : Nat
  base32 : Nat
  bars   : Nat
  scrl   : Nat
  accs   : Nat
  tiles  : Nat
  nflush : Nat
  seed   : Word
  rlab   : Word
  entry  : Nat
  dtab   : DWord
  dtl    : Nat
  wslen  : Nat
  wstab  : DWord
  prof   : DWord
  walktab : DWord
  walkn  : Nat
  rayslots : Nat
  savebase : DWord
  spillbase : DWord
  rttab  : DWord
  frame  : DWord
  frames : Nat
  pincap : Nat
  rdisc  : Bool
  nnodes : Nat
  graph  : DWord
  catbase : DWord
  catsize : Nat
  firstcnt : Nat
  firstnode : Nat
  firstsrc : DWord
  /-- Residency ranges, base and length word (Table 09.2). -/
  res    : List (DWord × DWord)
  deriving DecidableEq, Repr

/-- A render-target descriptor (Table 11.7). -/
structure Target where
  cbase  : DWord
  zbase  : DWord
  wcells : Nat
  hcells : Nat
  zfn    : Nat
  zwr    : Bool
  blend  : Nat
  cfmt   : Nat
  sig    : DWord
  deriving DecidableEq, Repr

/-- State of a catchment slot that is not free (R260). -/
inductive SlotSt where
  | allocWarp (warp : Nat)
  | allocRaster
  | committed
  | delivered (launch : Nat)
  deriving DecidableEq, Repr

structure Slot where
  st   : SlotSt
  node : Nat
  /-- Target, column, row and ticket of a cell record (R269). -/
  cell : Option (Nat × Nat × Nat × Nat)
  deriving DecidableEq, Repr

/-- A triangle in the rasteriser: its record's slot, the bytes taken from it, and the cells still to emit, in order (R267). -/
structure Tri where
  slot  : Nat
  data  : List Byte
  cells : List (Nat × Nat)
  deriving DecidableEq, Repr

structure Node where
  krec    : DWord
  lrec    : Option LaunchRec
  wsets   : List WSet
  walks   : List (Option WalkProg)
  prof    : Tbl Word
  timeout : Nat
  record  : Nat
  batch   : Nat
  /-- 0 main, 1 ctl, 2 raster. -/
  pool    : Nat
  cell    : Bool
  next    : Nat
  /-- Slots queued, oldest first, with the CLK at which each entered. -/
  basin   : List (Nat × Nat)
  seq     : Nat
  tri     : Option Tri
  deriving DecidableEq, Repr

structure Launch where
  queue   : Option Nat
  ctx     : Nat
  cls     : Cls
  level   : Level
  ctl     : Bool
  deadline : DWord
  /-- Order in which the command's wake write was accepted (R291). -/
  age     : Nat
  lrec    : LaunchRec
  wsets   : List WSet
  walks   : List (Option WalkProg)
  prof    : Tbl Word
  targets : List (Option Target)
  /-- Weight-cache pins by key 4096 cluster + h (R216). -/
  pins    : Tbl Nat
  /-- Linear number of the next workgroup to place; a graph launch counts the first placement of a consumer here. -/
  nextWg  : Nat
  /-- Frames taken, by index, each with the warp that holds it; a BARTO capture holds its frames under no warp. -/
  taken   : Tbl (Option Nat)
  /-- A consumer launch: its graph launch, node, sequence number, records and cluster (R261). -/
  graph   : Option Nat
  node    : Nat
  seqno   : Nat
  records : List Nat
  cluster : Option Nat
  /-- A graph launch: nodes, catchment slots, slot size, ticket and retired counters by key 2^36 rt + 2^18 cx + cy. -/
  nodes   : Tbl Node
  slots   : Tbl Slot
  slotQ   : Nat
  ticket  : Tbl Nat
  retired : Tbl Nat
  deriving DecidableEq, Repr

/-- An operation queued at a blend unit (R273 to R275). -/
structure PixOp where
  warp    : Nat
  ctx     : Nat
  cls     : Cls
  launch  : Nat
  /-- The graph launch whose counters order it; none in a grid launch (R379). -/
  graph   : Option Nat
  cluster : Nat
  /-- 0 `pzt`, 1 `pwr`, 2 `pdone`. -/
  kind    : Nat
  rt      : Nat
  cx      : Nat
  cy      : Nat
  ticket  : Nat
  lanes   : LaneMask
  vals    : Tbl Word
  d       : Nat
  tok     : Nat
  access  : Nat
  frag    : Nat
  /-- A failed access that is with the pump house, and the lanes whose accesses were refused (R273). -/
  fault   : Option EngFault
  bad     : LaneMask
  deriving DecidableEq, Repr

/-- A dirty cell in L2 (R276): its signature entry's physical address and the colour bytes that memory still holds. -/
structure DirtyCell where
  sig : Nat
  /-- Physical addresses of its three 128-byte lines. -/
  lines : List Nat
  old : List Byte
  deriving DecidableEq, Repr

/-! ## Contexts, partitions, queues -/

/-- Event kinds; the spec names the occasions, and the numbers are the model's. -/
inductive EvKind where
  | deadlineMiss | wakeRejected | wakeNoRoute | timeSet | handlerFault | parkNotQueued | walkRecordFailed | walkRecordAside
  | frameWriteFailed | engineError | halt | peerFault | rxTranslation | rxBadBuflen | ringWriteIgnored | headerDiscarded
  | xlateMismatch | tempLimit | devnumInUse | recovery | clusterTlb
  deriving DecidableEq, Repr

structure Event where
  kind : EvKind
  a    : Nat
  b    : Nat
  deriving DecidableEq, Repr

/-- An event log with its count of dropped events (R382). -/
structure EvLog where
  events  : List Event
  dropped : Nat
  deriving DecidableEq, Repr

/-- Context descriptor (Table 14.2); BUDGET limits by key 8 class + counter. -/
structure CtxDesc where
  ptroot   : Nat
  part     : Nat
  classes  : BitVec 5
  wsbase0  : Nat
  wslen0   : Nat
  wsbase1  : Nat
  wslen1   : Nat
  hostbase : Nat
  hostlen  : Nat
  csave    : Nat
  csavelen : Nat
  wdog     : Nat
  peerto   : Nat
  lockcap  : Nat
  budget   : Tbl Nat
  deriving DecidableEq, Repr

/-- A park with the pump house, or waiting on a fault message (R332). -/
structure PhPark where
  warp : Nat
  frag : Nat
  /-- Failed accesses: address and kind. -/
  accs : List (DWord × Kind)
  /-- Tags of fault messages it waits on. -/
  msgs : List Nat
  /-- A trap frame whose write failed and has not been resolved yet (R375). -/
  frame : Option ParkRec
  deriving DecidableEq, Repr

structure Ctx where
  desc     : CtxDesc
  /-- A descriptor set on a live context, which takes effect at the next period boundary (R283). -/
  pending  : Option CtxDesc
  /-- Trap queue of (warp, fragment), oldest first (R310). -/
  tq       : List (Nat × Nat)
  tqmask   : Word
  events   : Word
  log      : EvLog
  handler  : Option LaunchRec
  hkeep    : List WSet × List (Option WalkProg) × Tbl Word × List (Option Target)
  paging   : Bool
  protMsgs : Bool
  parks    : List PhPark
  /-- The halt line and its cause: 0x14, 0x1A or 0xFF, with subcode, address and the CLK at which it rose. -/
  halted   : Option (Nat × Nat × DWord × Nat)
  /-- First 16 bytes of a BARTO capture that found no frames (R317). -/
  capture  : Option (List Byte)
  nextWarp : Nat
  /-- Budget counters collected and charges not yet collected, by key 8 class + counter (R292, R293). -/
  spent    : Tbl Nat
  charged  : Tbl Nat
  /-- Charges of a budget period that has begun and whose boundary the counters have not passed yet: the period and its charges. -/
  later    : Nat × Tbl Nat
  drops    : Nat
  deriving DecidableEq, Repr

structure Part where
  clmask : BitVec 12
  lkmask : BitVec 18
  chmask : DWord
  /-- Launches in the dispatcher's intake, oldest first (R339). -/
  intake : List Nat
  /-- Bytes that the pump house has taken for page tables (log 13). -/
  tables : Nat
  deriving DecidableEq, Repr

/-- What a queue's head command is doing once it has started (R341). -/
inductive Running where
  /-- A launch, and the head at which it started. -/
  | launch (id : Nat) (head : Word)
  /-- A launch that `phdisp` has handed over, and one of those that is complete: its core moves the head by `phretire` (R341). -/
  | handed (id : Nat)
  | retire
  /-- A FILL that has been picked: the half of the weight store that it writes, source, destination offset and length. -/
  | fill (half : Nat) (src : DWord) (dst len : Nat)
  /-- A WAIT: the CLK since which it waits, its address and value, and its timeout in microseconds. -/
  | wait (since : Nat) (addr value : DWord) (limit : Nat)
  deriving DecidableEq, Repr

inductive QSt where
  | idle | running | paused | error | halted
  deriving DecidableEq, Repr

structure Queue where
  used   : Bool
  epoch  : Word
  owner  : Nat
  cls    : Cls
  base   : DWord
  slots  : Nat
  head   : Word
  tail   : Word
  st     : QSt
  err    : Byte
  esub   : Word
  done   : DWord
  tdone  : DWord
  run    : Option Running
  /-- FLAGS[0] of the command that runs. -/
  vec    : Bool
  /-- Accepted tails with the order of acceptance, oldest first (R291). -/
  ages   : List (Word × Nat)
  deriving DecidableEq, Repr

/-- A fault message the driver has not answered (R332). -/
structure FaultMsg where
  ctx  : Nat
  page : Nat
  kind : Nat
  deriving DecidableEq, Repr

/-! ## Pump house, host link, fabric, network -/

/-- A RISC-V core of the pump house (R338). -/
structure PhCore where
  /-- x1 to x31, sparse with default 0; x0 reads 0. -/
  x       : Tbl DWord
  pc      : DWord
  machine : Bool
  sig     : DWord
  mcause  : DWord
  mepc    : DWord
  mtval   : DWord
  mtvec   : DWord
  mstatus : DWord
  /-- Control and status registers that hold what was written, by number, sparse with default 0 (Zicsr; log 6). -/
  csr     : Tbl DWord
  /-- Reservation of a load-reserved: address and width. -/
  resv    : Option (Nat × Nat)
  /-- A `phwait` in progress: its rd, timeout in core cycles (0 for none) and the CLK since which it waits (R339). -/
  wait    : Option (Nat × DWord × Nat)
  deriving DecidableEq, Repr

structure Ring where
  mbase  : DWord
  abase  : DWord
  mslots : BitVec 16
  mtail  : Word
  mhead  : Word
  deriving DecidableEq, Repr

/-- The signed configuration record (Table 17.8). -/
structure CfgRec where
  serial  : DWord
  devkeyh : List Byte
  clmask  : BitVec 12
  ccmask  : Word
  chmask  : DWord
  lkmask  : BitVec 20
  pwrlim  : BitVec 16
  secver  : Word
  sig     : List Byte
  deriving DecidableEq, Repr

/-- A firmware bank (R344, R347). -/
structure Bank where
  valid  : Bool
  fwver  : Word
  secver : Word
  hash   : List Byte
  major  : Nat
  minor  : Nat
  deriving DecidableEq, Repr

/-- A request sent to a peer or to the host, and what its completion serves (R160, R178, R337, R358). -/
structure Req where
  host    : Bool
  warp    : Nat
  frag    : Nat
  /-- Lane of a warp's instruction; none for a copy. -/
  lane    : Option Nat
  copy    : Option Nat
  ctx     : Nat
  tag     : BitVec 16
  addr    : DWord
  bytes   : Nat
  /-- 1 load, 2 store, 3 atomic. -/
  kind    : Nat
  /-- Element of the lane. -/
  elem    : Nat
  /-- Bytes that a store to the host carries. -/
  data    : List Byte
  /-- The token that it holds, of an asynchronous instruction. -/
  tok     : Option Nat
  sent    : Nat
  deriving DecidableEq, Repr

/-- An Ethernet ingress ring (Table 18.3). -/
structure EthRing where
  rbase  : DWord
  rcount : Nat
  ctx    : Nat
  etype  : Nat
  vlan   : Nat
  s      : Nat
  warned : Bool
  deriving DecidableEq, Repr

/-- An image chosen by XLATE, or received part by part from a translator, with the hash that came with it (R352). -/
structure XObj where
  image  : List Byte
  hash   : List Byte
  mapped : Bool
  /-- CLK at which its first part arrived. -/
  since  : Nat
  deriving DecidableEq, Repr

structure Clock where
  clk      : DWord
  time     : DWord
  /-- Part of a nanosecond in 1/21, and signed nanoseconds still to slew (R49, R365). -/
  timeRem  : Nat
  slew     : Int
  ptpPort  : Option Nat
  ptpDomain : Byte
  ptpMaster : Bool
  /-- A refresh window of half 0, 1 is in progress (R53). -/
  win0     : Bool
  win1     : Bool
  deriving DecidableEq, Repr

structure Board where
  boot       : BitVec 4
  devnum     : Byte
  standalone : Bool
  /-- CLK at which link training began in BOOT 3 (R370). -/
  train      : Nat
  /-- Message rings 0 to 15, sparse with default `Ring.reset`. -/
  rings      : Tbl Ring
  pwr        : Word
  temp0      : BitVec 16
  temp1      : BitVec 16
  throt      : DWord
  wrejh      : DWord
  wrej       : DWord
  cecc       : DWord
  nhalt      : BitVec 16
  /-- Throttle setting of R366: steps of matrix spacing, and steps of withheld vector issue. -/
  space      : Nat
  withhold   : Nat
  /-- The 10-µs period of the last check (R366). -/
  powerAt    : Nat
  /-- Flash: configuration record, a record written for the next reset, boot counter (R345, R346, R353). -/
  cfg        : CfgRec
  cfgNext    : Option CfgRec
  bootCount  : Word
  capKey     : List Byte
  bank0      : Bank
  bank1      : Bank
  running    : Bool
  stbHash    : List Byte
  /-- Vectors raised and not yet taken from the device; the MSI-X table, address, data and control by vector; and the vectors whose pending
  bit is set (R355). -/
  msix       : List Nat
  vecTab     : Tbl (DWord × Word × Word)
  vecPend    : List Nat
  log        : EvLog
  deriving DecidableEq, Repr

structure Net where
  linksUp  : BitVec 20
  /-- Links that reach a destination device (R360). -/
  routes   : Tbl (BitVec 18)
  /-- Headers and payloads sent and not yet taken. -/
  outbox   : List (BitVec 128 × List Byte)
  reqs     : Tbl Req
  nextTag  : BitVec 16
  eth      : Tbl EthRing
  ethDrop  : Nat
  ethOut   : List (Nat × List Byte)
  /-- PTP frames that have come in and that the pump house has not processed, with their ports (R362). -/
  ptpIn    : List (Nat × List Byte)
  objects  : Tbl XObj
  /-- What reads of the host have returned and the host has not taken (R355, R356). -/
  reads    : List (List Byte)
  deriving DecidableEq, Repr

/-! ## What moves next (log 1) -/

/-- What an instruction being executed belongs to. -/
inductive Focus where
  | frag (warp frag : Nat)
  | walk (id : Nat)
  | ph (core : Nat)
  deriving DecidableEq, Repr

/-- Operands of a step that has no encoding: which unit, object or input it is about. -/
structure EvArgs where
  a    : Nat
  b    : Nat
  c    : Nat
  n    : Int
  w    : DWord
  x    : DWord
  data : List Byte
  deriving DecidableEq, Repr

/-- Who moves. -/
inductive Turn where
  /-- Cycles of the arithmetic clock pass. -/
  | clock (cycles : Nat)
  /-- A running fragment issues its next instruction. -/
  | issue (warp frag : Nat)
  /-- A walk takes its next step. -/
  | walk (id : Nat)
  /-- A service core executes its next instruction. -/
  | ph (core : Nat)
  /-- The security core executes its next instruction (R338). -/
  | sec
  /-- The work of BOOT 0, 1 or 2 is over; in BOOT 2, whether every enabled unit passed (R370). -/
  | boot (pass : Bool)
  /-- The host reads n bytes of BAR 0, 2 or 4 at an offset. -/
  | hostRead (bar off n : Nat)
  /-- The host writes a 32-bit word of the MSI-X table (R355). -/
  | vecWrite (off : Nat) (v : Word)
  /-- A step of the part that has no encoding. -/
  | event (i : Instr) (args : EvArgs)
  /-- The host writes its own memory. -/
  | hostWrite (addr : Nat) (data : List Byte)
  /-- The host takes its vectors; the fabric and the network take what was sent. -/
  | drain
  deriving DecidableEq, Repr

/-! ## The state -/

structure State where
  clock    : Clock
  board    : Board
  net      : Net
  /-- HBM by physical address (R321), the weight store by path-0x3 offset (R334), host memory by bus address, pump-house SRAM. -/
  hbm      : List Host.Cell
  wstore   : List Host.Cell
  host     : List Host.Cell
  sram     : List Host.Cell
  /-- The model's own: values that writes have replaced, newest first, each with the number that the next identity had then; by word of HBM,
  and by 2^64 (workgroup + 1) + word of a scratchpad (R59, R176, R221, R230, R233). -/
  olds     : Tbl (List (Nat × Word))
  ctxs     : Tbl Ctx
  parts    : Tbl Part
  queues   : Tbl Queue
  /-- Peer grants, 64-bit entries (Table 16.4), sparse with default 0. -/
  grants   : Tbl DWord
  msgs     : Tbl FaultMsg
  launches : Tbl Launch
  cgs      : Tbl Cg
  wgs      : Tbl Wg
  warps    : Tbl Warp
  copies   : Tbl Copy
  mops     : Tbl MOp
  /-- Sluice bins by key 16 cluster + bin. -/
  bins     : Tbl Bin
  /-- By cluster, the CLK at which rows of a neural call last entered, and 4 core + quarter of the call (R279). -/
  rowsAt   : Tbl (Nat × Nat)
  jobs     : Tbl Job
  /-- Budget units charged in the current 2,100-cycle period (R207): by core and requester, and by core, context and class. -/
  mbuReq   : Tbl Nat
  mbuCap   : Tbl Nat
  /-- The period that these counts belong to. -/
  mbuEra   : Nat
  /-- The budget period that the counters belong to (R292). -/
  period   : Nat
  walks    : Tbl Walk
  builds   : Tbl Build
  pix      : Tbl PixOp
  /-- Dirty cells, and the signatures that stand for cells in memory: entry address, CRC and lines; both by physical address of the cell
  (R276). -/
  cells    : Tbl DirtyCell
  sigs     : Tbl (Nat × Word × List Nat)
  ph       : Tbl PhCore
  /-- The security core and its own memory (R338). -/
  sec      : PhCore
  secMem   : List Host.Cell
  /-- The model's own: turns to come, what executes, operands of the current event, fresh identities, draws of free values. -/
  turns    : List Turn
  focus    : Option Focus
  ev       : EvArgs
  freshId  : Nat
  freeCtr  : Nat
  deriving DecidableEq, Repr

/-! ## Reset (R355, R370, Table 18.1, Table 18.4) -/

/-- 32 zero bytes. -/
def zeros (n : Nat) : List Byte := List.replicate n 0

/-- The configuration record of a full part (R1). DESIGN CHOICE (log 4): the spec gives no record. -/
def CfgRec.full : CfgRec :=
  { serial := 0, devkeyh := zeros 32, clmask := 0xFFF, ccmask := 0xFFFFFFFF, chmask := 0xFFFFFFFFFFFFFFFF, lkmask := 0xFFFFF,
    pwrlim := 1900, secver := 0, sig := zeros 384 }

/-- DESIGN CHOICE (log 4): an installed image of version 0 in bank 0, an empty bank 1. -/
def Bank.empty (valid : Bool) : Bank :=
  { valid := valid, fwver := 0, secver := 0, hash := zeros 32, major := 0, minor := 0 }

def EvLog.empty : EvLog := { events := [], dropped := 0 }

def Ring.reset : Ring := { mbase := 0, abase := 0, mslots := 0, mtail := 0, mhead := 0 }

def EvArgs.none : EvArgs := { a := 0, b := 0, c := 0, n := 0, w := 0, x := 0, data := [] }

/-- CLK and TIME count from reset (R49, R365); the first refresh window of half 0 begins at CLK 0 (R53). -/
def Clock.reset : Clock :=
  { clk := 0, time := 0, timeRem := 0, slew := 0, ptpPort := .none, ptpDomain := 0, ptpMaster := false, win0 := true, win1 := false }

def Board.reset : Board :=
  { boot := 0, devnum := 0xFF, standalone := false, train := 0, rings := [], pwr := 0, temp0 := 0, temp1 := 0, throt := 0, wrejh := 0, wrej := 0,
    cecc := 0, nhalt := 0, space := 0, withhold := 0, powerAt := 0, cfg := .full, cfgNext := .none, bootCount := 0, capKey := zeros 32,
    bank0 := .empty true, bank1 := .empty false, running := false, stbHash := zeros 32, msix := [],
    vecTab := [], vecPend := [], log := .empty }

def Net.reset : Net :=
  { linksUp := 0, routes := [], outbox := [], reqs := [], nextTag := 0, eth := [], ethDrop := 0, ethOut := [], ptpIn := [], objects := [],
    reads := [] }

/-- A service core after reset. PRESUMED (log 6). -/
def PhCore.reset : PhCore :=
  { x := [], pc := 0, machine := true, sig := 0, mcause := 0, mepc := 0, mtval := 0, mtvec := 0, mstatus := 0, csr := [],
    resv := .none, wait := .none }

/-- The device right after reset: nothing loaded, BOOT 0, no context, queue or launch. -/
def State.reset : State :=
  { clock := .reset, board := .reset, net := .reset, hbm := [], wstore := [], host := [], sram := [], olds := [], ctxs := [], parts := [],
    queues := [], grants := [], msgs := [], launches := [], cgs := [], wgs := [], warps := [], copies := [], mops := [], bins := [],
    rowsAt := [], jobs := [], mbuReq := [], mbuCap := [], mbuEra := 0, period := 0, walks := [], builds := [], pix := [], cells := [], sigs := [],
    ph := [(0, .reset), (1, .reset), (2, .reset), (3, .reset)], sec := .reset, secMem := [], turns := [], focus := .none, ev := .none, freshId := 0, freeCtr := 0 }

end Sys2Proof.Machine
end

