-- ==== Sys2Proof/Machine/Tables.lean ====
section
/-! DEFINITION. Keyed tables in canonical form, and byte memory as one of them.
A table lists (key, value) pairs with strictly rising keys. A sparse table has a default and lists no entry equal to it, so
that equal contents are equal data. Memory is a sparse table of bytes whose default is 0. -/

namespace Sys2Proof

/-! ## Tables -/

/-- The value at a key. -/
def Tbl.find {α : Type} : Tbl α → Nat → Option α
  | [], _ => none
  | (j, a) :: t, k => if j = k then some a else Tbl.find t k

/-- Insert or replace, keeping keys strictly rising. -/
def Tbl.put {α : Type} : Tbl α → Nat → α → Tbl α
  | [], k, v => [(k, v)]
  | (j, a) :: t, k, v =>
    if k < j then (k, v) :: (j, a) :: t
    else if j = k then (k, v) :: t
    else (j, a) :: Tbl.put t k v

/-- Remove a key. -/
def Tbl.del {α : Type} : Tbl α → Nat → Tbl α
  | [], _ => []
  | (j, a) :: t, k => if j = k then Tbl.del t k else (j, a) :: Tbl.del t k

/-- Keys strictly rise, every one above `lo`. -/
def Tbl.risesFrom {α : Type} : Nat → Tbl α → Bool
  | _, [] => true
  | lo, (j, _) :: t => decide (lo ≤ j) && Tbl.risesFrom (j + 1) t

/-- The canonical form of a table. -/
def Tbl.wf {α : Type} (t : Tbl α) : Bool := Tbl.risesFrom 0 t

def Tbl.keys {α : Type} (t : Tbl α) : List Nat := t.map (·.1)

def Tbl.vals {α : Type} (t : Tbl α) : List α := t.map (·.2)

/-- Change the value at a key, if there is one. -/
def Tbl.modify {α : Type} (t : Tbl α) (k : Nat) (g : α → α) : Tbl α :=
  match Tbl.find t k with
  | some a => Tbl.put t k (g a)
  | none => t

/-- Apply to every value. -/
def Tbl.mapVals {α : Type} (t : Tbl α) (g : Nat → α → α) : Tbl α := t.map (fun p => (p.1, g p.1 p.2))

/-- Keep the entries that satisfy a test. -/
def Tbl.keep {α : Type} (t : Tbl α) (g : Nat → α → Bool) : Tbl α := t.filter (fun p => g p.1 p.2)

/-- The lowest key whose entry satisfies a test. -/
def Tbl.firstKey {α : Type} (t : Tbl α) (g : Nat → α → Bool) : Option Nat :=
  (t.find? (fun p => g p.1 p.2)).map (·.1)

/-- Entries that satisfy a test. -/
def Tbl.count {α : Type} (t : Tbl α) (g : Nat → α → Bool) : Nat := (t.filter (fun p => g p.1 p.2)).length

/-- The lowest number below `bound` that is no key. -/
def Tbl.freeKey {α : Type} (t : Tbl α) (bound : Nat) : Option Nat :=
  (List.range bound).find? (fun k => (Tbl.find t k).isNone)

/-! ## Sparse tables -/

/-- The value at a key, the default where none is listed. -/
def Tbl.read {α : Type} (d : α) (t : Tbl α) (k : Nat) : α := (Tbl.find t k).getD d

/-- Write a value; the default is never listed. -/
def Tbl.write {α : Type} [DecidableEq α] (d : α) (t : Tbl α) (k : Nat) (v : α) : Tbl α :=
  if v = d then Tbl.del t k else Tbl.put t k v

/-- Canonical form of a sparse table. -/
def Tbl.sparseWf {α : Type} [DecidableEq α] (d : α) (t : Tbl α) : Bool :=
  Tbl.wf t && t.all (fun p => decide (p.2 ≠ d))

/-- Write a list of values at consecutive keys. -/
def Tbl.writes {α : Type} [DecidableEq α] (d : α) (t : Tbl α) (k : Nat) : List α → Tbl α
  | [] => t
  | v :: vs => Tbl.writes d (Tbl.write d t k v) (k + 1) vs

/-! ## Memory -/

/-- Bytes by address; an unlisted address reads as 0. -/
abbrev Memory := List Host.Cell

/-- The canonical form of memory: addresses strictly rise and no listed byte is 0. -/
def Memory.wf (m : Memory) : Bool := Tbl.sparseWf (0 : Byte) m

/-- One byte. -/
def Memory.byte (m : Memory) (a : Nat) : Byte := Tbl.read (0 : Byte) m a

/-- Store one byte. -/
def Memory.store (m : Memory) (a : Nat) (b : Byte) : Memory := Tbl.write (0 : Byte) m a b

/-- `n` bytes from an address up. -/
def Memory.bytes (m : Memory) (a : Nat) : Nat → List Byte
  | 0 => []
  | n + 1 => Memory.byte m a :: Memory.bytes m (a + 1) n

/-- Store bytes from an address up. -/
def Memory.stores (m : Memory) (a : Nat) : List Byte → Memory
  | [] => m
  | b :: bs => Memory.stores (Memory.store m a b) (a + 1) bs

/-! ## Byte order (R4): the lowest address holds the least significant byte -/

/-- The number that bytes hold, lowest address first. -/
def leNat : List Byte → Nat
  | [] => 0
  | b :: bs => b.toNat + 256 * leNat bs

/-- The low `n` bytes of a number, lowest address first. -/
def leBytes : Nat → Nat → List Byte
  | 0, _ => []
  | n + 1, v => BitVec.ofNat 8 v :: leBytes n (v / 256)

/-- The `n`-byte number at an address. -/
def Memory.le (m : Memory) (a n : Nat) : Nat := leNat (Memory.bytes m a n)

/-- Store an `n`-byte number at an address. -/
def Memory.setLe (m : Memory) (a n v : Nat) : Memory := Memory.stores m a (leBytes n v)

end Sys2Proof
end

