-- ==== Sys2Proof/Machine/Operands.lean ====
section
/-! DEFINITION. Registers, masks and every operand form: scalar operands (R110), source selectors (R43, R95 to R97), guards and
activity (R11 to R14), and what a trap frame records of an instruction's operands (R305, R307). -/

namespace Sys2Proof

open Machine

/-! ## Lane masks -/

/-- The lanes of a mask, ascending. -/
def lanesOf (m : LaneMask) : List Nat := (List.range 96).filter (fun l => m.getLsbD l)

/-- The mask of the lanes that satisfy a test. -/
def maskOf (p : Nat → Bool) : LaneMask :=
  BitVec.ofNat 96 ((List.range 96).foldl (fun a l => if p l then a + 2 ^ l else a) 0)

/-- The mask of one lane. -/
def laneBit (l : Nat) : LaneMask := BitVec.ofNat 96 (2 ^ l)

def maskOfList (ls : List Nat) : LaneMask := ls.foldl (fun m l => m ||| laneBit l) 0

/-- The lowest lane of a mask; 96 for none. -/
def lowLane (m : LaneMask) : Nat := (lanesOf m).headD 96

/-- Count of lanes. -/
def laneCount (m : LaneMask) : Nat := popcount 96 m.toNat

/-! ## Scalar registers and triples (R11, R39 to R41) -/

def Machine.Warp.sreg (w : Warp) (n : Nat) : Word := Tbl.read 0 w.sregs n

/-- A pair, low word in the even register. -/
def Machine.Warp.spair (w : Warp) (n : Nat) : DWord := w.sreg (n + 1) ++ w.sreg n

/-- Triple mk is s(3k), s(3k+1), s(3k+2). -/
def Machine.Warp.triple (w : Warp) (k : Nat) : LaneMask := w.sreg (3 * k + 2) ++ w.sreg (3 * k + 1) ++ w.sreg (3 * k)

/-- The alive mask m0. -/
def Machine.Warp.alive (w : Warp) : LaneMask := w.triple 0

/-- Word `i` of a lane mask. -/
def maskWord (m : LaneMask) (i : Nat) : Word := m.extractLsb' (32 * i) 32

/-- A scalar write by a fragment with these lanes; s0 to s2 can only lose the fragment's own bits (R11). -/
def Machine.Warp.setSreg (w : Warp) (lanes : LaneMask) (n : Nat) (v : Word) : Warp :=
  let v' := if n < 3 then w.sreg n &&& (v ||| ~~~(maskWord lanes n)) else v
  { w with sregs := Tbl.write 0 w.sregs n v' }

def Machine.Warp.setSpair (w : Warp) (lanes : LaneMask) (n : Nat) (v : DWord) : Warp :=
  (w.setSreg lanes n (v.setWidth 32)).setSreg lanes (n + 1) (v.extractLsb' 32 32)

/-- A register or pair. -/
def Machine.Warp.sval (w : Warp) (wide : Bool) (n : Nat) : DWord := if wide then w.spair n else (w.sreg n).setWidth 64

def Machine.Warp.setSval (w : Warp) (lanes : LaneMask) (wide : Bool) (n : Nat) (v : DWord) : Warp :=
  if wide then w.setSpair lanes n v else w.setSreg lanes n (v.setWidth 32)

def Machine.Warp.setTriple (w : Warp) (lanes : LaneMask) (k : Nat) (m : LaneMask) : Warp :=
  ((w.setSreg lanes (3 * k) (maskWord m 0)).setSreg lanes (3 * k + 1) (maskWord m 1)).setSreg lanes (3 * k + 2) (maskWord m 2)

/-! ## Vector registers -/

def vkey (r l : Nat) : Nat := 96 * r + l

def Machine.Warp.vreg (w : Warp) (r l : Nat) : Word := Tbl.read 0 w.vregs (vkey r l)

def Machine.Warp.vpair (w : Warp) (r l : Nat) : DWord := w.vreg (r + 1) l ++ w.vreg r l

def Machine.Warp.setV (w : Warp) (r l : Nat) (v : Word) : Warp := { w with vregs := Tbl.write 0 w.vregs (vkey r l) v }

/-- One lane's value at a type: a word, or a pair for an L type. -/
def Machine.Warp.vval (w : Warp) (wide : Bool) (r l : Nat) : DWord := if wide then w.vpair r l else (w.vreg r l).setWidth 64

def Machine.Warp.setVval (w : Warp) (wide : Bool) (r l : Nat) (v : DWord) : Warp :=
  if wide then (w.setV r l (v.setWidth 32)).setV (r + 1) l (v.extractLsb' 32 32) else w.setV r l (v.setWidth 32)

/-- Write a list of lane values. -/
def Machine.Warp.setVlanes (w : Warp) (wide : Bool) (r : Nat) : List (Nat × DWord) → Warp
  | [] => w
  | (l, v) :: t => (w.setVval wide r l v).setVlanes wide r t

def Machine.Warp.depthOf (w : Warp) (l : Nat) : Nat := (Tbl.read (0 : Byte) w.depth l).toNat

def Machine.Warp.setDepth (w : Warp) (l : Nat) (d : Nat) : Warp := { w with depth := Tbl.write (0 : Byte) w.depth l (BitVec.ofNat 8 d) }

/-! ## Activity (R13) -/

/-- alv(f). -/
def Machine.Warp.alv (w : Warp) (f : Frag) : LaneMask := f.lanes &&& w.alive

/-- Lanes with D = 0. -/
def Machine.Warp.level0 (w : Warp) : LaneMask := ~~~(maskOf fun l => w.depthOf l != 0)

/-- act(f) under a guard, limited to the replay set (R314). -/
def Machine.Warp.act (w : Warp) (f : Frag) (guard : Option (BitVec 7)) : LaneMask :=
  let g : LaneMask := match guard with
    | some k => w.triple k.toNat
    | none => ~~~(0 : LaneMask)
  let r : LaneMask := match f.replay with
    | some r => r.lanes
    | none => ~~~(0 : LaneMask)
  w.alv f &&& w.level0 &&& g &&& r

/-- The fragment that holds a lane; 0 for a lane that is not alive (R153). -/
def Machine.Warp.fragOf (w : Warp) (l : Nat) : Nat := (Tbl.firstKey w.frags (fun _ f => f.lanes.getLsbD l)).getD 0

/-! ## Selectors (R43, R95, R96) -/

/-- A value placed into every element of a type. -/
def splat (ty : VTy) (e : Nat) : DWord := ty.pack (List.replicate ty.count e)

/-- Integer value of special codes 0 to 6 (Table 02.3); `fid` is the fragment id to report. -/
def specialInt (w : Warp) (fid l code : Nat) : Nat :=
  match code with
  | 1 => 1
  | 2 => l
  | 3 => l / 32
  | 4 => w.index
  | 5 => fid
  | 6 => w.depthOf l
  | _ => 0

/-- A rational in every element of a floating type. -/
def splatF (ty : VTy) (x : Rat) : DWord := splat ty (ty.ff.roundFin .rne true false (decide (x < 0)) (if x < 0 then -x else x))

/-- Special source at a type (R43). -/
def specialVal (w : Warp) (fid : Nat) (ty : VTy) (l code : Nat) : DWord :=
  if code ≤ 6 then
    if ty.isFloat then splatF ty (specialInt w fid l code : Nat)
    else splat ty (specialInt w fid l code)
  else
    let x : Rat := if code = 7 then 1 else if code = 8 then -1 else (1 : Rat) / 2
    if ty.isFloat then splatF ty x else splatF .f32 x

/-- Inline integer at a type (R96). -/
def immVal (ty : VTy) (v : BitVec 9) : DWord :=
  if ty.isFloat then splatF ty (v.toInt : Rat) else splat ty (wrapI ty.width v.toInt)

/-- Word `w` of lane `l` in an operand area: key 96w + l. -/
def areaVal (wide : Bool) (t : Tbl Word) (l : Nat) : DWord :=
  if wide then Tbl.read 0 t (96 + l) ++ Tbl.read 0 t l else (Tbl.read 0 t l).setWidth 64

/-- The operand area that replaces a latch operand on a replay (R314); positions 0, 1, 2 are A, B, C. -/
def Machine.Frag.replayArea (f : Frag) (pos : Nat) : Option (Tbl Word) :=
  match f.replay with
  | none => none
  | some r => match pos with
    | 0 => r.a
    | 1 => r.b
    | _ => r.c

/-- What a selector delivers in lane `l` at a type (R95). Of a latch that holds a pair, a 32-bit type takes the word of register D. -/
def selVal (w : Warp) (fid : Nat) (f : Frag) (ty : VTy) (pos : Nat) (s : Sel) (l : Nat) : DWord :=
  match s with
  | .vreg n => w.vval ty.isL n.toNat l
  | .latch k =>
    (match f.replayArea pos with
     | some t => areaVal ty.isL t l
     | none =>
       let v := Tbl.read 0 (f.latches.getD k.toNat []) l
       if ty.isL then v else (v.setWidth 32).setWidth 64)
  | .sreg n => w.sval ty.isL n.toNat
  | .special c => specialVal w fid ty l c.toNat
  | .imm v => immVal ty v

/-- A position of Table 04.16: one 32-bit integer whatever TY says (R97). -/
def selInt (w : Warp) (fid : Nat) (f : Frag) (pos : Nat) (s : Sel) (l : Nat) : Word :=
  match s with
  | .special c => BitVec.ofNat 32 (specialInt w fid l c.toNat)
  | .imm v => v.signExtend 32
  | s => (selVal w fid f .n32 pos s l).setWidth 32

/-- The pair a scalar-broadcast selector names. -/
def selPair (w : Warp) (s : Sel) : DWord :=
  match s with
  | .sreg n => w.spair n.toNat
  | _ => 0

/-- A uniform selector's value for the fragment (R181): lane-varying special sources are taken in the lowest active lane. -/
def selUniform (w : Warp) (fid : Nat) (f : Frag) (act : LaneMask) (s : Sel) : Word := selInt w fid f 0 s (lowLane act)

/-- First register above those a selector names when it reads `q` consecutive registers; 0 for other kinds. -/
def Sel.regsEnd (q : Nat) (s : Sel) : Nat :=
  match s with
  | .vreg n => n.toNat + q
  | _ => 0

/-- Latch number of a selector, 1 to 4; 0 for other kinds. -/
def Sel.latchNo (s : Sel) : Nat :=
  match s with
  | .latch k => k.toNat + 1
  | _ => 0

/-! ## Scalar operands (R110) -/

def SFmt.aReg (f : SFmt) : Nat :=
  match f.src with
  | .regs a _ _ => a.toNat
  | .imm a _ => a.toNat

def SFmt.bReg (f : SFmt) : Nat :=
  match f.src with
  | .regs _ b _ => b.toNat
  | .imm _ _ => 0

def SFmt.imm14 (f : SFmt) : BitVec 14 :=
  match f.src with
  | .regs _ _ i => i
  | .imm _ _ => 0

def SFmt.imm23 (f : SFmt) : BitVec 23 :=
  match f.src with
  | .regs _ _ _ => 0
  | .imm _ i => i

/-- op2 of R110. -/
def SFmt.op2 (f : SFmt) (w : Warp) : DWord :=
  match f.src with
  | .regs _ b _ => w.sval f.ty.wide b.toNat
  | .imm _ i => if f.ty.wide then i.signExtend 64 else (i.signExtend 32).setWidth 64

/-- Count operand of `vacq`, `vrel`, `wpin`, `wunpin`, `wpref`: s(A) as n32 or IMM23. -/
def SFmt.count (f : SFmt) (w : Warp) : Nat :=
  match f.src with
  | .regs a _ _ => (w.sreg a.toNat).toNat
  | .imm _ i => i.toNat

/-! ## Fields of an instruction -/

/-- OPC of a Decmen instruction. -/
def Instr.opc (i : Instr) : Nat :=
  match i.shape with
  | .c o _ _ | .cx o _ _ | .s o _ _ | .v o _ _ | .vm o _ _ => o.toNat
  | _ => 0

/-- LK. -/
def Instr.lk (i : Instr) : Bool :=
  match i.shape with
  | .c _ _ f => f.lk
  | .cx _ _ f => f.lk
  | .s _ _ f => f.lk
  | .v _ _ f => f.lk
  | .vm _ _ f => f.lk
  | _ => false

/-- The guard of a V, VM or E instruction. -/
def Instr.guard (i : Instr) : Option (BitVec 7) :=
  match i.shape with
  | .v _ _ f => f.guard
  | .vm _ _ f => f.guard
  | _ => none

def Instr.nw (i : Instr) : Bool :=
  match i.shape with
  | .v _ _ f => f.nw
  | _ => false

/-- Selectors in positions A, B, C. -/
def Instr.sels (i : Instr) : List Sel :=
  match i.shape with
  | .v _ _ f => [f.a, f.b, f.c]
  | .vm _ _ f => [f.a, .vreg 0, f.c]
  | _ => []

/-- The largest latch number an instruction names. -/
def Instr.maxLatch (i : Instr) : Nat := (i.sels.map Sel.latchNo).foldl max 0

/-- Latch classes of Table 01.2. -/
inductive LatchClass where
  | producing | neutral | barrier
  deriving DecidableEq, Repr

def latchClass (opc : Nat) : LatchClass :=
  if (0x40 ≤ opc && opc ≤ 0x46) || opc == 0x49 then .producing
  else if (0x02 ≤ opc && opc ≤ 0x08) || (0x10 ≤ opc && opc ≤ 0x12) || opc == 0x14 then .neutral
  else .barrier

/-- Instructions of R24 that end a reach whatever LK says. -/
def Instr.endsReach (i : Instr) : Bool :=
  match i with
  | .br _ | .brc _ | .brany _ | .brall _ | .iff _ | .els _ | .loop _ | .endloop _ | .call _ | .ret _ | .jmp _ | .jtab _ | .ctab _
  | .wait _ | .bar _ | .barcl _ | .bwait _ | .swait _ _ | .ralloc _ | .vacq _ | .trap _ | .brk _ | .yield _ | .exit _ => true
  | _ => false

/-- OPC 0xE0 and 0xE2, which trap PRIV at level U. -/
def isHandlerOpc (opc : Nat) : Bool := opc == 0xE0 || opc == 0xE2

/-- The OPC of R10, which trap UNAVAIL on a control core. -/
def isMainOnly (opc : Nat) : Bool := (0x80 ≤ opc && opc ≤ 0x85) || (0x90 ≤ opc && opc ≤ 0x92)

/-- Elements that a list form moves (R165). -/
def VMFmt.n (f : VMFmt) : Nat := f.imm8.toNat % 8 + 1

/-- Words of the per-lane address operand in A. -/
def VMFmt.aWords (f : VMFmt) : Nat := if f.sb == 0 then 2 else 1

/-- What an S-format instruction has in a register field: nothing, a register or a pair, or a triple. -/
inductive SUse where
  | none
  | regs (n : Nat)
  | triple
  deriving DecidableEq, Repr

/-- Words of a use. -/
def SUse.words : SUse → Nat
  | .none => 0
  | .regs n => n
  | .triple => 3

/-- Scalar registers that a use of field value `k` names, first and count. -/
def SUse.refs (u : SUse) (k : Nat) : List (Nat × Nat) :=
  match u with
  | .none => []
  | .regs n => [(k, n)]
  | .triple => [(3 * k, 3)]

/-- Words of the instruction's type. -/
def SFmt.n (f : SFmt) : Nat := if f.ty.wide then 2 else 1

/-- A field that names registers with I = 0 only. -/
def SFmt.ifRegs (f : SFmt) (n : Nat) : SUse :=
  match f.src with
  | .regs _ _ _ => .regs n
  | .imm _ _ => .none

/-- Uses of A, B and D of an S-format instruction (R110 to R119, R170 to R173, R182, R216, Table 05.4, Table 15.6). -/
def Instr.sUses (i : Instr) : Option (SFmt × SUse × SUse × SUse) :=
  match i with
  | .sadd f | .ssub f | .smul f | .smulh f | .sand f | .sor f | .sxor f | .sandn f | .sshl f | .sshr f | .ssar f | .smin f | .smax f
  | .sbfi f | .ssel f | .scmp _ f => some (f, .regs f.n, f.ifRegs f.n, .regs f.n)
  | .sfadd f | .sfsub f | .sfmul f | .sffma f | .sfmin f | .sfmax f => some (f, .regs 1, .regs 1, .regs 1)
  | .spopc f | .sclz f | .sctz f | .sbfe f | .sbrev f => some (f, .regs f.n, .none, .regs f.n)
  | .smov f => some (f, .none, f.ifRegs f.n, .regs f.n)
  | .scvt f => some (f, .regs (if f.z.toNat = 2 || f.z.toNat = 3 then 2 else 1), .none, .regs f.n)
  | .ldlit f => some (f, .none, .none, .regs f.n)
  | .mand f | .mor f | .mxor f | .mandn f => some (f, .triple, .triple, .triple)
  | .mnot f | .mmov f => some (f, .triple, .none, .triple)
  | .mpopc f | .mffs f => some (f, .triple, .none, .regs 1)
  | .mact f => some (f, .none, .none, .triple)
  | .pcrr f | .hcrr f => some (f, .none, .none, .regs 1)
  | .pcrw f | .hcrw f | .fkill f | .fpark f => some (f, .regs 1, .none, .none)
  | .vacq f | .vrel f | .tcfg f | .wpref f => some (f, f.ifRegs 1, .none, .none)
  | .wpin f | .wunpin f => some (f, f.ifRegs 1, .none, .regs 1)
  | .call f => some (f, f.ifRegs 2, .none, .regs 2)
  | .ret f => some (f, .regs 2, .none, .none)
  | .jmp f => some (f, f.ifRegs 2, .none, .none)
  | .sld f => some (f, .regs 2, f.ifRegs 1, .regs (if f.z.toNat = 5 then 2 else 1))
  | .sst f => some (f, .regs 2, f.ifRegs 1, .regs (if f.z.toNat = 3 then 2 else 1))
  | .satom _ f => some (f, .regs 2, .regs f.n, .regs f.n)
  | .fence _ f => some (f, .none, .none, .none)
  | .swait _ f => some (f, .regs 2, .regs f.n, .regs f.n)
  | .tlock f | .tunlock f => some (f, .regs 2, .regs 2, .regs 1)
  | .fmask f => some (f, .regs 1, .none, .triple)
  | .fstate f => some (f, .regs 1, .none, .regs 1)
  | .fresReplay f | .fresComplete f => some (f, .regs 1, if f.z.toNat / 2 % 2 = 1 then .triple else .none, .none)
  | _ => none

/-- n of R305: the largest count of 32-bit words that one lane holds in any operand or the result. -/
def Instr.words (i : Instr) : Nat :=
  match i with
  | .vld fn f => max fn.regs f.aWords
  | .vst fn f => max fn.regs f.aWords
  | .vgld fn f => f.n * fn.regs
  | .vgst fn f => f.n * fn.regs
  | .vgldl _ _ | .rtrace _ | .rresume _ | .ncall _ | .ttov _ | .ctov _ => 8
  | .vatom _ f => max (if f.ty.isL then 2 else 1) f.aWords
  | .vpref _ f => f.aWords
  | .vtot f => f.y.toNat % 64 + 1
  | .ralloc _ | .rcommit _ | .rfree _ | .pzt _ | .pwr _ | .pdone _ | .pload _ | .xbuild _ | .tld _ | .tst _ | .vmxs _ => 2
  | .ctab _ => 2
  | .vcvt f => if f.ty.isL || (match f.srcTy with | some t => t.isL | none => false) then 2 else 1
  | i => match i.sUses, i.shape with
    | some (_, a, b, d), _ => max (max a.words b.words) d.words
    | none, .v _ _ f => if f.ty.isL then 2 else 1
    | none, _ => 1

/-- FW (R305). -/
def Instr.fw (i : Instr) : Nat := if i.words ≤ 1 then 1 else if i.words = 2 then 2 else 4

/-- Operand positions that a V, VM or E instruction reads: an unused selector is 0x000, so a position is read when it is anything
else or when the instruction's class always reads it. -/
def Instr.readsSel (i : Instr) : Bool × Bool × Bool :=
  match i with
  | .vadd _ | .vsub _ | .vmul _ | .vmulh _ | .vmin _ | .vmax _ | .vand _ | .vor _ | .vxor _ | .vandn _ | .vshl _ | .vshr _ | .vsar _
  | .vbfe _ | .vsel _ | .vcmp _ _ | .vldexp _ | .vpack _ | .vrot _ | .vbfly _ | .tld _ | .tst _ | .vtot _ | .ncall _ => (true, true, false)
  | .vmad _ | .vfma _ | .vlut3 _ | .vfshl _ | .vfshr _ | .vbfi _ | .vdot2 _ | .vdot4 _ | .vshfl _ | .vbcast _ | .vedge _ | .vmad24 _
  | .vsad4 _ | .rtrace _ | .binit _ => (true, true, true)
  | .vabs _ | .vneg _ | .vnot _ | .vpopc _ | .vclz _ | .vctz _ | .vbrev _ | .vmov _ | .vrcp _ | .vrsq _ | .vsqrt _ | .vfloor _
  | .vceil _ | .vtrunc _ | .vrint _ | .vfract _ | .vclass _ | .vgetexp _ | .vgetman _ | .vprof _ _ | .vcvt _ | .vmxs _ | .vunpack _
  | .vballot _ | .vred _ | .vscan _ | .vnzs _ | .vmatch _ | .pload _ | .xcopy _ | .xbuild _ | .btest _ | .rcommit _ | .rfree _
  | .vld _ _ | .vgld _ _ | .vpref _ _ => (true, false, false)
  | .barr _ | .bexp _ | .bwait _ | .pzt _ | .pwr _ => (true, true, false)
  | .vst _ _ | .vgst _ _ | .vatom _ _ | .vgldl _ _ => (true, false, true)
  | .ttov _ | .ctov _ | .ralloc _ | .pdone _ => (false, true, false)
  | .rresume _ => (false, false, true)
  | .cst f => (true, true, f.y.toNat / 64 % 2 == 1)
  | .cld _ => (true, true, false)
  | _ => (false, false, false)

/-- The type at which a position is read, for the words a trap frame records. -/
def Instr.selTy (i : Instr) (pos : Nat) : VTy :=
  match i with
  | .vcvt f | .vpack f | .vunpack f => (f.srcTy).getD .b32
  | .vmxs _ => .f32
  | .vdot2 f | .vdot4 f => if pos = 2 then (if f.ty.isFloat then .f32 else .s32) else f.ty
  | .pzt f | .pwr f => if pos = 1 then .n64 else f.ty
  | .pdone _ => .n64
  | .pload _ | .xbuild _ => .n64
  | .tld _ | .tst _ => if pos = 0 then .n64 else .s32
  | .rcommit _ | .rfree _ => .n64
  | .vld _ f | .vpref _ f => if f.sb == 0 then .n64 else .s32
  | .vst fn f => if pos = 0 then (if f.sb == 0 then .n64 else .s32) else (if fn.regs = 2 then .n64 else .s32)
  | .vatom _ f => if pos = 0 then (if f.sb == 0 then .n64 else .s32) else f.ty
  | i => match i.shape with
    | .v _ _ f => f.ty
    | .vm _ _ _ => .s32
    | _ => .s32

/-- Registers that a vector selector in a position reads per lane (1 or more), for areas of up to four words. -/
def Instr.selRegs (i : Instr) (pos : Nat) : Nat :=
  match i, pos with
  | .vgld _ f, 0 => f.n
  | .vgst _ f, 0 => f.n
  | .vgst fn f, 2 => f.n * fn.regs
  | .vst fn _, 2 => fn.regs
  | .rtrace _, 0 => 8
  | .ncall _, 0 => 1
  | .vtot f, 0 => f.y.toNat % 64 + 1
  | i, pos => if (i.selTy pos).isL then 2 else 1

/-- Whether a position is one of Table 04.16 (R97). -/
def Instr.selIsInt (i : Instr) (pos : Nat) : Bool :=
  match i with
  | .vshfl _ | .vbcast _ | .vrot _ | .vbfly _ => pos == 1
  | .vgldl _ _ | .xcopy _ | .binit _ | .barr _ | .bexp _ | .bwait _ | .btest _ | .rresume _ | .ttov _ | .ctov _ | .ralloc _ => true
  | .vtot _ | .ncall _ | .tld _ | .tst _ => pos == 1
  | .cst _ | .cld _ => pos != 1
  | .rtrace _ => pos != 0
  | .vld _ f | .vgld _ f | .vst _ f | .vgst _ f | .vpref _ f | .vatom _ f => pos == 0 && f.sb != 0
  | _ => false

end Sys2Proof
end

