-- ==== Sys2Proof/Machine/Ops.lean ====
section
/-! DEFINITION. The named operations over the state: tables of the device, address paths and translation (R56, R321 to R336),
reads and writes, event logs, trap frames and taking a park (R304 to R310, R375), splits (R18, R19), joins (R20, R21), the end of
fragments and warps (R12, R122, R184, R266, R275), resuming (R313, R314), and the issue and retirement every instruction shares
(R13, R14, R23 to R28, R98). -/

namespace Sys2Proof

open Machine

/-! ## The parts of the device -/

/-- No wait. -/
def Machine.WaitData.empty : WaitData :=
  { order := 0, left := none, last := none, again := 0, arg := 0, ids := [], done := 0, faults := [], got := [], rest := [],
    pend := none, slotless := false }

/-- Half of a core: main-array cores 0 to 95 are 8 to a cluster and 6 clusters to a half; control cores are 16 to a half. -/
def halfOf (ctl : Bool) (core : Nat) : Nat := if ctl then core / 16 else core / 48

def clusterOf (core : Nat) : Nat := core / 8

def clkNat (s : State) : Nat := s.clock.clk.toNat

/-- Put a warp back. -/
def putWarp (s : State) (wid : Nat) (w : Warp) : State := { s with warps := Tbl.put s.warps wid w }

def modWarp (s : State) (wid : Nat) (g : Warp → Warp) : State := { s with warps := Tbl.modify s.warps wid g }

def modFrag (s : State) (wid fid : Nat) (g : Frag → Frag) : State :=
  modWarp s wid fun w => { w with frags := Tbl.modify w.frags fid g }

def modCtx (s : State) (c : Nat) (g : Ctx → Ctx) : State := { s with ctxs := Tbl.modify s.ctxs c g }

def modWg (s : State) (k : Nat) (g : Wg → Wg) : State := { s with wgs := Tbl.modify s.wgs k g }

def modLaunch (s : State) (k : Nat) (g : Launch → Launch) : State := { s with launches := Tbl.modify s.launches k g }

def modBoard (s : State) (g : Board → Board) : State := { s with board := g s.board }

def modNet (s : State) (g : Net → Net) : State := { s with net := g s.net }

def findFrag (s : State) (wid fid : Nat) : Option (Warp × Frag) :=
  (Tbl.find s.warps wid).bind fun w => (Tbl.find w.frags fid).map fun f => (w, f)

/-- A fresh identity, and the counter moved on. -/
def fresh (s : State) : Nat × State := (s.freshId, { s with freshId := s.freshId + 1 })

/-! ## Budgets and halts -/

/-- Budget index of a class; H is charged to none (R377). -/
def Machine.Cls.index : Cls → Nat
  | .d => 0
  | .v => 1
  | .g => 2
  | .l => 3
  | .b => 4
  | .h => 5

/-- Budget period of the current CLK (R292). -/
def eraNow (s : State) : Nat := clkNat s / 2100000

/-- Charge a budget counter of a context and class, to be collected later (R292, R293). Counters: 0 CORE, 1 COPY, 2 MBU, 3 ROWS, 4 STEPS.
A charge counts in the period in which it is incurred, so one that comes before the counters have passed a boundary is kept for them. -/
def chargeBudget (s : State) (ctx : Nat) (cls : Cls) (counter n : Nat) : State :=
  let k := 8 * cls.index + counter
  if cls == .h || n = 0 then s
  else modCtx s ctx fun c =>
    if eraNow s ≤ s.period then { c with charged := Tbl.write 0 c.charged k (Tbl.read 0 c.charged k + n) }
    else
      let t := if c.later.1 = eraNow s then c.later.2 else []
      { c with later := (eraNow s, Tbl.write 0 t k (Tbl.read 0 t k + n)) }

/-- Limit of a budget counter is spent (R293); 0xFFFF_FFFF is unlimited. Past a boundary every counter is 0 (R292). -/
def budgetSpent (s : State) (ctx : Nat) (cls : Cls) (counter : Nat) : Bool :=
  match Tbl.find s.ctxs ctx with
  | none => false
  | some c =>
    let k := 8 * cls.index + counter
    let lim := Tbl.read 0 c.desc.budget k
    cls != .h && lim != 0xFFFFFFFF && decide (lim ≤ if eraNow s ≤ s.period then Tbl.read 0 c.spent k else 0)

/-- A context's halt line has risen and the skid of a unit is over (R319, Table 15.8): it does no more of the context's work. -/
def ctxHalted (s : State) (c skid : Nat) : Bool :=
  match (Tbl.find s.ctxs c).bind (·.halted) with
  | some h => decide (h.2.2.2 + skid < clkNat s)
  | none => false

/-! ## Event logs (R355, R382) -/

/-- An event added to a log; a full log drops it and counts it. -/
def Machine.EvLog.push (l : EvLog) (e : Event) : EvLog :=
  if l.events.length < Config.logCapacity then { l with events := l.events ++ [e] } else { l with dropped := l.dropped + 1 }

/-- A vector raised (R355). -/
def raiseVec (s : State) (v : Nat) : State := modBoard s fun b => { b with msix := b.msix ++ [v] }

/-- Vector 16 when a log goes from empty to non-empty. -/
def logVec (s : State) (was now : EvLog) : State := if was.events.isEmpty && !now.events.isEmpty then raiseVec s 16 else s

/-- An event of a context (R311, R382). -/
def ctxEvent (s : State) (c : Nat) (e : Event) : State :=
  match Tbl.find s.ctxs c with
  | none => s
  | some x =>
    let l := x.log.push e
    logVec { s with ctxs := Tbl.put s.ctxs c { x with log := l, events := x.events + 1 } } x.log l

/-- An event of the device. -/
def devEvent (s : State) (e : Event) : State :=
  let l := s.board.log.push e
  logVec (modBoard s fun b => { b with log := l }) s.board.log l

/-- Signal bits set in every service core (Table 17.2). -/
def setSig (s : State) (bit : Nat) : State :=
  { s with ph := Tbl.mapVals s.ph fun _ c => { c with sig := c.sig ||| BitVec.ofNat 64 (2 ^ bit) } }

/-! ## Translation (R321 to R323) -/

/-- A table entry read at a physical address. -/
def tableEntry (s : State) (pa : Nat) : DWord := BitVec.ofNat 64 (Memory.le s.hbm pa 8)

/-- Index of a level and log2 of the page of a leaf there. -/
def levelShift (lvl : Nat) : Nat :=
  match lvl with
  | 0 => 39
  | 1 => 30
  | 2 => 21
  | _ => 16

def levelBits (lvl : Nat) : Nat :=
  match lvl with
  | 0 => 18
  | 1 | 2 => 9
  | _ => 5

/-- log2 of the alignment of the table that a level's pointer names. -/
def tableAlign (lvl : Nat) : Nat :=
  match lvl with
  | 0 | 1 => 12
  | _ => 8

/-- The walk from a level down (R323): the leaf found and its page size as a power of two. -/
def walkTables (s : State) (va : Nat) : Nat → Nat → Nat → Option (DWord × Nat)
  | 0, _, _ => none
  | fuel + 1, lvl, base =>
    let e := tableEntry s (base + 8 * (va / 2 ^ levelShift lvl % 2 ^ levelBits lvl))
    let addr := e.toNat / 256 % 2 ^ 40 * 256
    if !e.getLsbD 0 || (e.toNat / 2 ^ 48 != 0) then none
    else if e.getLsbD 1 then
      if lvl = 0 || addr % 2 ^ levelShift lvl != 0 then none else some (e, levelShift lvl)
    else
      if lvl = 3 || (e.toNat / 4 % 64 != 0) || addr % 2 ^ tableAlign lvl != 0 then none
      else walkTables s va fuel (lvl + 1) addr

/-- The leaf of a 57-bit virtual offset in a context's tables. -/
def leafOf (s : State) (ctx va : Nat) : Option (DWord × Nat) :=
  (Tbl.find s.ctxs ctx).bind fun c => walkTables s va 4 0 c.desc.ptroot

/-- Rights of a leaf for an access (Table 16.3); `cv` is the compressed view, `peer` an inbound access. -/
def rightsOk (e : DWord) (k : Kind) (cv peer : Bool) : Bool :=
  (e.getLsbD 7 == cv) && (!peer || e.getLsbD 6) &&
  match k with
  | .ld => e.getLsbD 2
  | .st => e.getLsbD 3
  | .at => e.getLsbD 2 && e.getLsbD 3
  | .ex => e.getLsbD 4

/-- Physical address of a virtual offset, or PAGE, or PROT (R323). -/
def translate (s : State) (ctx va : Nat) (k : Kind) (cv peer : Bool) : Except Cause Nat :=
  match leafOf s ctx va with
  | none => .error .page
  | some (e, sh) =>
    if rightsOk e k cv peer then .ok (e.toNat / 2 ^ sh % 2 ^ (48 - sh) * 2 ^ sh + va % 2 ^ sh) else .error .prot

/-! ## Address paths (R56, R57, Table 02.10) -/

/-- Who makes an access: a context, and the workgroup whose scratchpad path 0x2 names. -/
structure Who where
  ctx : Nat
  wg  : Option Nat
  deriving DecidableEq, Repr

/-- Where an access lands. -/
inductive Loc where
  | hbm (pa : Nat)
  | scratch (wg off : Nat)
  | weights (off : Nat)
  | host (addr : Nat)
  | peer (dev off : Nat)
  deriving DecidableEq, Repr

def pathOf (a : DWord) : Nat := a.toNat / 2 ^ 60

def offOf (a : DWord) : Nat := a.toNat % 2 ^ 57

/-- The check of R56: PATH, or WSWR for a store or atomic on path 0x3. -/
def pathCheck (a : DWord) (k : Kind) : Option Cause :=
  let p := pathOf a
  let o := offOf a
  if 8 ≤ p || a.toNat / 2 ^ 57 % 8 != 0 then some .path
  else if p = 2 && 2 ^ 19 ≤ o then some .path
  else if p = 3 && 2 ^ 30 ≤ o then some .path
  else if p = 4 && 144 ≤ o / 2 ^ 48 then some .path
  else if p = 3 && (k = .st || k = .at) then some .wswr
  else none

/-- A path-0x3 offset lies in the context's grant (R283). -/
def inGrant (d : CtxDesc) (o : Nat) : Bool :=
  let u := o / 65536 % 8192
  if o / 2 ^ 29 % 2 = 0 then decide (d.wsbase0 ≤ u) && decide (u < d.wsbase0 + d.wslen0)
  else decide (d.wsbase1 ≤ u) && decide (u < d.wsbase1 + d.wslen1)

/-- `n` bytes at a host bus address lie in the context's window (R283). -/
def inWindow (d : CtxDesc) (o n : Nat) : Bool := decide (d.hostbase ≤ o) && decide (o + n ≤ d.hostbase + d.hostlen)

def scratchBytes (s : State) (wg : Option Nat) : Nat :=
  match wg.bind (Tbl.find s.wgs) with
  | some g => 128 * g.lines
  | none => 0

/-- What stands for the page of an offset in the locked regions of a workgroup (R173, R328). -/
def lockStates (s : State) (wg : Option Nat) (o : Nat) : List LockSt :=
  match wg.bind (Tbl.find s.wgs) with
  | none => []
  | some g => g.locks.flatMap fun r =>
      r.pages.filterMap fun q => if q.1 ≤ o && o < q.1 + q.2.1 then some q.2.2 else none

/-- Step 5 of R160 for one aligned access of `n` bytes whose address has passed R56. -/
def resolve (s : State) (who : Who) (a : DWord) (n : Nat) (k : Kind) : Except Cause Loc :=
  let o := offOf a
  match pathOf a with
  -- a locked entry that a change of mapping made invalid faults PAGE (R330)
  | 0 | 1 => if (lockStates s who.wg o).contains .invalid then .error .page else (translate s who.ctx o k false false).map .hbm
  | 2 =>
    if k = .ex || scratchBytes s who.wg < o + n then .error .prot else .ok (.scratch (who.wg.getD 0) o)
  | 3 =>
    (match Tbl.find s.ctxs who.ctx with
     | some c => if k = .ld && inGrant c.desc o then .ok (.weights o) else .error .prot
     | none => .error .prot)
  | 4 => .ok (.peer (o / 2 ^ 48) (o % 2 ^ 48))
  | 5 =>
    (match Tbl.find s.ctxs who.ctx with
     | some c => if k != .at && k != .ex && inWindow c.desc o n then .ok (.host o) else .error .prot
     | none => .error .prot)
  | 6 =>
    if k = .at then .error .prot
    else if (lockStates s who.wg o).contains .invalid then .error .page
    else (translate s who.ctx o k true false).map .hbm
  | _ => if k = .ld then (translate s who.ctx o .ex false false).map .hbm else .error .prot

/-! ## Reads and writes -/

def Loc.plus (l : Loc) (k : Nat) : Loc :=
  match l with
  | .hbm pa => .hbm (pa + k)
  | .scratch g o => .scratch g (o + k)
  | .weights o => .weights (o + k)
  | .host a => .host (a + k)
  | .peer d o => .peer d (o + k)

def readLoc (s : State) (l : Loc) (n : Nat) : List Byte :=
  match l with
  | .hbm pa => Memory.bytes s.hbm pa n
  | .scratch g o => (match Tbl.find s.wgs g with | some x => Memory.bytes x.scratch o n | none => List.replicate n 0)
  | .weights o => Memory.bytes s.wstore o n
  | .host a => Memory.bytes s.host a n
  | .peer _ _ => List.replicate n 0

/-- Cells whose signatures stand and whose colour bytes a write meets (R276). -/
def sigsMet (s : State) (pa n : Nat) : List (Nat × Nat × Word × List Nat) :=
  s.sigs.filter fun p => p.2.2.2.any fun l => decide (l < pa + n) && decide (pa < l + 128)

/-- Clear VALID of signature entries that still are what the L2 wrote. -/
def clearSigs (m : Memory) : List (Nat × Nat × Word × List Nat) → Memory
  | [] => m
  | (_, q, crc, _) :: t =>
    clearSigs (if Memory.le m q 8 = crc.toNat + 2 ^ 32 then Memory.store m (q + 4) (Memory.byte m (q + 4) &&& 0xFE) else m) t

/-! ### Old values that a reader may still return (R59, R176, R221, R230, R233; log 66) -/

/-- Keys in `State.olds` of the aligned words that `n` bytes at a place meet: words of HBM, then words of the scratchpads. -/
def wordKeys (l : Loc) (n : Nat) : List Nat :=
  let run (b o : Nat) : List Nat := if n = 0 then [] else (List.range ((o + n - 1) / 4 + 1 - o / 4)).map fun i => b + (o / 4 + i)
  match l with
  | .hbm pa => run 0 pa
  | .scratch g o => run (2 ^ 64 * (g + 1)) o
  | _ => []

/-- The word of a key. -/
def keyWord (s : State) (k : Nat) : Word :=
  if k < 2 ^ 64 then BitVec.ofNat 32 (Memory.le s.hbm (4 * k) 4)
  else match Tbl.find s.wgs (k / 2 ^ 64 - 1) with
    | some g => BitVec.ofNat 32 (Memory.le g.scratch (4 * (k % 2 ^ 64)) 4)
    | none => 0

/-- Words are about to be written: what they hold is remembered, with the number that the next identity will have. -/
def noteKeys (s : State) (ks : List Nat) : State :=
  { s with olds := ks.foldl (fun t k => Tbl.put t k ((s.freshId, keyWord s k) :: (Tbl.find t k).getD [])) s.olds }

def noteOld (s : State) (l : Loc) (n : Nat) : State := noteKeys s (wordKeys l n)

/-- The number after which a launch runs: its own, or that of its graph launch. -/
def launchStart (s : State) (lid : Nat) : Nat := ((Tbl.find s.launches lid).bind (·.graph)).getD lid

/-- A word as a reader returns it that a write since `start` need not have reached: the value now, or any that a write since then has
replaced; which is free. `salt` tells readers of one moment apart. -/
def agedWord (s : State) (start salt k : Nat) : Word :=
  let old := (((Tbl.find s.olds k).getD []).filter fun p => decide (start < p.1)).map (·.2)
  (keyWord s k :: old).getD (Config.oldOrNew s.freeCtr (clkNat s) salt k % (old.length + 1)) 0

/-- One byte so read. -/
def agedByte (s : State) (start salt : Nat) (l : Loc) : Byte :=
  let at' (k o : Nat) : Byte := BitVec.ofNat 8 ((agedWord s start salt k).toNat / 2 ^ (8 * (o % 4)))
  match l, wordKeys l 1 with
  | .hbm pa, k :: _ => at' k pa
  | .scratch _ o, k :: _ => at' k o
  | l, _ => (readLoc s l 1).headD 0

/-- Bytes so read; nothing is old where nothing has been written. -/
def agedLoc (s : State) (start salt : Nat) (l : Loc) (n : Nat) : List Byte :=
  if s.olds.isEmpty then readLoc s l n else (List.range n).map fun i => agedByte s start salt (l.plus i)

/-- Bytes stored in HBM by anything but the blend unit: the signatures of the cells they meet no longer stand. -/
def putHbm (s : State) (pa : Nat) (bs : List Byte) : State :=
  let met := sigsMet s pa bs.length
  if met.isEmpty then { s with hbm := Memory.stores s.hbm pa bs }
  else { s with hbm := clearSigs (Memory.stores s.hbm pa bs) met, sigs := Tbl.keep s.sigs fun k _ => !(met.any fun p => p.1 == k) }

/-- The same, the old values remembered. -/
def storeHbm (s : State) (pa : Nat) (bs : List Byte) : State := putHbm (noteOld s (.hbm pa) bs.length) pa bs

/-- Store bytes at a place. -/
def putLoc (s : State) (l : Loc) (bs : List Byte) : State :=
  match l with
  | .hbm pa => putHbm s pa bs
  | .scratch g o => modWg s g fun x => { x with scratch := Memory.stores x.scratch o bs }
  | .weights o => { s with wstore := Memory.stores s.wstore o bs }
  | .host a => { s with host := Memory.stores s.host a bs }
  | .peer _ _ => s

/-- A write to a place. -/
def writeLoc (s : State) (l : Loc) (bs : List Byte) : State := putLoc (noteOld s l bs.length) l bs

/-- Bytes at an address of a context, each 4-byte word checked by itself: the bytes, or the first fault and its address. -/
def readVirt (s : State) (who : Who) : DWord → Nat → Except (Cause × DWord) (List Byte)
  | _, 0 => .ok []
  | a, n + 1 =>
    match pathCheck a .ld with
    | some c => .error (c, a)
    | none =>
      match resolve s who a 1 .ld with
      | .error c => .error (c, a)
      | .ok l =>
        match readVirt s who (a + 1) n with
        | .error e => .error e
        | .ok bs => .ok (readLoc s l 1 ++ bs)

/-- Bytes fetched for a warp with the execute right; a word written while its launch runs is old or new (R59). -/
def readCode (s : State) (w : Warp) : DWord → Nat → Except (Cause × DWord) (List Byte)
  | _, 0 => .ok []
  | a, n + 1 =>
    if a.toNat / 2 ^ 57 != 0 then .error (.path, a)
    else match translate s w.ctx (offOf a) .ex false false with
      | .error c => .error (c, a)
      | .ok pa =>
        match readCode s w (a + 1) n with
        | .error e => .error e
        | .ok bs => .ok (agedLoc s (launchStart s w.launch) 0 (.hbm pa) 1 ++ bs)

/-- One 4-byte granule at an address. -/
def readGranule (s : State) (w : Warp) (a : DWord) : Except (Cause × DWord) Word :=
  (readCode s w a 4).map fun bs => BitVec.ofNat 32 (leNat bs)

/-- Places of `n` consecutive bytes for a store. -/
def storeLocs (s : State) (who : Who) : DWord → Nat → Except (Cause × DWord) (List Loc)
  | _, 0 => .ok []
  | a, n + 1 =>
    match pathCheck a .st with
    | some c => .error (c, a)
    | none =>
      match resolve s who a 1 .st with
      | .error c => .error (c, a)
      | .ok l =>
        match storeLocs s who (a + 1) n with
        | .error e => .error e
        | .ok ls => .ok (l :: ls)

/-- Keys of the words that bytes at places meet, a word met by neighbours once. -/
def runKeys : List Loc → List Nat
  | [] => []
  | l :: ls => match wordKeys l 1, runKeys ls with
    | k :: _, j :: js => if k = j then j :: js else k :: j :: js
    | ks, js => ks ++ js

def putLocs (s : State) : List Loc → List Byte → State
  | l :: ls, b :: bs => putLocs (putLoc s l [b]) ls bs
  | _, _ => s

/-- One write of bytes at places. -/
def writeLocs (s : State) (ls : List Loc) (bs : List Byte) : State := putLocs (noteKeys s (runKeys ls)) ls bs

/-- Store bytes at an address of a context; nothing is written when any byte fails. -/
def writeVirt (s : State) (who : Who) (a : DWord) (bs : List Byte) : Except (Cause × DWord) State :=
  (storeLocs s who a bs.length).map fun ls => writeLocs s ls bs

/-! ## Scratchpad presence (R174) -/

/-- Some byte of a range lies in an absent line. -/
def absentAt (s : State) (wg off n : Nat) : Bool :=
  match Tbl.find s.wgs wg with
  | none => false
  | some g => (List.range ((off + n - 1) / 128 - off / 128 + 1)).any fun i => (Tbl.find g.absent (off / 128 + i)).isSome

/-- An address of path 0x2 that touches an absent line. -/
def absentAddr (s : State) (wg : Nat) (a : DWord) (n : Nat) : Bool := pathOf a == 2 && n != 0 && absentAt s wg (offOf a) n

/-- Hold lines off for one more copy. -/
def holdLines (s : State) (wg : Nat) (ls : List Nat) : State :=
  modWg s wg fun g => { g with absent := ls.foldl (fun t l => Tbl.put t l ((Tbl.find t l).getD 0 + 1)) g.absent }

/-- Let lines go; a line with no copy left is present (R174). -/
def freeLines (s : State) (wg : Nat) (ls : List Nat) : State :=
  modWg s wg fun g =>
    { g with absent := ls.foldl (fun t l => if (Tbl.find t l).getD 0 ≤ 1 then Tbl.del t l else Tbl.put t l ((Tbl.find t l).getD 0 - 1)) g.absent }

/-! ## Tokens (R29) -/

def Machine.Warp.tokBusy (w : Warp) (k : Nat) : Bool := Tbl.read 0 w.tokens k != 0

def Machine.Warp.tokAdd (w : Warp) (k : Nat) : Warp := { w with tokens := Tbl.write 0 w.tokens k (Tbl.read 0 w.tokens k + 1) }

def Machine.Warp.tokDone (w : Warp) (k : Nat) : Warp := { w with tokens := Tbl.write 0 w.tokens k (Tbl.read 0 w.tokens k - 1) }

/-- Busy tokens of a mask. -/
def Machine.Warp.busyOf (w : Warp) (mask : BitVec 16) : BitVec 16 :=
  (List.range 16).foldl (fun m k => if mask.getLsbD k && w.tokBusy k then m ||| BitVec.ofNat 16 (2 ^ k) else m) 0

/-- Fragments that stall in a `wait` on tokens that are free now are ready. -/
def wakeTokens (s : State) (wid : Nat) : State :=
  modWarp s wid fun w =>
    { w with frags := Tbl.mapVals w.frags fun _ f =>
        if f.st == .stalled && f.wkind == .wait && w.busyOf f.tokw = 0 then { f with st := .ready, wkind := .none, tokw := 0 } else f }

/-- The token that a `vgldl` keeps busy between its steps is let go: it ends, parks or is killed (R29, R136). -/
def dropHold (s : State) (wid fid : Nat) : State :=
  match (findFrag s wid fid).bind fun p => p.2.tokHeld with
  | some k => wakeTokens (modFrag (modWarp s wid fun w => w.tokDone k) wid fid fun f => { f with tokHeld := none }) wid
  | none => s

/-! ## Scoreboard (R30, R187) -/

def Machine.Warp.vPending (w : Warp) (r l : Nat) : Bool := w.access.any fun p => (Tbl.find p.2.vdst (vkey r l)).isSome

def Machine.Warp.sPending (w : Warp) (n : Nat) : Bool := w.access.any fun p => (Tbl.find p.2.sdst n).isSome

/-- Registers `r` to `r + q − 1` have a write pending in one of these lanes. -/
def Machine.Warp.vBusy (w : Warp) (lanes : List Nat) (r q : Nat) : Bool :=
  !w.access.isEmpty && (List.range q).any fun j => lanes.any fun l => w.vPending (r + j) l

/-! ## Trap causes (Table 15.1) -/

def Machine.Cause.code : Cause → Nat
  | .none => 0
  | .ill => 1
  | .priv => 2
  | .nest => 3
  | .page => 4
  | .prot => 5
  | .lockmiss => 6
  | .align => 7
  | .path => 8
  | .disp => 0x0A
  | .land => 0x0B
  | .lazy => 0x0C
  | .mpart => 0x0D
  | .tile => 0x0E
  | .accx => 0x0F
  | .regx => 0x10
  | .fragx => 0x11
  | .peer => 0x12
  | .wswr => 0x13
  | .barto => 0x14
  | .timer => 0x15
  | .brk => 0x16
  | .trap => 0x17
  | .unavail => 0x18
  | .ray => 0x19
  | .ecc => 0x1A

def Machine.FragSt.code : FragSt → Nat
  | .running => 1
  | .ready => 2
  | .held => 3
  | .parked => 4
  | .waiting => 5
  | .stalled => 6

def Machine.WKind.code : WKind → Nat
  | .none | .peer => 0
  | .swait => 1
  | .bwait => 2
  | .ralloc => 3
  | .vacq => 4
  | .line => 5
  | .bar => 6
  | .barcl => 7
  | .frames => 8
  | .copySlots => 9
  | .buildQueue => 10
  | .walkRoom => 11
  | .hcrr => 12
  | .wait => 13
  | .walks => 14

/-- Word `i` of a fragment-table entry (Table 15.3). -/
def entryWord (w : Warp) (fid : Nat) (f : Frag) (i : Nat) : Word :=
  let parked := f.st = .parked
  match i with
  | 0 => BitVec.ofNat 32 (f.st.code * 2 ^ 28 + (if parked then f.cause.code * 65536 + f.sub.toNat else 0))
  | 1 => BitVec.ofNat 32 (f.s.toNat * 2 ^ 24 + f.j.toNat * 65536 + (Tbl.read 0 w.gens fid).toNat * 512 + f.fw * 8 + fid)
  | 2 => f.pc.setWidth 32
  | 3 => f.pc.extractLsb' 32 32
  | 4 => f.pidx
  | 5 => f.tokw.setWidth 32
  | 6 => f.frame.setWidth 32
  | 7 => f.frame.extractLsb' 32 32
  | 8 => maskWord f.lanes 0
  | 9 => maskWord f.lanes 1
  | 10 => maskWord f.lanes 2
  | 11 => BitVec.ofNat 32 (f.wkind.code * 2 ^ 28 + f.warg.toNat)
  | _ => 0

/-- A fragment handle (R312). -/
def handleOf (w : Warp) (fid : Nat) : Word :=
  BitVec.ofNat 32 (2 ^ 31 + (Tbl.read 0 w.gens fid).toNat * 2 ^ 24 + w.warpId.toNat * 16 + fid)

/-! ## Trap frames (R305 to R307) -/

def Machine.OpRec.none : OpRec := { valid := false, lat := false, words := [] }

/-- Weight set of a handle of a warp's launch. -/
def wsetOf (s : State) (launch h : Nat) : Option WSet := (Tbl.find s.launches launch).bind fun L => L.wsets[h]?

/-- Registers that a selector in a position reads per lane; those of an `ncall`'s inputs are its weight set's (R210). -/
def regsRead (s : State) (i : Instr) (w : Warp) (fid : Nat) (f : Frag) (pos : Nat) : Nat :=
  match i, pos with
  | .ncall t, 0 => (match wsetOf s w.launch (selInt w fid f 1 t.b (lowLane (w.act f t.guard))).toNat with
    | some ws => (ws.nin + 1) / 2
    | none => 1)
  | i, pos => i.selRegs pos

/-- What an operand area records: word `j` of each lane at key 96j + l. -/
def recordSel (s0 : State) (i : Instr) (w : Warp) (fid : Nat) (f : Frag) (lanes : LaneMask) (pos : Nat) (s : Sel) : OpRec :=
  let isLatch := decide (s.latchNo ≠ 0)
  if isLatch && (f.replayArea pos).isNone && decide (f.latches.length < s.latchNo) then .none else
  let vals : List (Nat × Word) := (lanesOf lanes).flatMap fun l =>
    match s with
    | .vreg n => (List.range (min 4 (regsRead s0 i w fid f pos))).map fun j => (96 * j + l, w.vreg (n.toNat + j) l)
    | s =>
      if i.selIsInt pos then [(l, selInt w fid f pos s l)]
      else
        let v := selVal w fid f (i.selTy pos) pos s l
        if (i.selTy pos).isL then [(l, v.setWidth 32), (96 + l, v.extractLsb' 32 32)] else [(l, v.setWidth 32)]
  { valid := true, lat := isLatch, words := vals.foldl (fun t p => Tbl.write 0 t p.1 p.2) [] }

/-- A scalar operand in the lane-0 words; a field that the instruction does not read leaves its area clear. -/
def recordUse (w : Warp) (u : SUse) (k : Nat) : OpRec :=
  match u.refs k with
  | [] => .none
  | q :: _ => { valid := true, lat := false, words := (List.range q.2).foldl (fun t j => Tbl.write 0 t (96 * j) (w.sreg (q.1 + j))) [] }

/-- Areas A, B, C of an instruction at a fault. -/
def recordOps (s : State) (i : Instr) (w : Warp) (fid : Nat) (f : Frag) (lanes : LaneMask) : OpRec × OpRec × OpRec :=
  match i.shape with
  | .v _ _ x =>
    let r := i.readsSel
    let one (p : Nat) (b : Bool) (a : Sel) := if b then recordSel s i w fid f lanes p a else .none
    (one 0 r.1 x.a, one 1 r.2.1 x.b, one 2 r.2.2 x.c)
  | .vm _ _ x =>
    let r := i.readsSel
    (if r.1 then recordSel s i w fid f lanes 0 x.a else .none, .none, if r.2.2 then recordSel s i w fid f lanes 2 x.c else .none)
  | .s _ _ x =>
    (match i.sUses with
     | some (_, a, b, d) => (recordUse w a x.aReg, recordUse w b x.bReg, recordUse w d x.d.toNat)
     | none => (.none, .none, .none))
  | .cx _ _ x =>
    (match x.cond with
     | .vec v => (recordSel s i w fid f lanes 0 (.vreg v), .none, .none)
     | _ => (.none, .none, .none))
  | _ => (.none, .none, .none)

/-- An encoding that failed decode with LEN 10 records the selectors of the V format whose kinds name something (R307). -/
def recordRaw (w : Warp) (fid : Nat) (f : Frag) (lanes : LaneMask) (gs : List Word) : OpRec × OpRec × OpRec :=
  let g0 := gs.getD 0 0
  let g1 := gs.getD 1 0
  let g2 := gs.getD 2 0
  if field g0 30 2 != (2 : BitVec 2) || gs.length != 3 then (.none, .none, .none)
  else
    let one (b : BitVec 12) : OpRec :=
      match selOfBits b with
      | none => .none
      | some s =>
        let ok := s.inRange && (match s with
          | .vreg n => decide (n.toNat < w.top)
          | .latch _ => false
          | _ => true)
        if ok then
          { valid := true, lat := false,
            words := ((lanesOf lanes).map fun l => (l, (selVal w fid f .b32 3 s l).setWidth 32)).foldl (fun t p => Tbl.write 0 t p.1 p.2) [] }
        else .none
    (one (field g1 8 12), one (field g2 20 12), one (field g2 8 12))

/-- Everything a park records of an instruction (Table 15.2). -/
def parkRec (s : State) (w : Warp) (fid : Nat) (f : Frag) (i : Instr) (cause : Cause) (sub : Nat) (lanes : LaneMask) (info : Tbl Word)
    (faddr : DWord) : ParkRec :=
  -- ILL with subcode 0: one frame, the active lanes with GE taken as 0, operands of three granules only (R371)
  let ill := decide (cause = .ill) && decide (sub = 0)
  let lanes := if ill then w.act f none else lanes
  let gs := match i with
    | .unassignedEncoding _ g => g
    | i => i.encode
  let ops := match i with
    | .unassignedEncoding _ g => recordRaw w fid f lanes g
    | i => if ill && gs.length != 3 then (.none, .none, .none) else recordOps s i w fid f lanes
  { cause := cause, sub := BitVec.ofNat 16 sub, lanes := lanes, info := info, faddr := faddr, g0 := gs.getD 0 0, g1 := gs.getD 1 0,
    g2 := gs.getD 2 0, fw := if ill then 1 else i.fw, a := ops.1, b := ops.2.1, c := ops.2.2, clk := s.clock.clk }

def wordBytes (v : Word) : List Byte := leBytes 4 v.toNat

/-- 96 words of an operand area for frame `k` of the run. -/
def areaBytes (o : OpRec) (k : Nat) : List Byte := (List.range 96).flatMap fun l => wordBytes (Tbl.read 0 o.words (96 * k + l))

/-- The 2,048 bytes of frame `k` of a run (Table 15.2). -/
def frameBytes (w : Warp) (fid : Nat) (f : Frag) (p : ParkRec) (k : Nat) : List Byte :=
  let z (n : Nat) : List Byte := List.replicate n 0
  let areas := areaBytes p.a k ++ areaBytes p.b k ++ areaBytes p.c k ++ z 384
  if k = 0 then
    wordBytes (BitVec.ofNat 32 (p.cause.code * 2 ^ 24 + p.fw * 65536 + p.sub.toNat)) ++
    wordBytes (BitVec.ofNat 32 (w.warpId.toNat * 4096 + fid)) ++ leBytes 8 f.pc.toNat ++
    wordBytes p.g0 ++ wordBytes p.g1 ++ wordBytes p.g2 ++ wordBytes f.pidx ++
    wordBytes (maskWord p.lanes 0) ++ wordBytes (maskWord p.lanes 1) ++ wordBytes (maskWord p.lanes 2) ++
    wordBytes (BitVec.ofNat 32 (256 * ((if p.a.lat then 1 else 0) + (if p.b.lat then 2 else 0) + (if p.c.lat then 4 else 0)) +
      (if p.a.valid then 1 else 0) + (if p.b.valid then 2 else 0) + (if p.c.valid then 4 else 0))) ++
    wordBytes (p.faddr.extractLsb' 32 32) ++ leBytes 8 p.clk.toNat ++ wordBytes (BitVec.ofNat 32 w.ctx) ++
    (List.range 12).flatMap (fun i => wordBytes (entryWord w fid f i)) ++ z 16 ++ areas ++
    (List.range 96).flatMap (fun l => wordBytes (Tbl.read 0 p.info l))
  else z 128 ++ areas ++ z 384

/-- The lowest run of free frames that fits (R305). -/
def freeRun (L : Launch) (fw : Nat) : Option Nat :=
  (List.range L.lrec.frames).find? fun i => decide (i + fw ≤ L.lrec.frames) && (List.range fw).all fun j => (Tbl.find L.taken (i + j)).isNone

def takeFrames (L : Launch) (i fw : Nat) (wid : Option Nat) : Launch :=
  { L with taken := (List.range fw).foldl (fun t j => Tbl.put t (i + j) wid) L.taken }

/-- The launch whose frame area a warp's parks use: a consumer launch uses its graph's (R296), under one record of frames. -/
def frameLaunch (s : State) (w : Warp) : Nat :=
  match Tbl.find s.launches w.launch with
  | some L => L.graph.getD w.launch
  | none => w.launch

/-- Free the frames a fragment holds. -/
def releaseFrames (s : State) (w : Warp) (f : Frag) : State :=
  if f.fw = 0 then s
  else modLaunch s (frameLaunch s w) fun L =>
    let i := (f.frame.toNat - L.lrec.frame.toNat) / 2048
    { L with taken := (List.range f.fw).foldl (fun t j => Tbl.del t (i + j)) L.taken }

/-! ## The trap queue (R310, R332, R375) -/

/-- Fragments of a context that stall in `hcrr` are ready. -/
def wakeHcrr (s : State) (ctx : Nat) : State :=
  { s with warps := Tbl.mapVals s.warps fun _ w =>
      if w.ctx == ctx && w.level == .h then
        { w with frags := Tbl.mapVals w.frags fun _ f =>
            if f.st == .stalled && f.wkind == .hcrr then { f with st := .ready, wkind := .none, warg := 0 } else f }
      else w }

/-- A handle joins the trap queue when its cause bit is set; a PAGE or PROT park that stays out logs an event (R310, R332). -/
def enqueue (s : State) (w : Warp) (wid fid : Nat) (cause : Cause) : State :=
  match Tbl.find s.ctxs w.ctx with
  | none => s
  | some c =>
    if c.tqmask.getLsbD cause.code then
      wakeHcrr (modCtx s w.ctx fun c => { c with tq := c.tq ++ [(wid, fid)] }) w.ctx
    else if cause = .page || cause = .prot then ctxEvent s w.ctx { kind := .parkNotQueued, a := wid, b := fid }
    else s

/-- Number of an access kind. -/
def Machine.Kind.code : Kind → Nat
  | .ld => 0
  | .st => 1
  | .at => 2
  | .ex => 3

def Machine.Kind.ofCode (n : Nat) : Kind := if n = 1 then .st else if n = 2 then .at else if n = 3 then .ex else .ld

/-- Note the whole address and the kind of a failed access of lane l beside the INFO words. -/
def noteAccess (t : Tbl Word) (l : Nat) (a : DWord) (k : Kind) : Tbl Word :=
  Tbl.put (Tbl.put (Tbl.put t (96 + 4 * l) (a.setWidth 32)) (97 + 4 * l) (a.extractLsb' 32 32)) (98 + 4 * l) (BitVec.ofNat 32 k.code)

/-- The accesses noted. -/
def notedAccs (t : Tbl Word) : List (DWord × Kind) :=
  (t.filter fun p => decide (96 ≤ p.1) && p.1 % 4 == 0).map fun p =>
    (Tbl.read 0 t (p.1 + 1) ++ p.2, Kind.ofCode (Tbl.read 0 t (p.1 + 2)).toNat)

/-- A park is delivered: to the pump house first for a PAGE or PROT of an access of its own, else to the trap queue (R310, R332). -/
def deliver (s : State) (w : Warp) (wid fid : Nat) (p : ParkRec) : State :=
  let accs := notedAccs p.info
  if (p.cause = .page || p.cause = .prot) && p.sub = 0 && !accs.isEmpty then
    setSig (modCtx s w.ctx fun c => { c with parks := c.parks ++ [{ warp := wid, frag := fid, accs := accs, msgs := [], frame := none }] }) 2
  else enqueue s w wid fid p.cause

/-- Write a run of frames through the context's tables. -/
def writeFrames (s : State) (w : Warp) (fid : Nat) (f : Frag) (p : ParkRec) : Nat → Except (Cause × DWord) State
  | 0 => .ok s
  | k + 1 =>
    match writeFrames s w fid f p k with
    | .error e => .error e
    | .ok s' => writeVirt s' { ctx := w.ctx, wg := none } (f.frame + BitVec.ofNat 64 (2048 * k)) (frameBytes w fid f p k)

/-- A fragment that has taken its frames parks: entry, frame and delivery (R305, R307, R310, R375). -/
def parkWith (s : State) (wid fid : Nat) (p : ParkRec) (base : DWord) : State :=
  let s := modFrag (dropHold s wid fid) wid fid fun f =>
    { f with st := .parked, cause := p.cause, sub := p.sub, fw := p.fw, frame := base, wkind := .none, warg := 0, tokw := 0, latches := [],
             reach := 0, starve := 0, due := false, cont := false, replay := none, parkClk := s.clock.clk,
             wait := { f.wait with pend := none, slotless := false, ids := [], faults := [] } }
  match findFrag s wid fid with
  | none => s
  | some (w, f) =>
    match writeFrames s w fid f p p.fw with
    | .ok s' => deliver s' w wid fid p
    | .error e =>
      setSig (modCtx s w.ctx fun c => { c with parks := c.parks ++ [{ warp := wid, frag := fid, accs := [(e.2, .st)], msgs := [], frame := some p }] }) 2

/-- Try to take frames and park. -/
def tryPark (s : State) (wid fid : Nat) (p : ParkRec) : Option State :=
  match findFrag s wid fid with
  | none => none
  | some (w, _) =>
    let lid := frameLaunch s w
    match Tbl.find s.launches lid with
    | none => none
    | some L =>
      match freeRun L p.fw with
      | none => none
      | some i =>
        let base := L.lrec.frame + BitVec.ofNat 64 (2048 * i)
        some (parkWith { s with launches := Tbl.put s.launches lid (takeFrames L i p.fw (some wid)) } wid fid p base)

/-! ## Ends of fragments and warps -/

/-- Entries taken of a core's fragment table: live fragments, and those that ended warps keep (R17, R122). -/
def coreFrags (s : State) (ctl : Bool) (core : Nat) : Nat :=
  (Tbl.vals s.warps).foldl (fun n w => if w.ctl = ctl && w.core = core && w.resid != .saved then n + w.frags.length + w.kept else n) 0

/-- Entries of a core's fragment table: 128, or 32 on a control core (R17, Table 01.4). -/
def coreEntries (ctl : Bool) : Nat := if ctl then 32 else 128

/-- A fragment's entry and frames are freed; its id's generation rises (R12, R309). -/
def freeFrag (s : State) (wid fid : Nat) : State :=
  match findFrag s wid fid with
  | none => s
  | some (w, f) =>
    let s := releaseFrames (dropHold s wid fid) w f
    let s := modCtx s w.ctx fun c =>
      { c with tq := c.tq.filter (· != (wid, fid)), parks := c.parks.filter fun p => !(p.warp == wid && p.frag == fid) }
    modWarp s wid fun w =>
      { w with frags := Tbl.del w.frags fid, gens := Tbl.write 0 w.gens fid (Tbl.read 0 w.gens fid + 1) }

/-- Every lane set shrinks to the alive lanes; a fragment with none is freed (R11, R12). -/
def dropDead (s : State) (wid : Nat) : State :=
  match Tbl.find s.warps wid with
  | none => s
  | some w =>
    let alive := w.alive
    let s := modWarp s wid fun w => { w with frags := Tbl.mapVals w.frags fun _ f => { f with lanes := f.lanes &&& alive } }
    (w.frags.filter fun p => p.2.lanes &&& alive == 0).foldl (fun s p => freeFrag s wid p.1) s

/-! ## Barriers (R183, R184) -/

/-- A warp has arrived at a slot: every live fragment stands arrived there. -/
def warpArrived (w : Warp) (kind : WKind) (slot : Nat) : Bool :=
  w.ended || (w.frags.all fun p => p.2.st == .waiting && p.2.wkind == kind && p.2.warg.toNat == slot)

/-- Fragments that pass a barrier: the instruction after it, ready. -/
def passBarrier (s : State) (wids : List Nat) (kind : WKind) (slot : Nat) : State :=
  wids.foldl (fun s wid => modWarp s wid fun w =>
    { w with frags := Tbl.mapVals w.frags fun _ f =>
        if f.st = .waiting && f.wkind = kind && f.warg.toNat = slot then
          { f with st := .ready, wkind := .none, warg := 0, pc := f.pc + 4, pidx := 0, tokw := 0, skip := false, acq := false, replay := none,
                   latches := [], reach := 0, wait := .empty } else f }) s

def allArrived (s : State) (wids : List Nat) (kind : WKind) (slot : Nat) : Bool :=
  wids.all fun wid => match Tbl.find s.warps wid with
    | some w => warpArrived w kind slot
    | none => true

def someArrived (s : State) (wids : List Nat) (kind : WKind) (slot : Nat) : Bool :=
  wids.any fun wid => match Tbl.find s.warps wid with
    | some w => w.frags.any fun p => p.2.st == .waiting && p.2.wkind == kind && p.2.warg.toNat == slot
    | none => false

/-- Warps of every workgroup of a cluster group. -/
def cgWarps (s : State) (cg : Nat) : List Nat :=
  match Tbl.find s.cgs cg with
  | none => []
  | some c => c.wgs.flatMap fun k => match Tbl.find s.wgs k with
    | some g => g.warps
    | none => []

/-- Evaluate arrival at every slot of a workgroup and its cluster group (R184). -/
def barriers (s : State) (wgid : Nat) : State :=
  match Tbl.find s.wgs wgid with
  | none => s
  | some g =>
    let s := (List.range 16).foldl (fun s k =>
      if someArrived s g.warps .bar k && allArrived s g.warps .bar k then
        modWg (passBarrier s g.warps .bar k) wgid fun g => { g with rounds := Tbl.del g.rounds k } else s) s
    let ws := cgWarps s g.cg
    (List.range 16).foldl (fun s k =>
      if someArrived s ws .barcl k && allArrived s ws .barcl k then
        let s := passBarrier s ws .barcl k
        { s with cgs := Tbl.modify s.cgs g.cg fun c => { c with rounds := Tbl.del c.rounds k } } else s) s

end Sys2Proof
end

