-- ==== Sys2Proof/Machine/Sluice.lean ====
section
/-! DEFINITION. Matrix budget counts of the cores (R206, R207) and the flush of sluice bins into jobs (R212, R213), which every
instruction that stalls can cause. -/

namespace Sys2Proof

open Machine

/-! ## Budget counts (R207) -/

/-- The period of 2,100 cycles that CLK lies in. -/
def mbuNow (s : State) : Nat := clkNat s / 2100

/-- A period has ended: the counts restart at 0. -/
def mbuRoll (s : State) : State := if mbuNow s = s.mbuEra then s else { s with mbuReq := [], mbuCap := [], mbuEra := mbuNow s }

/-- A requester on a core: a warp, or the sluice jobs of a context. -/
def reqWarp (core wid : Nat) : Nat := core * 2 ^ 40 + 2 * wid

def reqSluice (core ctx : Nat) : Nat := core * 2 ^ 40 + 2 * ctx + 1

/-- A context and class on a core. -/
def capKeyOf (core ctx cls : Nat) : Nat := core * 2 ^ 40 + 8 * ctx + cls

/-- Units charged on a core by sluice jobs in the current period (R213). -/
def sluiceCount (s : State) (core : Nat) : Nat :=
  if mbuNow s = s.mbuEra then
    s.mbuReq.foldl (fun n p => if p.1 / 2 ^ 40 = core && p.1 % 2 = 1 then n + p.2 else n) 0
  else 0

/-- The core of a cluster with the lowest sluice count, the lowest number on a tie. -/
def pickCore (s : State) (cluster : Nat) : Nat :=
  (List.range 8).foldl (fun b k => if sluiceCount s (8 * cluster + k) < sluiceCount s b then 8 * cluster + k else b) (8 * cluster)

/-! ## Flushes (R213) -/

/-- Groups of at most 64 rows. -/
def groupRows : Nat → List Row → List (List Row)
  | 0, _ => []
  | n + 1, rs => if rs.isEmpty then [] else rs.take 64 :: groupRows n (rs.drop 64)

/-- Groups as they begin; each chooses a core. -/
def newGroups (s : State) (cluster : Nat) : List (List Row) → List Group × State
  | [] => ([], s)
  | rs :: t =>
    let q := fresh s
    let g : Group :=
      { rows := rs, layer := 0, h := rs.map (·.input), core := pickCore s cluster, order := q.1, queued := clkNat s, running := false, out := none,
        fault := none, err := none }
    let r := newGroups q.2 cluster t
    (g :: r.1, r.2)

/-- The rows of a bin by the launch that issued them, whose table gives handle h its weight set (R208, R212). DEDUCED: the key is
(context, h) alone, and rows of two launches under one key still use each its own set (R82), so no group mixes them. -/
def byLaunch : Nat → List Row → List (List Row)
  | 0, _ => []
  | n + 1, rs =>
    match rs with
    | [] => []
    | r :: _ => (rs.filter fun x => x.launch = r.launch) :: byLaunch n (rs.filter fun x => x.launch ≠ r.launch)

/-- A bin's rows become one job and the bin is empty. -/
def flushBin (s : State) (key : Nat) : State :=
  match Tbl.find s.bins key with
  | none => s
  | some b =>
    let s := { s with bins := Tbl.del s.bins key }
    if b.rows.isEmpty then s
    else
      let q := fresh s
      let r := newGroups q.2 (key / 16) ((byLaunch b.rows.length b.rows).flatMap (groupRows 2))
      let j : Job := { cluster := key / 16, ctx := b.ctx, h := b.h, groups := r.1 }
      { r.2 with jobs := Tbl.put r.2.jobs q.1 j }

/-- Flush every bin that holds a row of some kind. -/
def flushRows (s : State) (p : Row → Bool) : State :=
  (s.bins.filter fun b => b.2.rows.any p).foldl (fun s b => flushBin s b.1) s

end Sys2Proof
end

