-- ==== Sys2Proof/Machine/Issue.lean ====
section
/-! DEFINITION. What every Decmen instruction shares: fetch (R98), taking an exception (R304 to R307), splits (R18, R19), the end of
warps (R12, R122, R266), the register pool (R35, R36), stalls (R29, R30), waits, and the issue and retirement of one instruction
(R13, R14, R23, R24, R26 to R28). -/

namespace Sys2Proof

open Machine

/-! ## Fetch (R98 steps 1 to 7) -/

/-- A failed fetch: PAGE, PROT, or PATH for an address outside path 0x0. -/
def fetchFail (c : Cause) : DecodeFail :=
  match c with
  | .page => .fetchPage
  | .path => .fetchPath
  | _ => .fetchProt

/-- The instruction at an address, or what the granules there are. -/
def fetchAt (s : State) (w : Warp) (pc : DWord) : Instr :=
  match readGranule s w pc with
  | .error e => .unassignedEncoding (fetchFail e.1) []
  | .ok g0 =>
    let n := granulesOf g0
    if n ≤ 1 then
      (match decodeGranules g0 0 0 with | .ok i => i | .error e => .unassignedEncoding e [g0])
    else
      match readGranule s w (pc + 4) with
      | .error e => .unassignedEncoding (fetchFail e.1) [g0]
      | .ok g1 =>
        if n ≤ 2 then
          (match decodeGranules g0 g1 0 with | .ok i => i | .error e => .unassignedEncoding e [g0, g1])
        else
          match readGranule s w (pc + 8) with
          | .error e => .unassignedEncoding (fetchFail e.1) [g0, g1]
          | .ok g2 =>
            match decodeGranules g0 g1 g2 with | .ok i => i | .error e => .unassignedEncoding e [g0, g1, g2]

/-- Granules of an instruction as fetched. -/
def Instr.size (i : Instr) : Nat :=
  match i with
  | .unassignedEncoding _ g => max 1 g.length
  | i => i.encode.length

/-! ## Fragments and quarters -/

/-- A fragment that holds its quarter's slot: running, or stalled for frames in its slot (R306). -/
def Machine.Frag.holdsSlot (f : Frag) : Bool :=
  f.st == .running || (f.st == .stalled && f.wkind == .frames && f.wait.pend.isNone && !f.wait.slotless)

/-- Some fragment holds the slot of a quarter. -/
def slotHeld (s : State) (ctl : Bool) (core quarter : Nat) : Bool :=
  s.warps.any fun p => p.2.ctl == ctl && p.2.core == core && p.2.quarter == quarter && p.2.resid == .resident &&
    p.2.frags.any fun q => q.2.holdsSlot

/-- A fragment of a quarter, with its warp. -/
structure Choice where
  wid : Nat
  fid : Nat
  w   : Warp
  f   : Frag
  deriving DecidableEq, Repr

/-- A warp stands in `vacq`: it is descheduled whole (R35, R119). -/
def Machine.Warp.inVacq (w : Warp) : Bool := w.frags.any fun p => p.2.st == .waiting && p.2.wkind == .vacq

/-- Ready fragments of a quarter; those of a warp that is descheduled in a `vacq` are not. -/
def readyIn (s : State) (ctl : Bool) (core quarter : Nat) : List Choice :=
  s.warps.flatMap fun p =>
    if p.2.ctl == ctl && p.2.core == core && p.2.quarter == quarter && p.2.resid == .resident && !p.2.inVacq then
      p.2.frags.filterMap fun q => if q.2.st == .ready then some { wid := p.1, fid := q.1, w := p.2, f := q.2 } else none
    else []

/-- A fragment takes the slot for a reach; those of its quarter that are ready have seen one more reach go by. TIMER is due at the start
of a reach won while it is pending, but not where a reach goes on that a pre-emption stopped (R24, R51). -/
def grant (s : State) (ready : List Choice) (c : Choice) : State :=
  let s := ready.foldl (fun s r =>
    modFrag s r.wid r.fid fun f =>
      { f with starve := f.starve + 1,
               yield := f.yield.filter fun y => y != (c.wid, c.fid) && ready.any fun q => q.wid == y.1 && q.fid == y.2 }) s
  { modFrag s c.wid c.fid fun f =>
      { f with st := .running, wkind := .none, starve := 0, yield := [], due := if c.f.cont then c.f.due else c.w.timer, cont := false }
    with focus := some (.frag c.wid c.fid) }

/-! ## Joins (R20, R21) -/

/-- The join level a merged fragment takes (R21): the largest among the others, at most `sAfter`, 0 with none. -/
def mergedJ (w : Warp) (fid : Nat) (sAfter : Byte) : Byte :=
  w.frags.foldl (fun m p => if p.1 = fid then m else if m.toNat < p.2.j.toNat then
    (if p.2.j.toNat ≤ sAfter.toNat then p.2.j else sAfter) else m) 0

/-- S after the join instruction at which fragments of these lanes stand: `endif` lowers it, and so does an `endloop` from which no lane
goes back (R15). -/
def joinS (s : State) (w : Warp) (f : Frag) (lanes : LaneMask) : Byte :=
  match fetchAt s w f.pc with
  | .endif _ => BitVec.ofNat 8 (f.s.toNat - 1)
  | .endloop _ =>
    if (lanesOf (lanes &&& w.alive)).any fun l => decide (w.depthOf l ≤ 1) then f.s else BitVec.ofNat 8 (f.s.toNat - 1)
  | _ => f.s

/-- Merge held fragments into the lowest id of them, which takes the slot (R21, Table 15.4). -/
def mergeFrags (s : State) (wid : Nat) (ids : List Nat) : State :=
  match ids with
  | [] => s
  | keep :: rest =>
    match Tbl.find s.warps wid with
    | none => s
    | some w =>
      let lanes := ids.foldl (fun m k => match Tbl.find w.frags k with | some f => m ||| f.lanes | none => m) 0
      let s := rest.foldl (fun s k => freeFrag s wid k) s
      let s := modWarp s wid fun v =>
        { v with frags := Tbl.modify v.frags keep fun f =>
            { f with lanes := lanes, j := mergedJ v keep (joinS s v f lanes), pidx := 0, skip := true, latches := [], reach := 0 } }
      match findFrag s wid keep with
      | some (v, f) => grant s (readyIn s v.ctl v.core v.quarter) { wid := wid, fid := keep, w := v, f := f }
      | none => s

/-- Every live fragment of a warp stands held (R20). -/
def Machine.Warp.allHeld (w : Warp) : Bool := !w.frags.isEmpty && w.frags.all fun p => p.2.st == .held

/-- A warp's fragments may begin a reach: it is resident, its context runs, and its CORE is not spent (R293, R319). -/
def mayBegin (s : State) (w : Warp) : Bool := w.resid == .resident && !ctxHalted s w.ctx 400 && !budgetSpent s w.ctx w.cls 0

/-- Held fragments are released when every live fragment of the warp is held and the slot is free, for the merged fragment runs (R20,
Table 15.4): those at the PC with the greatest S merge, at the lowest such PC. -/
def joins (s : State) (wid : Nat) : State :=
  match Tbl.find s.warps wid with
  | none => s
  | some w =>
    if !w.allHeld || !mayBegin s w || slotHeld s w.ctl w.core w.quarter then s
    else
      let top := w.frags.foldl (fun m p => max m p.2.s.toNat) 0
      let best := (w.frags.filter fun p => p.2.s.toNat = top).foldl (fun (m : Option Nat) p =>
        match m with
        | none => some p.2.pc.toNat
        | some x => some (min x p.2.pc.toNat)) none
      let pc := best.getD 0
      mergeFrags s wid ((w.frags.filter fun p => p.2.s.toNat = top && p.2.pc.toNat = pc).map (·.1))

/-! ## Records of an ended warp (R266, R275) -/

/-- Queue the retirement of a cell record's ticket behind the warp's issued operations (R275). -/
def queueRetire (s : State) (wid : Nat) (w : Warp) (gl : Nat) (c : Nat × Nat × Nat × Nat) : State :=
  let (id, s) := fresh s
  let op : PixOp :=
    { warp := wid, ctx := w.ctx, cls := w.cls, launch := w.launch, graph := some gl, cluster := clusterOf w.core, kind := 2, rt := c.1,
      cx := c.2.1, cy := c.2.2.1, ticket := c.2.2.2, lanes := 0, vals := [], d := 0, tok := 0, access := 0, frag := 0, fault := none, bad := 0 }
  { s with pix := Tbl.put s.pix id op }

/-- Free one catchment slot (R266); a delivered cell record retires its ticket. -/
def freeSlot (s : State) (wid gl slot : Nat) : State :=
  match Tbl.find s.launches gl, Tbl.find s.warps wid with
  | some L, some w =>
    (match Tbl.find L.slots slot with
     | none => s
     | some x =>
       let s := (match x.st, x.cell with | .delivered _, some c => queueRetire s wid w gl c | _, _ => s)
       modLaunch s gl fun L => { L with slots := Tbl.del L.slots slot })
  | _, _ => s

/-- Slots that a warp holds allocated or delivered in its graph launch. -/
def ownSlots (s : State) (wid : Nat) (w : Warp) : Option Nat × List Nat :=
  match Tbl.find s.launches w.launch with
  | none => (none, [])
  | some L =>
    (match L.graph with
     | none => (none, [])
     | some gl =>
       (match Tbl.find s.launches gl with
        | none => (none, [])
        | some G => (some gl, (G.slots.filter fun p => match p.2.st with
            | .allocWarp k => k == wid
            | .delivered k => k == w.launch
            | _ => false).map (·.1))))

/-- Every record a warp holds is freed when it ends. -/
def freeRecords (s : State) (wid : Nat) : State :=
  match Tbl.find s.warps wid with
  | none => s
  | some w =>
    (match ownSlots s wid w with
     | (some gl, ks) => ks.foldl (fun s k => freeSlot s wid gl k) s
     | _ => s)

/-! ## The end of a warp (R12, R122) -/

/-- A workgroup with no warp left leaves its core; the launch of a handler or consumer warp goes with it. -/
def removeWg (s : State) (gid : Nat) : State :=
  match Tbl.find s.wgs gid with
  | none => s
  | some g =>
    let s := { s with wgs := Tbl.del s.wgs gid,
                      cgs := Tbl.keep (Tbl.mapVals s.cgs fun _ c => { c with wgs := c.wgs.filter (· != gid) }) fun _ c => !c.wgs.isEmpty }
    match Tbl.find s.launches g.launch with
    | some L => if L.level == .h || L.graph.isSome then { s with launches := Tbl.del s.launches g.launch } else s
    | none => s

/-- An ended warp leaves when every token is free and everything it issued has landed; an error it never received is logged (R179). -/
def reapWarp (s : State) (wid : Nat) : State :=
  match Tbl.find s.warps wid with
  | none => s
  | some w =>
    if !(w.ended && w.tokens.isEmpty && w.access.isEmpty) then s
    else
      let s := w.errs.foldl (fun s e => ctxEvent s w.ctx { kind := .engineError, a := e.cause.code, b := e.addr.toNat }) s
      let s := { s with warps := Tbl.del s.warps wid }
      let s := modWg s w.wg fun g => { g with warps := g.warps.filter (· != wid), free := g.free + (w.top - w.base) / 64 }
      match Tbl.find s.wgs w.wg with
      | some g => if g.warps.isEmpty then removeWg s w.wg else s
      | none => s

/-- A warp whose lanes have all ended: its last entries, so many, stay taken until every token is free (R122; log 44). -/
def markEnded (s : State) (wid kept : Nat) : State :=
  match Tbl.find s.warps wid with
  | none => s
  | some w => if w.frags.isEmpty && !w.ended then modWarp (freeRecords s wid) wid fun w => { w with ended := true, kept := kept } else s

/-- The pump house ends a handler warp (R311). -/
def endHandler (s : State) (wid : Nat) : State :=
  match Tbl.find s.warps wid with
  | none => s
  | some w =>
    let s := ctxEvent s w.ctx { kind := .handlerFault, a := w.warpId.toNat, b := 0 }
    let s := modWarp s wid fun w => { w with sregs := Tbl.write 0 (Tbl.write 0 (Tbl.write 0 w.sregs 0 0) 1 0) 2 0 }
    reapWarp (markEnded (dropDead s wid) wid w.frags.length) wid

/-! ## Taking an exception (R304 to R307) -/

/-- No frames: the instruction takes no effect, and the fragment keeps its slot, its reach and its latches (R306). One that holds no
slot, because it waited, is ready again once frames are free. -/
def stallFrames (s : State) (wid fid fw : Nat) : State :=
  modFrag s wid fid fun f =>
    { f with st := .stalled, wkind := .frames, warg := 0, tokw := 0,
             wait := { f.wait with arg := BitVec.ofNat 64 fw, pend := none, slotless := !f.holdsSlot } }

/-- No frames after an effect was taken: the park itself waits, and the slot is free (R306). -/
def pendPark (s : State) (wid fid : Nat) (p : ParkRec) : State :=
  modFrag (dropHold s wid fid) wid fid fun f =>
    { f with st := .stalled, wkind := .frames, warg := 0, tokw := 0, latches := [], reach := 0, starve := 0, due := false, cont := false,
             replay := none, wait := { f.wait with pend := some p, slotless := true } }

/-- Park with what was recorded; `late` when an effect of the instruction cannot be withdrawn. -/
def parkAs (s : State) (wid fid : Nat) (p : ParkRec) (late : Bool) : State :=
  match tryPark s wid fid p with
  | some s' => s'
  | none => if late then pendPark s wid fid p else stallFrames s wid fid p.fw

/-- Taking an exception, whole (R304): cause and subcode, the lanes that took no effect, the per-lane info and the fault address. A
handler warp is ended instead (R311). -/
def takeTrap (s : State) (wid fid : Nat) (i : Instr) (cause : Cause) (sub : Nat) (lanes : LaneMask) (info : Tbl Word) (faddr : DWord)
    (late : Bool) : State :=
  match findFrag s wid fid with
  | none => s
  | some (w, f) =>
    if w.level == .h then endHandler s wid
    else parkAs s wid fid (parkRec s w fid f i cause sub lanes info faddr) late

/-- Kind of the access that an instruction makes, for the pump house to walk again. -/
def Instr.failKind (i : Instr) : Kind :=
  match i with
  | .vst _ _ | .vgst _ _ | .sst _ | .tst _ => .st
  | .vatom _ _ | .satom _ _ => .at
  | .ldlit _ | .unassignedEncoding _ _ => .ex
  | _ => .ld

/-- INFO of one lane's failed access; a walk's access has been with the pump house already (R333), so it is not noted. -/
def Instr.laneInfo (i : Instr) (t : Tbl Word) (l : Nat) (a : DWord) : Tbl Word :=
  let t := Tbl.write 0 t l (a.setWidth 32)
  match i with
  | .rtrace _ | .rresume _ => t
  | _ => noteAccess t l a i.failKind

/-- INFO of a whole-fragment or engine error (Table 15.3a). -/
def wholeInfo (a : DWord) (detail : Word) : Tbl Word :=
  Tbl.write 0 (Tbl.write 0 (Tbl.write 0 [] 0 (a.setWidth 32)) 1 (a.extractLsb' 32 32)) 2 detail

/-! ## The extended register pool (R35, R36) -/

/-- Fragments of a workgroup that wait in `vacq`: order of request, warp, fragment, blocks. -/
def vacqWaiters (s : State) (g : Wg) : List (Nat × Nat × Nat × Nat) :=
  g.warps.flatMap fun wid => match Tbl.find s.warps wid with
    | none => []
    | some w => w.frags.filterMap fun p =>
        if p.2.st == .waiting && p.2.wkind == .vacq then some (p.2.wait.order, wid, p.1, p.2.wait.arg.toNat) else none

/-- The waiter that asked first. -/
def oldest : List (Nat × Nat × Nat × Nat) → Option (Nat × Nat × Nat × Nat)
  | [] => none
  | x :: xs => match oldest xs with
    | none => some x
    | some y => if x.1 ≤ y.1 then some x else some y

/-- Raise T; new registers read as zero. -/
def Machine.Warp.grow (w : Warp) (n : Nat) : Warp := { w with top := w.top + 64 * n }

/-- Lower T; the registers returned keep nothing. -/
def Machine.Warp.shrink (w : Warp) (n : Nat) : Warp :=
  let t := w.top - 64 * n
  { w with top := t, vregs := Tbl.keep w.vregs fun k _ => decide (k < 96 * t) }

/-- Retirement of an instruction: the PC moves, the reach counts on or ends (R23, R24), latches are emptied at its end and by a
latch barrier (R27, R28). -/
def Machine.Frag.retire (f : Frag) (i : Instr) (pc : DWord) (ends : Bool) : Frag :=
  let reachOver := ends || i.lk || i.endsReach || decide (24 ≤ f.reach + 1)
  { f with pc := pc, pidx := 0, tokw := 0, wkind := .none, warg := 0, skip := false, acq := false, replay := none, hidden := [],
           hidAct := 0, due := false, wait := .empty, reach := if reachOver then 0 else f.reach + 1, st := if reachOver then .ready else .running,
           latches := if reachOver || latchClass i.opc == .barrier then [] else f.latches }

/-- Serve waiting requests in order (R35). -/
def servePool (s : State) (gid : Nat) : Nat → State
  | 0 => s
  | fuel + 1 =>
    match Tbl.find s.wgs gid with
    | none => s
    | some g =>
      match oldest (vacqWaiters s g) with
      | none => s
      | some (_, wid, fid, n) =>
        if g.free < n then s
        else
          let s := modWg s gid fun g => { g with free := g.free - n }
          let s := modWarp s wid fun w => w.grow n
          let s := modFrag s wid fid fun f => { f.retire (.vacq { lk := true, ty := .s32, d := 0, z := 0, src := .imm 0 0 }) (f.pc + 8) true with st := .ready }
          servePool s gid fuel

/-- A warp stands in `vacq`, or waits at a `bar`: none of its fragments can go on otherwise. A fragment held at a join point only waits
for those. -/
def standsStill (w : Warp) : Bool := w.inVacq || w.frags.all fun p => (p.2.st == .waiting && p.2.wkind == .bar) || p.2.st == .held

/-- A warp can release no block: it stands still, or it has ended and given its blocks back. -/
def noBlocksFrom (w : Warp) : Bool := if w.ended then w.top == w.base else standsStill w

/-- R36: the oldest waiting `vacq` faults REGX, subcode 1, when nothing in the workgroup can release blocks; the next may be met then. -/
def poolDeadlock (s : State) (gid : Nat) : Nat → State
  | 0 => s
  | fuel + 1 =>
    match Tbl.find s.wgs gid with
    | none => s
    | some g =>
      match oldest (vacqWaiters s g) with
      | none => s
      | some (_, wid, fid, _) =>
        if g.warps.all fun k => match Tbl.find s.warps k with | some w => noBlocksFrom w | none => true then
          match findFrag s wid fid with
          | none => s
          | some (w, f) =>
            poolDeadlock (servePool (takeTrap s wid fid (fetchAt s w f.pc) .regx 1 (w.act f none) [] 0 false) gid 128) gid fuel
        else s

/-- Waiters of a pool: served, and the deadlock rule. -/
def poolSettle (s : State) (gid : Nat) : State := poolDeadlock (servePool s gid 128) gid 128

/-- An ended warp leaves, and those that wait for its registers are served (R35, R36). -/
def reap (s : State) (wid : Nat) : State :=
  match Tbl.find s.warps wid with
  | none => s
  | some w =>
    let s := reapWarp s wid
    if (Tbl.find s.warps wid).isNone then poolSettle s w.wg else s

/-! ## The catchment (R260, R264) -/

/-- Slots of a graph launch. -/
def Machine.Launch.totalSlots (L : Launch) : Nat := if L.slotQ = 0 then 0 else L.lrec.catsize / L.slotQ

/-- The lowest free slots, at most n of them, from slot k on. -/
def lowSlots (used : Tbl Slot) : Nat → Nat → Nat → List Nat
  | 0, _, _ => []
  | _, 0, _ => []
  | fuel + 1, n + 1, k => if (Tbl.find used k).isSome then lowSlots used fuel (n + 1) (k + 1) else k :: lowSlots used fuel n (k + 1)

/-- Free slots, as many as there are of n. -/
def Machine.Launch.freeSlots (L : Launch) (n : Nat) : List Nat := lowSlots L.slots (min L.totalSlots (L.slots.length + n)) n 0

/-- Address of a slot. -/
def Machine.Launch.slotAddr (L : Launch) (k : Nat) : DWord := L.lrec.catbase + BitVec.ofNat 64 (L.slotQ * k)

/-- Waiting `ralloc`s of a graph launch: order of request, warp, fragment, slots asked for. -/
def rallocWaiters (s : State) (gl : Nat) : List (Nat × Nat × Nat × Nat) :=
  s.warps.flatMap fun p =>
    if ((Tbl.find s.launches p.2.launch).bind (·.graph)) == some gl && p.2.resid == .resident then
      p.2.frags.filterMap fun q =>
        if q.2.st == .waiting && q.2.wkind == .ralloc then some (q.2.wait.order, p.1, q.1, q.2.wait.arg.toNat) else none
    else []

/-- Give slots to the lanes of a fragment in ascending order, for records of a node; D:D+1 receives their addresses. -/
def giveSlots (s : State) (gl wid d node : Nat) (ls : List (Nat × Nat)) : State :=
  match Tbl.find s.launches gl with
  | none => s
  | some L =>
    let s := modLaunch s gl fun L => { L with slots := ls.foldl (fun t p => Tbl.put t p.2 { st := .allocWarp wid, node := node, cell := none }) L.slots }
    modWarp s wid fun w => ls.foldl (fun w p => w.setVval true d p.1 (L.slotAddr p.2)) w

/-- Serve waiting requests in order of request. -/
def serveSlots (s : State) (gl : Nat) : Nat → State
  | 0 => s
  | fuel + 1 =>
    match Tbl.find s.launches gl, oldest (rallocWaiters s gl) with
    | some L, some (_, wid, fid, n) =>
      (match findFrag s wid fid with
       | none => s
       | some (w, f) =>
         let ks := L.freeSlots n
         if ks.length < n then s
         else match fetchAt s w f.pc with
           | .ralloc x =>
             let s := giveSlots s gl wid x.d.toNat f.warg.toNat ((lanesOf (w.act f x.guard)).zip ks)
             serveSlots (modFrag s wid fid fun f => { f.retire (.ralloc x) (f.pc + 12) true with st := .ready }) gl fuel
           | _ => s)
    | _, _ => s

/-- A warp waits in `ralloc`: none of its fragments can go on otherwise. -/
def waitsSlots (w : Warp) : Bool :=
  (w.frags.any fun p => p.2.st == .waiting && p.2.wkind == .ralloc) &&
  w.frags.all fun p => (p.2.st == .waiting && p.2.wkind == .ralloc) || p.2.st == .held

/-- No record can reach a consumer and no slot can come free. -/
def catchStuck (s : State) (L : Launch) : Bool :=
  (L.nodes.all fun n => n.2.basin.isEmpty) &&
  L.slots.all fun p => match p.2.st with
    | .delivered _ => false
    | .allocWarp k => (match Tbl.find s.warps k with | some w => waitsSlots w | none => true)
    | _ => true

/-- The oldest waiting `ralloc` parks when nothing can free a slot for it; the next may be met then, or stand as that one did. -/
def catchDeadlock (s : State) (gl : Nat) : Nat → State
  | 0 => s
  | fuel + 1 =>
    match Tbl.find s.launches gl, oldest (rallocWaiters s gl) with
    | some L, some (_, wid, fid, _) =>
      if catchStuck s L then
        (match findFrag s wid fid with
         | some (w, f) =>
           let i := fetchAt s w f.pc
           catchDeadlock (serveSlots (takeTrap s wid fid i .disp 4 (w.act f i.guard) [] 0 false) gl 4096) gl fuel
         | none => s)
      else s
    | _, _ => s

/-- Waiters of a catchment: served, and the deadlock rule. -/
def catchSettle (s : State) (gl : Nat) : State := catchDeadlock (serveSlots s gl 4096) gl 4096

/-- The graph launch that a warp's launch belongs to. -/
def graphOf (s : State) (w : Warp) : Option Nat := (Tbl.find s.launches w.launch).bind (·.graph)

/-- After lanes or fragments have gone, or a fragment holds or waits: freed fragments, joins, ended warps, barriers, the pools. -/
def settle (s : State) (wid : Nat) : State :=
  match Tbl.find s.warps wid with
  | none => s
  | some w =>
    let graph := graphOf s w
    let s := reapWarp (barriers (markEnded (joins (dropDead s wid) wid) wid (max 1 w.frags.length)) w.wg) wid
    let s := poolSettle s w.wg
    match graph with
    | some gl => catchSettle s gl
    | none => s

/-- Settle a warp whose alive mask an instruction has changed (R11, R12). -/
def settleIfRetired (was : LaneMask) (s : State) (wid : Nat) : State :=
  match Tbl.find s.warps wid with
  | some w => if w.alive = was then s else settle s wid
  | none => s

/-- Clear alive bits of any warp. -/
def Machine.Warp.kill (w : Warp) (m : LaneMask) : Warp :=
  let put (t : Tbl Word) (i : Nat) := Tbl.write 0 t i (Tbl.read 0 t i &&& ~~~(maskWord m i))
  { w with sregs := put (put (put w.sregs 0) 1) 2 }

/-! ## An instruction at issue -/

/-- The instruction being executed, its warp and fragment as they stand, and act(f) under its guard. -/
structure Issue where
  i   : Instr
  wid : Nat
  fid : Nat
  w   : Warp
  f   : Frag
  act : LaneMask

def Issue.lanes (x : Issue) : List Nat := lanesOf x.act

/-- The address after the instruction. -/
def Issue.nextPc (x : Issue) : DWord := x.f.pc + BitVec.ofNat 64 (4 * x.i.size)

/-- Complete and go on at an address. -/
def Issue.goto (x : Issue) (s : State) (pc : DWord) (ends : Bool) : State := modFrag s x.wid x.fid fun f => f.retire x.i pc ends

/-- Complete. -/
def Issue.done (x : Issue) (s : State) : State := x.goto s x.nextPc false

/-- Complete with a changed warp. -/
def Issue.finish (x : Issue) (s : State) (w : Warp) : State := x.done (putWarp s x.wid w)

/-- Steps of a `vgldl` have taken effect, so that a fault cannot withdraw the instruction (R306). -/
def Issue.late (x : Issue) : Bool :=
  match x.i with
  | .vgldl _ _ => x.f.pidx != 0
  | _ => false

/-- Fault whole, no lane's effect taken. -/
def Issue.trap (x : Issue) (s : State) (cause : Cause) (sub : Nat) : State :=
  takeTrap s x.wid x.fid x.i cause sub x.act [] 0 x.late

/-- Fault whole with per-lane fault addresses: the lanes at fault and their addresses (Table 15.3a). -/
def Issue.trapLanes (x : Issue) (s : State) (cause : Cause) (sub : Nat) (bad : List (Nat × DWord)) : State :=
  takeTrap s x.wid x.fid x.i cause sub x.act (bad.foldl (fun t p => x.i.laneInfo t p.1 p.2) [])
    (match bad with | [] => 0 | p :: _ => p.2) x.late

/-- Fault whole with one address of the whole fragment. -/
def Issue.trapAt (x : Issue) (s : State) (cause : Cause) (sub : Nat) (a : DWord) : State :=
  takeTrap s x.wid x.fid x.i cause sub x.act (noteAccess (wholeInfo a 0) 0 a x.i.failKind) a x.late

/-- A stall on busy tokens or on pending registers: nothing happens, TOKW says what it stands on (Table 15.3). -/
def Issue.stall (x : Issue) (s : State) (toks : BitVec 16) : State := modFrag s x.wid x.fid fun f => { f with tokw := toks }

/-- The fragment leaves its slot at the instruction, to wait or to stall; a place in a queue of waiters is kept (R302). -/
def Issue.block (x : Issue) (s : State) (st : FragSt) (kind : WKind) (warg : Nat) (g : WaitData → WaitData) : State :=
  let order := if x.f.wait.order = 0 then s.freshId + 1 else x.f.wait.order
  let s := { s with freshId := s.freshId + 1 }
  modFrag s x.wid x.fid fun f => { f with st := st, wkind := kind, warg := BitVec.ofNat 28 warg, wait := g { f.wait with order := order } }

/-! ## Latches (R26, R28) -/

/-- The latch of a result: the result in active lanes, register D as it stands in the others (R26). Where D is one word, the spec does not
say what a 64-bit type finds above it: a free value, number `n` on. -/
def latchOf (w : Warp) (wide : Bool) (n : Nat) (d : Nat) (rs : List (Nat × DWord)) : Tbl DWord :=
  (List.range 96).foldl (fun t l =>
    let v := match rs.find? (fun p => p.1 == l) with
      | some p => p.2
      | none => w.vval wide d l
    Tbl.put t l (if wide then v else Config.freeWord (n + l) ++ v.setWidth 32)) []

/-- Free values that the latch of a one-word result takes up. -/
def latchDraws (wide : Bool) : Nat := if wide then 0 else 96

/-- The latch of a compare: n32 1 or 0 by the bits of a triple (R143). What a 64-bit type finds above them the spec does not say: free
values, as for any one-word result (log 15). -/
def bitLatch (n : Nat) (m : LaneMask) : Tbl DWord :=
  (List.range 96).foldl (fun t l => Tbl.put t l (Config.freeWord (n + l) ++ (if m.getLsbD l then (1 : Word) else 0))) []

/-- A new latch in front, four at most. -/
def pushLatch (s : State) (wid fid : Nat) (t : Tbl DWord) : State :=
  modFrag s wid fid fun f => { f with latches := (t :: f.latches).take 4 }

/-- Words of the register D that a producing instruction names, as a pair or one word. -/
def Instr.latchWide (i : Instr) : Bool :=
  match i with
  | .vclass _ | .vdot2 _ | .vdot4 _ | .vmxs _ => false
  | i => match i.shape with
    | .v _ _ f => f.ty.isL
    | _ => false

/-- A producing instruction that issues with no active lane: it counts as a producer, and its latch holds what register D, or the triple of
a compare, holds (R14, R26, R28). -/
def Issue.idle (x : Issue) (s : State) : State :=
  if latchClass x.i.opc != .producing then x.done (dropHold s x.wid x.fid)
  else match x.i with
    | .vcmp _ f =>
      x.done (pushLatch { s with freeCtr := s.freeCtr + latchDraws false } x.wid x.fid (bitLatch s.freeCtr (x.w.triple f.d.toNat)))
    | i => match i.shape with
      | .v _ _ f =>
        x.done (pushLatch { s with freeCtr := s.freeCtr + latchDraws i.latchWide } x.wid x.fid
          (latchOf x.w i.latchWide s.freeCtr f.d.toNat []))
      | _ => x.done s

/-! ## Splits (R18, R19) -/

/-- What becomes of a group of lanes. -/
inductive Fate where
  | done
  | fault (cause : Cause) (sub : Nat) (info : Tbl Word) (faddr : DWord)
  | target (pc : DWord)
  deriving DecidableEq, Repr

structure Piece where
  lanes : LaneMask
  fate  : Fate
  deriving DecidableEq, Repr

def Piece.isDone (p : Piece) : Bool :=
  match p.fate with
  | .done => true
  | _ => false

def Piece.isFault (p : Piece) : Bool :=
  match p.fate with
  | .fault _ _ _ _ => true
  | _ => false

/-- Insert by lowest lane. -/
def insertPiece (p : Piece) : List Piece → List Piece
  | [] => [p]
  | q :: qs => if lowLane p.lanes < lowLane q.lanes then p :: q :: qs else q :: insertPiece p qs

/-- The group that keeps the id first, then the others in ascending order of their lowest lane. -/
def arrange (ps : List Piece) : List Piece :=
  let sorted := ps.foldl (fun t p => insertPiece p t) []
  match sorted.find? Piece.isDone with
  | some d => d :: sorted.filter (fun p => !p.isDone)
  | none => sorted

/-- The fragment that a group becomes. -/
def pieceFrag (f : Frag) (p : Piece) (lanes : LaneMask) (next : DWord) : Frag :=
  { f with lanes := lanes, j := f.s, pidx := 0, tokw := 0, latches := [], reach := 0, replay := none, wkind := .none, warg := 0, skip := false,
           hidden := [], hidAct := 0, tokHeld := none, brk := none, wait := .empty, starve := 0, yield := [], due := false, cont := false,
           st := .ready, fw := 0, frame := 0,
           pc := match p.fate with
             | .done => next
             | .target pc => pc
             | .fault _ _ _ _ => f.pc }

/-- Parks of the fault groups, in order of their ids; none when frames are short and no effect was taken. -/
def parkPieces (s : State) (wid : Nat) (late : Bool) : List (Nat × ParkRec) → Option State
  | [] => some s
  | (fid, p) :: t =>
    match tryPark s wid fid p with
    | some s' => parkPieces s' wid late t
    | none => if late then parkPieces (pendPark s wid fid p) wid late t else none

/-- Divide a fragment into groups. `s0` is the state with no effect taken, `s` the state with the survivors' effects. -/
def Issue.split (x : Issue) (s0 s : State) (ps : List Piece) (mustPark : Bool := false) : State :=
  match findFrag s x.wid x.fid with
  | none => s
  | some (w, f) =>
    let late := mustPark || ps.any Piece.isDone
    let ids := (List.range 8).filter fun k => (Tbl.find w.frags k).isNone
    let need := ps.length - 1
    if w.level == .h && ps.any Piece.isFault then endHandler s x.wid
    else if decide (ids.length < need) || decide (coreEntries w.ctl < coreFrags s w.ctl w.core + need) then
      let left := ps.foldl (fun m p => if p.isDone then m else m ||| p.lanes) 0
      parkAs s x.wid x.fid (parkRec s x.w x.fid x.f x.i .fragx 0 left [] 0) late
    else
      let all := ps.foldl (fun m p => m ||| p.lanes) 0
      let made := (arrange ps).zip (x.fid :: ids)
      let put (t : Tbl Frag) (m : Piece × Nat) : Tbl Frag :=
        Tbl.put t m.2 (pieceFrag f m.1 (if m.2 = x.fid then m.1.lanes ||| (f.lanes &&& ~~~all) else m.1.lanes) x.nextPc)
      let s' := putWarp s x.wid { w with frags := made.foldl put w.frags }
      let parks := made.filterMap fun m => match m.1.fate with
        | .fault c sub info a => some (m.2, parkRec s x.w x.fid { x.f with pidx := 0 } x.i c sub m.1.lanes info a)
        | _ => none
      match parkPieces s' x.wid late parks with
      | some s'' => s''
      | none => stallFrames s0 x.wid x.fid ((parks.map fun p => p.2.fw).foldl max 1)

/-! ## Registers an instruction names (R30, R36) -/

/-- Vector registers written, first and count. -/
def Instr.vDst (i : Instr) : List (Nat × Nat) :=
  match i with
  | .vcmp _ _ | .vballot _ | .pload _ | .xcopy _ | .binit _ | .barr _ | .bexp _ | .bwait _ | .btest _ | .tld _ | .tst _ | .tzero _
  | .vtot _ | .ttr _ | .mma _ | .mmaz _ | .mmax _ | .mmaxz _ | .czero _ | .cst _ | .cld _ | .crel _ | .xbuild _ | .rcommit _ | .rfree _
  | .ttov _ | .ctov _ | .ncall _ | .rtrace _ | .rresume _ | .pwr _ | .pdone _ | .vst _ _ | .vgst _ _ | .vpref _ _ => []
  | .vmxs f => [(f.d.toNat, 2)]
  | .ralloc f => [(f.d.toNat, 2)]
  | .vclass f | .vdot2 f | .vdot4 f => [(f.d.toNat, 1)]
  | .vld fn f => [(f.d.toNat, fn.regs)]
  | .vgld fn f => [(f.d.toNat, fn.regs * f.n)]
  | i => match i.shape with
    | .v _ _ f => [(f.d.toNat, if f.ty.isL then 2 else 1)]
    | .vm _ _ f => [(f.d.toNat, if f.ty.isL then 2 else 1)]
    | _ => []

/-- Entries of a `vgldl` list. -/
def listLength (w : Warp) (fid : Nat) (f : Frag) (t : VMFmt) : Nat := (selInt w fid f 2 t.c 0).toNat

/-- Vector registers that the instruction still is to write; for a `vgldl`, those of the steps to come (R30, R166). -/
def Issue.vDst (x : Issue) : List (Nat × Nat) :=
  match x.i with
  | .vgldl fn t =>
    let n := listLength x.w x.fid x.f t
    if 3072 < n then [] else [(t.d.toNat + fn.regs * x.f.pidx.toNat, fn.regs * ((n + 95) / 96 - x.f.pidx.toNat))]
  | i => i.vDst

/-- Vector registers read through selectors or a vector condition, first and count. -/
def Instr.vSrc (i : Instr) : List (Nat × Nat) :=
  let one (b : Bool) (p : Nat) (s : Sel) : List (Nat × Nat) :=
    match s with
    | .vreg n => if b then [(n.toNat, i.selRegs p)] else []
    | _ => []
  let r := i.readsSel
  match i.shape with
  | .v _ _ f => one r.1 0 f.a ++ one r.2.1 1 f.b ++ one r.2.2 2 f.c
  | .vm _ _ f => one r.1 0 f.a ++ one r.2.2 2 f.c
  | .cx _ _ f => (match f.cond with | .vec v => [(v.toNat, 1)] | _ => [])
  | _ => []

/-- Scalar registers read or written, first and count. -/
def Instr.sRefs (i : Instr) : List (Nat × Nat) :=
  let tri (k : Nat) := (3 * k, 3)
  let g : List (Nat × Nat) := match i.guard with | some k => [tri k.toNat] | none => []
  let sel (p : Nat) (s : Sel) : List (Nat × Nat) :=
    match s with
    | .sreg n => [(n.toNat, if i.selIsInt p then 1 else if (i.selTy p).isL then 2 else 1)]
    | _ => []
  match i.shape with
  | .c _ _ _ | .walk _ _ _ _ _ _ | .ph _ _ _ _ _ _ | .event => []
  | .cx _ _ f =>
    (match f.cond with | .mask m => [tri m.toNat] | .scal n => [(n.toNat, 1)] | .vec _ => []) ++ (if f.lp = 0 then [] else [(f.lp.toNat, 2)])
  | .v _ _ f =>
    g ++ sel 0 f.a ++ sel 1 f.b ++ sel 2 f.c ++
    (match i with
     | .vcmp _ f => [tri f.d.toNat]
     | .vballot f => [tri f.d.toNat]
     | .vsel f => [tri (f.x.toNat % 128)]
     | .btest f => [(f.d.toNat, 1)]
     | _ => [])
  | .vm _ _ f => g ++ sel 0 f.a ++ sel 2 f.c ++ (if f.sb = 0 then [] else [(f.sb.toNat, 2)])
  | .s _ _ f =>
    (match i.sUses with
     | some (_, a, b, d) => a.refs f.aReg ++ b.refs f.bReg ++ d.refs f.d.toNat
     | none => []) ++
    (match i with
     | .ssel f => [(f.imm14.toNat, 1)]
     | _ => [])

/-- First lane of a lane's group of w lanes (R153). -/
def groupBase (w l : Nat) : Nat := l / w * w

/-- Group width in X[5:4] (R153). -/
def VFmt.groupW (f : VFmt) : Nat :=
  match f.x.toNat / 16 % 4 with
  | 0 => 96
  | 1 => 32
  | 2 => 8
  | _ => 4

/-- The lane that a lane of `vshfl`, `vbcast`, `vrot` or `vbfly` reads A in (R153, R157); none where C is taken. -/
def sourceLane (i : Instr) (w : Warp) (fid : Nat) (f : Frag) (l : Nat) : Option Nat :=
  let n (b : Sel) := (selInt w fid f 1 b l).toNat
  match i with
  | .vshfl x => if n x.b < 96 then some (n x.b) else none
  | .vbcast x => if n x.b < x.groupW then some (groupBase x.groupW l + n x.b) else none
  | .vrot x => some (groupBase x.groupW l + (l - groupBase x.groupW l + n x.b) % x.groupW)
  | .vbfly x => some (l ^^^ (n x.b % 32))
  | _ => some l

/-- Instructions that check their registers against T in an order of their own (R166, R188, R210), and prefetch, which never faults
(R169). -/
def Instr.ownRegx (i : Instr) : Bool :=
  match i with
  | .vtot _ | .ttov _ | .ctov _ | .ncall _ | .vgldl _ _ | .vpref _ _ => true
  | _ => false

/-- A register at or above T is named (R36). -/
def Issue.regHigh (x : Issue) : Bool :=
  x.act != 0 && !x.i.ownRegx && (x.i.vSrc ++ x.vDst).any fun p => decide (x.w.top < p.1 + p.2)

/-- Tokens of accesses that satisfy a test. -/
def Machine.Warp.tokensOf (w : Warp) (g : Access → Bool) : BitVec 16 :=
  w.access.foldl (fun m p => if g p.2 then m ||| (match p.2.tok with | some k => BitVec.ofNat 16 (2 ^ k) | none => 0) else m) 0

/-- An access still to land in a register the instruction reads or writes. -/
def Issue.hits (x : Issue) (a : Access) : Bool :=
  let far := x.lanes.filterMap (sourceLane x.i x.w x.fid x.f)
  let here (ls : List Nat) (p : Nat × Nat) : Bool := (List.range p.2).any fun j => ls.any fun l => (Tbl.find a.vdst (vkey (p.1 + j) l)).isSome
  ((x.i.vSrc ++ x.vDst).any (here x.lanes)) || (x.i.vSrc.any (here far)) ||
  (x.i.sRefs.any fun p => (List.range p.2).any fun j => (Tbl.find a.sdst (p.1 + j)).isSome)

/-- The scoreboard stalls the instruction (R30). -/
def Issue.pending (x : Issue) : Bool := x.w.access.any fun p => x.hits p.2

/-- Memory, tile and engine instructions, whose accesses stand in program order. -/
def ordersAccess (opc : Nat) : Bool :=
  opc == 0x47 || (0x60 ≤ opc && opc ≤ 0x6C && opc != 0x66) || (0x70 ≤ opc && opc ≤ 0x72) || opc == 0x81 || opc == 0x83

/-- Walks that lanes of the fragment launched before are still under way. An access of the fragment waits for them, so that accesses keep
the order of the program (R222, R223, R226, R234). DESIGN CHOICE (log 7). -/
def Issue.behindWalks (x : Issue) (s : State) : Bool :=
  ordersAccess x.i.opc && s.walks.any fun p => p.2.warp == x.wid && x.f.lanes.getLsbD p.2.lane

/-- A latch operand that is not there (R28): one that neither the reach nor the trap frame of a replay delivers. -/
def Issue.badLatch (x : Issue) : Bool :=
  let bad (p : Nat) (s : Sel) : Bool := s.latchNo != 0 && (x.f.replayArea p).isNone && decide (x.f.latches.length < s.latchNo)
  match x.i.shape with
  | .v _ _ f => bad 0 f.a || bad 1 f.b || bad 2 f.c
  | .vm _ _ f => bad 0 f.a || bad 2 f.c
  | _ => false

/-- NW = 1 outside its rule (R26, R28). -/
def Issue.badNw (x : Issue) : Bool :=
  x.i.nw && (latchClass x.i.opc != .producing || (x.w.alv x.f &&& ~~~x.w.level0) != 0)

/-- An error that warp `own` holds is delivered: the instruction parks with it, and it is delivered once (R179, R211). While frames are short
it stays. -/
def Issue.deliverOf (x : Issue) (s : State) (own : Nat) (e : TokErr) : State :=
  let s' := takeTrap s x.wid x.fid x.i e.cause e.sub.toNat x.act (wholeInfo e.addr e.detail) e.addr false
  match findFrag s' x.wid x.fid with
  | some (_, f) =>
    if f.st == .stalled then s' else modWarp s' own fun w => { w with errs := w.errs.filter (· != e) }
  | none => s'

/-- An error of the warp itself. -/
def Issue.deliver (x : Issue) (s : State) (e : TokErr) : State := x.deliverOf s x.wid e

/-- The error of a neural call on whose results, in these lanes and registers, the instruction has stalled (R211). -/
def Issue.rowError (x : Issue) (lanes : LaneMask) (regs : List (Nat × Nat)) : Option TokErr :=
  x.w.errs.find? fun e =>
    e.n != 0 && x.f.tokw.getLsbD e.tok && (lanes &&& e.lanes) != 0 &&
    regs.any fun p => decide (p.1 < e.d + e.n) && decide (e.d < p.1 + p.2)

/-- Stall on accesses that a test picks: bins that hold rows of theirs are flushed (R213). -/
def Issue.stallOn (x : Issue) (s : State) (busy : Access → Bool) : State :=
  x.stall (flushRows s fun r => r.warp == x.wid && (match Tbl.find x.w.access r.access with | some a => busy a | none => false))
    (x.w.tokensOf busy)

/-- An access has a word to land in these registers and lanes. -/
def Access.meets (a : Access) (lanes : List Nat) (regs : List (Nat × Nat)) : Bool :=
  regs.any fun p => (List.range p.2).any fun j => lanes.any fun l => (Tbl.find a.vdst (vkey (p.1 + j) l)).isSome

/-- Registers that an instruction checks after its own faults: stall on them while something is to land there (R30), and take the error of a
neural call whose results it has stalled on (R211). -/
def Issue.onRows (x : Issue) (s : State) (lanes : LaneMask) (regs : List (Nat × Nat)) (go : State) : State :=
  if x.w.access.any fun p => Access.meets p.2 (lanesOf lanes) regs then x.stallOn s fun a => Access.meets a (lanesOf lanes) regs
  else match x.rowError lanes regs with
    | some e => x.deliver s e
    | none => go

/-- The checks every Decmen instruction shares, and then its own effect. `full` marks the eight instructions that take their whole
effect with no active lane (R14). -/
def Issue.run (x : Issue) (s : State) (full : Bool) (eff : State → Issue → State) : State :=
  -- between the steps of a deprecated form nothing is decided anew (R158)
  if !x.f.hidden.isEmpty then eff s x
  else if isHandlerOpc x.i.opc && x.w.level == .u then x.trap s .priv 0
  else if x.w.ctl && isMainOnly x.i.opc then x.trap s .unavail 0
  else if x.act == 0 && !full then x.idle s
  else if x.badLatch || x.badNw then x.trap s .ill 0
  else if x.regHigh then x.trap s .regx 0
  else if x.pending then x.stallOn s x.hits
  else if x.behindWalks s then x.stall s 0
  else match x.rowError x.act (x.i.vSrc ++ x.vDst) with
    | some e => x.deliver s e
    | none => eff s x

/-- The instruction in the warp and fragment that execute it. -/
def mkIssue (i : Instr) (wid fid : Nat) (w : Warp) (f : Frag) : Issue :=
  { i := i, wid := wid, fid := fid, w := w, f := f, act := w.act f i.guard }

/-- Execute a Decmen instruction in the fragment in focus. -/
def issue (i : Instr) (full : Bool) (eff : State → Issue → State) (s : State) : Host.Outcome State Fault Refusal :=
  match s.focus with
  | some (.frag wid fid) =>
    (match findFrag s wid fid with
     | some (w, f) => .next (settleIfRetired w.alive ((mkIssue i wid fid w f).run s full eff) wid)
     | none => .fault .noFocus)
  | _ => .fault .noFocus

end Sys2Proof
end

