-- ==== Sys2Proof/Machine/Turns.lean ====
section
/-! DEFINITION. Who moves next (log 1) and what passing time does: the counters of R49 to R51, the timeouts of R172, the watchdog
counts of R317, the CORE charge of R292; and the fetch of walks (R241) and service cores (R338). -/

namespace Sys2Proof

open Machine

/-! ## The clock -/

/-- Cycle of the refresh schedule of a half: its windows cover the first 8,400 of every 134,400 cycles (R53). -/
def refreshPhase (clk half : Nat) : Nat := (clk + if half = 0 then 0 else 67200) % 134400

def inWindowAt (clk half : Nat) : Bool := decide (refreshPhase clk half < 8400)

/-- The windows that the schedule puts at this CLK. -/
def refreshClock (c : Clock) : Clock := { c with win0 := inWindowAt c.clk.toNat 0, win1 := inWindowAt c.clk.toNat 1 }

/-- A refresh window of a half is in progress. -/
def windowOpen (s : State) (half : Nat) : Bool := if half = 0 then s.clock.win0 else s.clock.win1

/-- TIME after some cycles of 10/21 ns, and a slew of at most 200 ppm: a nanosecond at each CLK multiple of 10,500, which is 5 µs, and
never backwards (R49, R365). -/
def tickTime (c : Clock) (n : Nat) : Clock :=
  let t := c.timeRem + 10 * n
  let ns := t / 21
  let lim : Nat := (c.clk.toNat + n) / 10500 - c.clk.toNat / 10500
  let d : Int := max (-(min lim ns : Nat)) (min lim c.slew)
  { c with clk := c.clk + BitVec.ofNat 64 n, time := BitVec.ofInt 64 ((c.time.toNat : Int) + ns + d), timeRem := t % 21, slew := c.slew - d }

/-- WTIM, the pending TIMER trap and the `swait` timeouts of a resident warp (R51, R172). -/
def Machine.Warp.tick (n : Nat) (w : Warp) : Warp :=
  if w.resid != .resident then w
  else
    let d := (w.pcr.wtcmp - w.pcr.wtim).toNat
    let hit := w.pcr.wtcmp != 0 && decide (1 ≤ d) && decide (d ≤ n)
    { w with
      pcr := { w.pcr with wtim := w.pcr.wtim + BitVec.ofNat 32 n },
      timer := w.timer || hit,
      frags := Tbl.mapVals w.frags fun _ f =>
        match f.wait.left with
        | some k => { f with wait := { f.wait with left := some (k - n) } }
        | none => f }

/-- Every warp of a list that has not ended is resident (R317). -/
def allResident (s : State) (wids : List Nat) : Bool :=
  wids.all fun k => match Tbl.find s.warps k with | some w => w.ended || w.resid == .resident | none => true

/-- Watchdog counts of open rounds (R317). -/
def tickRounds (s : State) (n : Nat) : State :=
  { s with
    wgs := Tbl.mapVals s.wgs fun _ g =>
      if g.rounds.isEmpty || !allResident s g.warps then g
      else { g with rounds := Tbl.mapVals g.rounds fun _ r => { r with count := r.count + n } },
    cgs := Tbl.mapVals s.cgs fun k c =>
      if c.rounds.isEmpty || !allResident s (cgWarps s k) then c
      else { c with rounds := Tbl.mapVals c.rounds fun _ r => { r with count := r.count + n } } }

/-- A fragment in a wait that the scheduler sees (R37), or held until such a one goes on. -/
def Machine.Frag.descheduled (f : Frag) : Bool :=
  f.st == .held || (f.st == .waiting &&
    (f.wkind == .swait || f.wkind == .bwait || f.wkind == .ralloc || f.wkind == .vacq || f.wkind == .line))

/-- Every warp of a workgroup stands descheduled. -/
def wgDescheduled (s : State) (g : Wg) : Bool :=
  g.resid == .resident && g.warps.all fun k => match Tbl.find s.warps k with
    | some w => w.ended || w.inVacq || w.frags.all fun p => p.2.descheduled
    | none => true

/-- CLK since which workgroups stand descheduled (R297). -/
def tickIdle (s : State) : State :=
  { s with wgs := Tbl.mapVals s.wgs fun _ g => { g with idle := if wgDescheduled s g then some (g.idle.getD (clkNat s)) else none } }

/-- One unit of CORE per cycle per core on which a warp of a context and class is resident (R292). -/
def chargeCores (s : State) (n : Nat) : State :=
  let on (w : Warp) : Option (Bool × Nat × Nat × Cls) := if w.resid == .resident then some (w.ctl, w.core, w.ctx, w.cls) else none
  let uniq := (s.warps.filterMap fun p => on p.2).foldl (fun l k => if l.contains k then l else k :: l) []
  uniq.foldl (fun s k => chargeBudget s k.2.2.1 k.2.2.2 0 n) s

/-- CORE of some cycles, which a period boundary may divide (R292): each cycle counts in its own period. -/
def chargeCycles (s : State) (n : Nat) : State :=
  let m := 2100000 - clkNat s % 2100000
  if n ≤ m then chargeCores s n
  else { chargeCores { chargeCores s m with clock := { s.clock with clk := s.clock.clk + BitVec.ofNat 64 m } } (n - m) with clock := s.clock }

/-- THROT counts the cycles in which a start or an issue was withheld (R366). -/
def countThrottled (s : State) (n : Nat) : State :=
  let b := s.board
  if b.space = 0 && b.withhold = 0 then s
  else modBoard s fun b => { b with throt := b.throt + BitVec.ofNat 64 (min n (Config.throttled b.space b.withhold (clkNat s) n)) }

/-- Cycles pass. -/
def tick (s : State) (n : Nat) : State :=
  let s := chargeCycles s n
  let s := tickIdle (tickRounds s n)
  let s := countThrottled s n
  { s with clock := refreshClock (tickTime s.clock n), warps := Tbl.mapVals s.warps fun _ w => w.tick n }

/-! ## Turns -/

/-- The steps of the part that have no encoding, but for the two that a fragment itself takes at its fetch. -/
def Instr.isEvent (i : Instr) : Bool :=
  match i with
  | .unassignedEncoding _ _ | .timer => false
  | i => match i.shape with
    | .event => true
    | _ => false

/-- What moves when the list of turns is empty: whoever is executing, else the clock. DESIGN CHOICE (log 1). -/
def defaultTurn (s : State) : Turn :=
  match s.focus with
  | some (.frag wid fid) =>
    (match findFrag s wid fid with
     | some (_, f) => if f.st == .running then .issue wid fid else .clock 1
     | none => .clock 1)
  | some (.walk id) =>
    (match Tbl.find s.walks id with
     | some _ => .walk id
     | none => .clock 1)
  | some (.ph core) => .ph core
  | none => .clock 1

def nextTurn (s : State) : Turn × State :=
  match s.turns with
  | [] => (defaultTurn s, s)
  | t :: ts => (t, { s with turns := ts })

/-- Frames are free for a fragment that stalls in its slot (R306). -/
def framesFree (s : State) (w : Warp) (f : Frag) : Bool :=
  match Tbl.find s.launches (frameLaunch s w) with
  | some L => (freeRun L f.wait.arg.toNat).isSome
  | none => false

/-- A fragment may execute its next instruction: running, or stalled for frames that are free now. -/
def mayIssue (s : State) (w : Warp) (f : Frag) : Bool :=
  w.resid == .resident && !ctxHalted s w.ctx 400 &&
  ((f.st == .running && f.wkind != .peer) || (f.st == .stalled && f.wkind == .frames && f.wait.pend.isNone && !f.wait.slotless && framesFree s w f))

/-- What a fragment executes next: TIMER where its reach was won while one was pending (R51), else the instruction at its PC. -/
def nextOfFrag (s : State) (w : Warp) (f : Frag) : Instr := if f.due && w.timer then .timer else fetchAt s w f.pc

/-- The state in which a fragment executes. -/
def focusFrag (s : State) (wid fid : Nat) : State :=
  { modFrag s wid fid fun f => { f with st := .running, wkind := .none } with focus := some (.frag wid fid) }

/-- The micro-operation at a walk's UPC (R240); past the end there is none. -/
def walkInstr (s : State) (k : Walk) : Option Instr :=
  match Tbl.find s.launches k.launch with
  | none => none
  | some L => (match (L.walks.getD k.prog none) with
    | none => none
    | some p => (p.code[k.upc]?).bind decodeWalk)

/-- Code word of a service core (R338). -/
def phWord (s : State) (core : Nat) : Option Word :=
  (Tbl.find s.ph core).map fun c => BitVec.ofNat 32 (Memory.le s.sram c.pc.toNat 4)

/-- An exception of a RISC-V core, taken in machine mode at mtvec. PRESUMED (log 6). -/
def Machine.PhCore.trap (c : PhCore) (cause : Nat) (tval : DWord) : PhCore :=
  { c with mcause := BitVec.ofNat 64 cause, mepc := c.pc, mtval := tval, machine := true, pc := c.mtvec &&& ~~~(3 : DWord), wait := none,
           mstatus := (c.mstatus &&& ~~~(0x1888 : DWord)) ||| (if c.mstatus.getLsbD 3 then 0x80 else 0) ||| (if c.machine then 0x1800 else 0) }

/-- The exception of a service core (R340): illegal instruction and the like. -/
def phTrap (s : State) (core cause : Nat) (tval : DWord) : State := { s with ph := Tbl.modify s.ph core fun c => c.trap cause tval }

/-- The host writes its own memory. -/
def hostWrite (s : State) (a : Nat) (bs : List Byte) : State := { s with host := Memory.stores s.host a bs }

end Sys2Proof
end

