-- ==== Sys2Proof/Machine/Link.lean ====
section
/-! DEFINITION. Atomic operations (R167, Table 07.3) and accesses that leave the device: Causeway headers and routes (R359, R360), the
target side of a peer access (R335, R336), and requests to peers and to the host (R337, R358). -/

namespace Sys2Proof

open Machine

/-! ## Atomic operations (Table 07.3) -/

/-- Float atomics: RNE, nothing saturated or flushed, canonical NaN. -/
def FEnv.atomic : FEnv := { rm := .rne, sat := false, ftz32 := false, ftz16 := false, ntag := false, pc := 0 }

/-- Smaller or larger; one NaN gives the other value, two give m quieted. -/
def atomMinMax (ff : FF) (isMax : Bool) (m c : Nat) : Nat :=
  if ff.isNan m && ff.isNan c then ff.quiet m
  else if ff.isNan m then c
  else if ff.isNan c then m
  else ff.minmax .atomic isMax m c

/-- New value of one element. -/
def atomElem (op : AtomOp) (ty : VTy) (m c : Nat) : Nat :=
  let w := ty.width
  let i (v : Nat) : Int := toI ty.isSigned w v
  match op with
  | .add => wrapI w (i m + i c)
  | .sub => wrapI w (i m - i c)
  | .min => if i c < i m then c else m
  | .max => if i m < i c then c else m
  | .and => m &&& c
  | .or => m ||| c
  | .xor => m ^^^ c
  | .xchg | .cas => c
  | .fadd => ty.ff.add .atomic 0 m c
  | .fmin => atomMinMax ty.ff false m c
  | .fmax => atomMinMax ty.ff true m c

/-- New memory value; `old` is the compare value of `cas`. -/
def atomNew (op : AtomOp) (ty : VTy) (m c old : DWord) : DWord :=
  if op = .cas && m != old then m
  else ty.pack ((List.range ty.count).map fun j => atomElem op ty (elemAt ty.width m j) (elemAt ty.width c j))

/-- Bytes of an atomic access. -/
def atomBytes (ty : VTy) : Nat := if ty.isL then 8 else 4

def AtomOp.ofCode (n : Nat) : Option AtomOp :=
  [AtomOp.add, .sub, .min, .max, .and, .or, .xor, .xchg, .cas, .fadd, .fmin, .fmax][n]?

def VTy.ofCode (n : Nat) : Option VTy :=
  [VTy.s32, .n32, .s16x2, .n16x2, .s8x4, .n8x4, .f32, .f16x2, .bf16x2, .e4m3x4, .e5m2x4, .e2m1x8, .b32, .s64, .n64][n]?

/-- Perform an atomic at a place; the value read and the state after. -/
def performAtomic (s : State) (l : Loc) (op : AtomOp) (ty : VTy) (c old : DWord) : DWord × State :=
  let n := atomBytes ty
  let m := BitVec.ofNat 64 (leNat (readLoc s l n))
  (m, writeLoc s l (leBytes n (atomNew op ty m c old).toNat))

/-- Operand bytes of an atomic request: c, the compare value, the type. DESIGN CHOICE (log 11): Table 18.2 gives the payload no layout. -/
def atomPayload (ty : VTy) (c old : DWord) : List Byte := leBytes 8 c.toNat ++ leBytes 8 old.toNat ++ [BitVec.ofNat 8 ty.code.toNat]

/-! ## Causeway headers and routes -/

structure Header where
  kind   : Nat
  aop    : Nat
  bytes  : Nat
  ddev   : Nat
  sdev   : Nat
  sctx   : Nat
  status : Nat
  off    : Nat
  tag    : Nat
  deriving DecidableEq, Repr

/-- The 16-byte header of Table 18.2. -/
def Header.pack (h : Header) : BitVec 128 :=
  BitVec.ofNat 128 (h.kind % 256 + h.aop % 256 * 2 ^ 8 + h.bytes % 8192 * 2 ^ 16 +
    (h.ddev % 512 + h.sdev % 512 * 2 ^ 9 + h.sctx % 1024 * 2 ^ 18 + h.status % 16 * 2 ^ 28) * 2 ^ 32 +
    (h.off % 2 ^ 48 + h.tag % 65536 * 2 ^ 48) * 2 ^ 64)

/-- The number by which a standalone device knows itself is 0 (R370). -/
def selfDev (s : State) : Nat := if s.board.standalone then 0 else s.board.devnum.toNat

/-- Links of a partition that reach a device now (R360). -/
def linksTo (s : State) (part dev : Nat) : BitVec 18 :=
  match Tbl.find s.parts part with
  | none => 0
  | some p => Tbl.read 0 s.net.routes dev &&& p.lkmask &&& s.net.linksUp.setWidth 18

/-- Where a path-0x4 access of a context to a device goes. -/
inductive PeerWay where
  | loop | links | noRoute
  deriving DecidableEq, Repr

def peerWay (s : State) (ctx dev : Nat) : PeerWay :=
  if dev = selfDev s then .loop
  else if s.board.standalone then .noRoute
  else match Tbl.find s.ctxs ctx with
    | none => .noRoute
    | some c => if linksTo s c.desc.part dev = 0 then .noRoute else .links

/-- Send a message into the fabric. -/
def sendCauseway (s : State) (h : Header) (payload : List Byte) : State :=
  modNet s fun n => { n with outbox := n.outbox ++ [(h.pack, payload)] }

/-! ## The target side (R335, R336) -/

/-- The valid grant of an initiator. -/
def grantOf (s : State) (sdev sctx : Nat) : Option DWord :=
  (s.grants.find? fun p => p.2.getLsbD 63 && p.2.toNat / 2 ^ 32 % 512 == sdev && p.2.toNat / 2 ^ 16 % 1024 == sctx).map (·.2)

/-- The check that an access fails at its target (R336). -/
inductive PeerCheck where
  | grant | right | page | prot | route
  deriving DecidableEq, Repr

def PeerCheck.code : PeerCheck → Nat
  | .grant => 0
  | .right => 1
  | .page => 2
  | .prot => 3
  | .route => 4

/-- A target fault: one event for the owner of the target context, or of the device where no grant names one, with SDEV, SCTX, the
offset and the failed check. -/
def targetFaulted (s : State) (tctx : Option Nat) (sdev sctx off : Nat) (why : PeerCheck) : State :=
  let e : Event := { kind := .peerFault, a := why.code * 2 ^ 20 + sdev * 1024 + sctx, b := off }
  match tctx with
  | some c => ctxEvent s c e
  | none => devEvent s e

/-- A device number with no route: the event is the initiating device's, with the number above the offset. -/
def unrouted (s : State) (sctx dev off : Nat) : State := targetFaulted s none (selfDev s) sctx (dev * 2 ^ 48 + off) .route

/-- Right of a grant for a kind: 1 load, 2 store, 3 atomic. -/
def grantAllows (g : DWord) (kind : Nat) : Bool :=
  match kind with
  | 1 => g.getLsbD 60
  | 2 => g.getLsbD 61
  | 3 => g.getLsbD 62
  | _ => false

/-- Physical addresses of the bytes of a peer access, or the check that fails. -/
def peerBytes (s : State) (tctx : Nat) (k : Kind) : Nat → Nat → Except PeerCheck (List Nat)
  | _, 0 => .ok []
  | o, n + 1 =>
    match translate s tctx o k false true with
    | .error c => .error (if c = .page then .page else .prot)
    | .ok pa => (peerBytes s tctx k (o + 1) n).map (pa :: ·)

def storeBytes (s : State) (as : List Nat) (bs : List Byte) : State := writeLocs s (as.map .hbm) bs

/-- The checks of an inbound access of `n` bytes: 1 load, 2 store, 3 atomic. The physical addresses, or the check that fails and the
target context where a grant names one. -/
def targetCheck (s : State) (sdev sctx off kind n : Nat) : Except (Option Nat × PeerCheck) (List Nat) :=
  match grantOf s sdev sctx with
  | none => .error (none, .grant)
  | some g =>
    if !grantAllows g kind then .error (some (g.toNat % 1024), .right)
    else match peerBytes s (g.toNat % 1024) (if kind = 1 then .ld else if kind = 2 then .st else .at) off n with
      | .error c => .error (some (g.toNat % 1024), c)
      | .ok as => .ok as

/-- An inbound load, store or atomic: the bytes that the completion returns, or none for a target fault, and the state after. -/
def targetAccess (s : State) (sdev sctx off kind aop bytes : Nat) (payload : List Byte) : Option (List Byte) × State :=
  let ty := (payload[16]?).bind fun b => VTy.ofCode b.toNat
  let n := if kind = 3 then (match ty with | some t => atomBytes t | none => 4) else bytes
  match targetCheck s sdev sctx off kind n with
  | .error e => (none, targetFaulted s e.1 sdev sctx off e.2)
  | .ok as =>
    if kind = 1 then (some (as.map (Memory.byte s.hbm)), s)
    else if kind = 2 then (some [], storeBytes s as payload)
    else match AtomOp.ofCode aop, ty, as with
      | some op, some t, pa :: _ =>
        let r := performAtomic s (.hbm pa) op t (BitVec.ofNat 64 (leNat (payload.take 8))) (BitVec.ofNat 64 (leNat ((payload.drop 8).take 8)))
        (some (leBytes n r.1.toNat), r.2)
      | _, _, _ => (none, targetFaulted s none sdev sctx off .right)

/-- Where an aligned access of `n` bytes ends: an access looped back to this device at a place of its memory, any other where it was
going; none where it faults PEER, with its event. -/
def peerHome (s : State) (ctx kind n : Nat) (l : Loc) : Option Loc × State :=
  match l with
  | .peer d o =>
    (match peerWay s ctx d with
     | .noRoute => (none, unrouted s ctx d o)
     | .links => (some l, s)
     | .loop =>
       (match targetCheck s (selfDev s) ctx o kind n with
        | .ok as => (some (.hbm (as.headD 0)), s)
        | .error e => (none, targetFaulted s e.1 (selfDev s) ctx o e.2)))
  | l => (some l, s)

/-! ## Requests (R337, R358) -/

/-- A request in flight under a fresh tag, which is its key. -/
def addReq (s : State) (r : Req) : Nat × State :=
  let t := s.net.nextTag
  (t.toNat, modNet s fun n => { n with nextTag := t + 1, reqs := Tbl.put n.reqs t.toNat { r with tag := t, sent := s.clock.clk.toNat } })

/-- Send a request to a peer over the fabric. -/
def sendReq (s : State) (r : Req) (dev off aop : Nat) (payload : List Byte) : Nat × State :=
  let q := addReq s r
  (q.1, sendCauseway q.2
    { kind := r.kind, aop := aop, bytes := if r.kind = 1 then r.bytes else payload.length, ddev := dev, sdev := selfDev s, sctx := r.ctx,
      status := 0, off := off, tag := q.1 } payload)

/-- Cycles of the host link's completion limit, 50 µs (R358). -/
def hostLimit : Nat := 105000

end Sys2Proof
end

