-- ==== Sys2Proof/Machine/Access.lean ====
section
/-! DEFINITION. One memory access by lanes of a fragment: the checks of R160 in their order, performing (R163, R168; log 7), landing
(R161), and accesses to peers and to the host, whose lanes end later (R160 step 6, R337, R358). -/

namespace Sys2Proof

open Machine

/-! ## Order that no program can predict (R163, R168; log 2) -/

/-- Insert by rank, after equals. -/
def insertRank {α : Type} (r : Nat) (a : α) : List (Nat × α) → List (Nat × α)
  | [] => [(r, a)]
  | p :: ps => if r < p.1 then (r, a) :: p :: ps else p :: insertRank r a ps

/-- A list put in the free order number `n`. -/
def freeOrder {α : Type} (n : Nat) (l : List α) : List α :=
  ((l.zipIdx.foldl (fun t p => insertRank (Config.lanePriority n p.2) p.1 t) []).map (·.2))

/-- Each number is larger than the one before. -/
def rising : List Nat → Bool
  | [] => true
  | k :: ks => (match ks with
      | [] => true
      | j :: _ => decide (k < j)) && rising ks

/-- No number stands twice. -/
def noRepeat : List Nat → Bool
  | [] => true
  | k :: ks => !ks.contains k && noRepeat ks

/-- No two of these numbers are equal: rising ones are seen to be at once. -/
def distinctKeys (ks : List Nat) : Bool := rising ks || noRepeat ks

/-- A number for a place. -/
def Loc.key : Loc → Nat
  | .hbm pa => 8 * pa
  | .scratch _ o => 8 * o + 1
  | .weights o => 8 * o + 2
  | .host a => 8 * a + 3
  | .peer d o => 8 * (d * 2 ^ 48 + o) + 4

def Loc.remote : Loc → Bool
  | .peer _ _ | .host _ => true
  | _ => false

/-- Things at places, in order; in a free order when two share a place. -/
def inOrder {α : Type} (s : State) (l : List (Loc × α)) : List (Loc × α) × State :=
  if distinctKeys (l.map fun p => p.1.key) then (l, s) else (freeOrder s.freeCtr l, { s with freeCtr := s.freeCtr + 1 })

/-! ## Values -/

/-- Bytes of a load size. -/
def LdFn.bytes : LdFn → Nat
  | .b8z | .b8s => 1
  | .b16z | .b16s => 2
  | .b32 => 4
  | .b64 => 8
  | .b128 => 16

def LdFn.signed : LdFn → Bool
  | .b8s | .b16s => true
  | _ => false

def StFn.bytes : StFn → Nat
  | .b8 => 1
  | .b16 => 2
  | .b32 => 4
  | .b64 => 8
  | .b128 => 16

/-- 32-bit words of a byte string. -/
def wordsOf : Nat → List Byte → List Word
  | 0, _ => []
  | n + 1, bs => BitVec.ofNat 32 (leNat (bs.take 4)) :: wordsOf n (bs.drop 4)

/-- Loaded bytes as register words (Table 07.1). -/
def LdFn.words (fn : LdFn) (bs : List Byte) : List Word :=
  if fn.bytes < 4 then [BitVec.ofNat 32 (wrapI 32 (toI fn.signed (8 * fn.bytes) (leNat bs)))] else wordsOf fn.regs bs

/-- Pieces of at most 4 bytes with their offsets: single-copy atomic words (R163). -/
def pieces4 : Nat → Nat → List Byte → List (Nat × List Byte)
  | 0, _, _ => []
  | n + 1, o, bs => if bs.isEmpty then [] else (o, bs.take 4) :: pieces4 n (o + 4) (bs.drop 4)

/-! ## What an instruction moves -/

/-- The token of an asynchronous memory instruction. -/
def Instr.token (i : Instr) : Option Nat :=
  match i.shape with
  | .vm _ _ f => if f.te then some f.k.toNat else none
  | _ => none

def Instr.memKind (i : Instr) : Kind :=
  match i with
  | .vst _ _ | .vgst _ _ | .sst _ => .st
  | .vatom _ _ | .satom _ _ => .at
  | _ => .ld

/-- Kind of a peer access: 1 load, 2 store, 3 atomic (Table 18.2). -/
def Machine.Kind.peerCode : Kind → Nat
  | .ld | .ex => 1
  | .st => 2
  | .at => 3

/-- Operation, type, operand c and compare value of an atomic in one lane. -/
def Issue.atomArgs (x : Issue) (l : Nat) : AtomOp × VTy × DWord × DWord :=
  match x.i with
  | .vatom op f => (op, f.ty, selVal x.w x.fid x.f f.ty 2 f.c l, x.w.vval f.ty.isL f.d.toNat l)
  | .satom op f => (op, f.ty.vty, x.w.sval f.ty.wide f.bReg, x.w.sval f.ty.wide f.d.toNat)
  | _ => (.add, .n32, 0, 0)

/-- Bytes that a store moves. -/
def Issue.storeData (x : Issue) (a : LAcc) : List Byte :=
  match x.i with
  | .vst fn f =>
    (match fn, f.c with
     | .b128, .vreg n => (List.range 4).flatMap fun j => wordBytes (x.w.vreg (n.toNat + j) a.lane)
     | fn, c => leBytes fn.bytes (selVal x.w x.fid x.f (if fn.regs = 2 then .n64 else .s32) 2 c a.lane).toNat)
  | .vgst fn f =>
    (match f.c with
     | .vreg n => ((List.range fn.regs).flatMap fun j => wordBytes (x.w.vreg (n.toNat + fn.regs * a.elem + j) a.lane)).take fn.bytes
     | _ => [])
  | .sst f => leBytes a.n (x.w.sval (a.n == 8) f.d.toNat).toNat
  | _ => []

/-- Vector registers that bytes read for an access land in. -/
def Issue.landV (x : Issue) (a : LAcc) (bs : List Byte) : List (Nat × Word) :=
  let place (r : Nat) (ws : List Word) := ws.zipIdx.map fun p => (vkey (r + p.2) a.lane, p.1)
  match x.i with
  | .vld fn f => place f.d.toNat (fn.words bs)
  | .vgld fn f => place (f.d.toNat + fn.regs * a.elem) (fn.words bs)
  | .vgldl fn f => place (f.d.toNat + fn.regs * x.f.pidx.toNat) (fn.words bs)
  | .vatom _ f => place f.d.toNat (wordsOf (if f.ty.isL then 2 else 1) bs)
  | _ => []

/-- Size, extension and registers of `sld` (Table 07.4). -/
def sldFn (z : Nat) : LdFn :=
  match z with
  | 0 => .b8z
  | 1 => .b8s
  | 2 => .b16z
  | 3 => .b16s
  | 4 => .b32
  | _ => .b64

/-- Scalar registers that bytes read land in. -/
def Issue.landS (x : Issue) (bs : List Byte) : List (Nat × Word) :=
  let place (r : Nat) (ws : List Word) := ws.zipIdx.map fun p => (r + p.2, p.1)
  match x.i with
  | .sld f => place f.d.toNat ((sldFn f.z.toNat).words bs)
  | .satom _ f => place f.d.toNat (wordsOf (if f.ty.wide then 2 else 1) bs)
  | _ => []

def listTbl (l : List (Nat × Word)) : Tbl Word := l.foldl (fun t p => Tbl.put t p.1 p.2) []

/-! ## Performing -/

/-- Bytes read at a place under an address: path 0x7 reads as an instruction fetch does (R59, R233). -/
def Issue.readAt (x : Issue) (s : State) (a : DWord) (salt : Nat) (l : Loc) (n : Nat) : List Byte :=
  if pathOf a = 7 then agedLoc s (launchStart s x.w.launch) salt l n else readLoc s l n

/-- The bytes each access reads, and the state after, for accesses at places that belong to this device. -/
def Issue.perform (x : Issue) (s : State) (ps : List (LAcc × Loc)) : List (LAcc × List Byte) × State :=
  match x.i.memKind with
  | .ld | .ex =>
    (ps.map fun p => (p.1, x.readAt s p.1.addr (p.1.lane + 1) p.2 p.1.n), s)
  | .st =>
    let ws := ps.flatMap fun p => (pieces4 4 0 (x.storeData p.1)).map fun q => (p.2.plus q.1, q.2)
    let r := inOrder s ws
    ([], r.1.foldl (fun s p => writeLoc s p.1 p.2) r.2)
  | .at =>
    let r := inOrder s (ps.map fun p => (p.2, p.1))
    r.1.foldl (fun acc p =>
      let g := x.atomArgs p.2.lane
      let q := performAtomic acc.2 p.1 g.1 g.2.1 g.2.2.1 g.2.2.2
      (acc.1 ++ [(p.2, leBytes p.2.n q.1.toNat)], q.2)) ([], r.2)

/-- An access in flight: what lands when it completes, and the token it holds (R161). -/
def addAccess (s : State) (wid : Nat) (a : Access) : State :=
  if a.tok.isNone && a.vdst.isEmpty && a.sdst.isEmpty then s
  else
    let q := fresh s
    modWarp q.2 wid fun w =>
      let w := match a.tok with | some k => w.tokAdd k | none => w
      { w with access := Tbl.put w.access q.1 a }

def Machine.Access.plain (fid : Nat) (lanes : LaneMask) : Access :=
  { tok := none, frag := fid, vdst := [], sdst := [], lanes := lanes, tiles := [], accs := [], tilesR := [], accsR := [],
    tdst := [], adst := [], lines := [] }

/-- Put what accesses read on its way to the registers. -/
def Issue.landing (x : Issue) (s : State) (tok : Option Nat) (got : List (LAcc × List Byte)) : State :=
  let a : Access :=
    { Machine.Access.plain x.fid x.f.lanes with
      tok := tok, vdst := listTbl (got.flatMap fun p => x.landV p.1 p.2), sdst := listTbl (got.flatMap fun p => x.landS p.2) }
  addAccess s x.wid a

/-! ## The end of an access -/

def Cause.sameIn (l : List (Nat × Cause × Nat × DWord)) : Bool :=
  match l with
  | [] => true
  | p :: ps => ps.all fun q => q.2.1 == p.2.1

/-- An access has ended in every lane: complete, split, or park whole. `s0` is the state with no effect taken. -/
def Issue.conclude (x : Issue) (s0 s : State) (done : LaneMask) (faults : List (Nat × Cause × Nat × DWord))
    (late : Bool := false) : State :=
  match faults with
  | [] => x.done s
  | (_, c, sub, _) :: _ =>
    let info := faults.foldl (fun t p => x.i.laneInfo t p.1 p.2.2.2) []
    let faddr := faults.headD (0, .none, 0, 0)
    let act := faults.foldl (fun m p => m ||| laneBit p.1) 0
    if done = 0 && Cause.sameIn faults then takeTrap s x.wid x.fid x.i c sub act info faddr.2.2.2 late
    else
      let ps := faults.foldl (fun ps p => addCause x.i p.1 p.2.1 p.2.2.1 p.2.2.2 ps) []
      x.split s0 s (if done = 0 then ps else { lanes := done, fate := .done } :: ps) late
where
  /-- A lane joins the group of its cause. -/
  addCause (i : Instr) (l : Nat) (c : Cause) (sub : Nat) (a : DWord) : List Piece → List Piece
    | [] => [{ lanes := laneBit l, fate := .fault c sub (i.laneInfo [] l a) a }]
    | p :: ps =>
      match p.fate with
      | .fault c' sub' info a' =>
        if c' = c then { lanes := p.lanes ||| laneBit l, fate := .fault c' sub' (i.laneInfo info l a) a' } :: ps
        else p :: addCause i l c sub a ps
      | _ => p :: addCause i l c sub a ps

/-- The token of a `vgldl` stays busy between its steps (R29). -/
def Issue.holdToken (x : Issue) (s : State) : State :=
  match x.f.tokHeld, x.i.token with
  | none, some k => modFrag (modWarp s x.wid fun w => w.tokAdd k) x.wid x.fid fun f => { f with tokHeld := some k }
  | _, _ => s

/-- A step of `vgldl` has ended: the next step, or the end (R166). -/
def Issue.nextStep (x : Issue) (s : State) (steps : Nat) : State :=
  if x.f.pidx.toNat + 1 < steps then
    modFrag (x.holdToken s) x.wid x.fid fun f => { f with pidx := f.pidx + 1, wkind := .none, wait := .empty }
  else x.done (dropHold s x.wid x.fid)

/-- Count of entries of a `vgldl` list. -/
def Issue.listCount (x : Issue) (f : VMFmt) : Nat := listLength x.w x.fid x.f f

/-- INFO of the faulting entries of a step, all of them; the pump house walks those again that faulted PAGE or PROT. -/
def Issue.stepInfo (x : Issue) (faults : List (Nat × Cause × Nat × DWord)) : Tbl Word :=
  faults.foldl (fun t p =>
    if p.2.1 = .page || p.2.1 = .prot then x.i.laneInfo t p.1 p.2.2.2 else Tbl.write 0 t p.1 (p.2.2.2.setWidth 32)) []

/-- Everything has come: the remaining accesses of the lanes that go on are performed, and the instruction ends. -/
def Issue.finishAccess (x : Issue) (s0 s : State) (done : LaneMask) (faults : List (Nat × Cause × Nat × DWord)) (got : List (LAcc × List Byte))
    (rest : List LAcc) : State :=
  match x.i with
  | .vgldl _ f =>
    (match faults with
     | (_, c, sub, a) :: _ =>
       takeTrap s x.wid x.fid x.i c sub x.act (x.stepInfo faults) a x.late
     | [] =>
       let r := x.perform s (locate s rest)
       x.nextStep (if got.isEmpty && r.1.isEmpty then r.2 else x.landing r.2 x.i.token (got ++ r.1)) ((x.listCount f + 95) / 96))
  | _ =>
    let keep := rest.filter fun a => done.getLsbD a.lane
    let r := x.perform s (locate s keep)
    let got := got.filter fun p => done.getLsbD p.1.lane
    x.conclude s0 (if got.isEmpty && r.1.isEmpty then r.2 else x.landing r.2 x.i.token (got ++ r.1)) done faults
where
  /-- The places of accesses that passed their checks. -/
  locate (s : State) (as : List LAcc) : List (LAcc × Loc) :=
    as.filterMap fun a => match resolve s { ctx := x.w.ctx, wg := some x.w.wg } a.addr a.n x.i.memKind with
      | .ok l => (peerHome s x.w.ctx x.i.memKind.peerCode a.n l).1.map fun l => (a, l)
      | .error _ => none

/-! ## The checks of R160 -/

def Issue.who (x : Issue) : Who := { ctx := x.w.ctx, wg := some x.w.wg }

/-- The first access of each lane that fails a test. -/
def firstPerLane : List LAcc → List LAcc
  | [] => []
  | a :: as => a :: (firstPerLane as).filter fun b => b.lane != a.lane

def lanesAddrs (as : List LAcc) : List (Nat × DWord) := (firstPerLane as).map fun a => (a.lane, a.addr)

/-- A path-0x3 access waits for an open refresh window of the half that holds the byte (R53). -/
def inRefresh (s : State) (a : DWord) : Bool := pathOf a == 3 && windowOpen s (offOf a / 2 ^ 29 % 2)

/-- The access lies in a locked region of its workgroup, and no region holds a locked entry for it (R173, R328). -/
def lockMiss (s : State) (wg : Nat) (a : DWord) : Bool :=
  let p := pathOf a
  (p == 0 || p == 1 || p == 6) && !(lockStates s (some wg) (offOf a)).isEmpty && (lockStates s (some wg) (offOf a)).all (· == .lost)

/-- Absent lines that accesses touch, as line numbers. -/
def absentLines (s : State) (wg : Nat) (as : List (DWord × Nat)) : List Nat :=
  match Tbl.find s.wgs wg with
  | none => []
  | some g => as.flatMap fun a =>
      if pathOf a.1 == 2 then
        (List.range ((offOf a.1 + a.2 - 1) / 128 - offOf a.1 / 128 + 1)).filterMap fun i =>
          if (Tbl.find g.absent (offOf a.1 / 128 + i)).isSome then some (offOf a.1 / 128 + i) else none
      else []

/-- Wait for scratchpad lines (R174). -/
def Issue.waitLines (x : Issue) (s : State) (ls : List Nat) : State :=
  x.block s .waiting .line (128 * ls.headD 0) fun d => { d with ids := ls, done := 0, faults := [], got := [], rest := [] }

/-- Steps 2 to 4 of R160, and a refresh window. -/
def Issue.early (x : Issue) (s : State) (k : Kind) (as : List LAcc) : Option State :=
  let bad := as.filter fun a => (pathCheck a.addr k).isSome
  let odd := as.filter fun a => a.addr.toNat % a.n != 0
  let ls := absentLines s x.w.wg (as.map fun a => (a.addr, a.n))
  if !bad.isEmpty then
    some (x.trapLanes s (if bad.any fun a => pathCheck a.addr k == some .path then .path else .wswr) 0 (lanesAddrs bad))
  else if !odd.isEmpty then some (x.trapLanes s .align 0 (lanesAddrs odd))
  else if !ls.isEmpty then some (x.waitLines s ls)
  else if as.any fun a => inRefresh s a.addr then some (x.stall s 0)
  else
    let miss := as.filter fun a => lockMiss s x.w.wg a.addr
    if miss.isEmpty then none else some (x.trapLanes s .lockmiss 0 (lanesAddrs miss))

/-! ## Accesses that leave the core -/

/-- What has become of an access to another device or to the host. -/
inductive Sent where
  | got (bs : List Byte)
  | fault (sub : Nat)
  | waits (tag : Nat)
  deriving DecidableEq, Repr

/-- Send one access: to this device itself, over the fabric, to the host, or nowhere. -/
def Issue.sendAcc (x : Issue) (s : State) (lane : Option Nat) (a : LAcc) (l : Loc) : Sent × State :=
  let k := x.i.memKind
  let g := x.atomArgs a.lane
  let kind := k.peerCode
  let payload := match k with | .ld | .ex => [] | .st => x.storeData a | .at => atomPayload g.2.1 g.2.2.1 g.2.2.2
  let aop := match k with | .at => g.1.code.toNat | _ => 0
  let req (host : Bool) : Req :=
    { host := host, warp := x.wid, frag := x.fid, lane := lane, copy := none, ctx := x.w.ctx, tag := 0, addr := a.addr, bytes := a.n,
      kind := kind, elem := a.elem, data := if host then payload else [], tok := x.i.token, sent := 0 }
  match l with
  | .peer d o =>
    (match peerWay s x.w.ctx d with
     | .noRoute => (.fault 0, unrouted s x.w.ctx d o)
     | .loop =>
       (match targetAccess s (selfDev s) x.w.ctx o kind aop a.n payload with
        | (some bs, s') => (.got bs, s')
        | (none, s') => (.fault 0, s'))
     | .links => let q := sendReq s (req false) d o aop payload; (.waits q.1, q.2))
  | _ => let q := addReq s (req true); (.waits q.1, q.2)

/-- Progress of an access while its lanes are taken one after another. -/
structure Going where
  s      : State
  done   : LaneMask
  faults : List (Nat × Cause × Nat × DWord)
  got    : List (LAcc × List Byte)
  rest   : List LAcc
  now    : List (LAcc × Loc)
  ids    : List Nat
  deriving DecidableEq, Repr

/-- Send the remote accesses of one lane, in order; a failure ends the lane. -/
def Issue.sendLane (x : Issue) (l : Nat) : Going → List (LAcc × Loc) → Going
  | g, [] => g
  | g, (a, loc) :: t =>
    match x.sendAcc g.s (some l) a loc with
    | (.got bs, s) => x.sendLane l { g with s := s, got := g.got ++ [(a, bs)] } t
    | (.waits k, s) => x.sendLane l { g with s := s, ids := g.ids ++ [k] } t
    | (.fault sub, s) => { g with s := s, done := g.done &&& ~~~(laneBit l), faults := g.faults ++ [(l, .peer, sub, a.addr)] }

/-- One lane: translated, and performed now, later, or elsewhere (step 5). `late` defers everything of the lane. -/
def Issue.takeLane (x : Issue) (k : Kind) (late : Bool) (g : Going) (l : Nat) (as : List LAcc) : Going :=
  let rs := as.map fun a => (a, resolve g.s x.who a.addr a.n k)
  match rs.find? fun p => (match p.2 with | .error _ => true | .ok _ => false) with
  | some (a, .error c) => { g with faults := g.faults ++ [(l, c, 0, a.addr)] }
  | _ =>
    let ls := rs.filterMap fun p => match p.2 with | .ok loc => some (p.1, loc) | .error _ => none
    -- step 6 for what loops back or has no route: every failing access is an event, and the lane completes none (R165, R336)
    let r := ls.foldl (fun (r : List (LAcc × Loc) × List LAcc × State) p =>
      match peerHome r.2.2 x.w.ctx k.peerCode p.1.n p.2 with
      | (some loc, s) => (r.1 ++ [(p.1, loc)], r.2.1, s)
      | (none, s) => (r.1, r.2.1 ++ [p.1], s)) ([], [], g.s)
    match r.2.1 with
    | a :: _ => { g with s := r.2.2, faults := g.faults ++ [(l, .peer, 0, a.addr)] }
    | [] =>
      let far := r.1.filter fun p => p.2.remote
      let g := { g with s := r.2.2, done := g.done ||| laneBit l }
      if far.isEmpty && !late then { g with now := g.now ++ r.1 }
      else x.sendLane l { g with rest := g.rest ++ (r.1.filter fun p => !p.2.remote).map (·.1) } far

/-- The access of every active lane of a vector memory instruction. -/
def Issue.lanesAccess (x : Issue) (s : State) (as : List LAcc) : State :=
  let k := x.i.memKind
  match x.early s k as with
  | some s' => s'
  | none =>
    let late := (match x.i with | .vgldl _ _ => true | _ => false) &&
      as.any fun a => pathOf a.addr == 4 || pathOf a.addr == 5
    let byLane (l : Nat) := as.filter fun a => a.lane == l
    let g : Going :=
      x.lanes.foldl (fun g l => x.takeLane k late g l (byLane l)) { s := s, done := 0, faults := [], got := [], rest := [], now := [], ids := [] }
    -- a step of `vgldl` that faults has no effect
    let stepFails := (match x.i with | .vgldl _ _ => !g.faults.isEmpty | _ => false)
    let r := if stepFails then ([], g.s) else x.perform g.s g.now
    let s1 := if stepFails || g.now.isEmpty then r.2 else x.landing r.2 x.i.token r.1
    if g.ids.isEmpty then x.finishAccess s s1 g.done g.faults g.got g.rest
    else
      let s2 := match x.i.token with
        | some t => modWarp s1 x.wid fun w => g.ids.foldl (fun w _ => w.tokAdd t) w
        | none => s1
      modFrag s2 x.wid x.fid fun f =>
        { f with wkind := .peer, wait := { f.wait with ids := g.ids, done := g.done, faults := g.faults, got := g.got, rest := g.rest } }

/-! ## Tokens freed -/

/-- One part of a token's operation is complete. -/
def freeTok (s : State) (wid k : Nat) : State := reap (wakeTokens (modWarp s wid fun w => w.tokDone k) wid) wid

/-! ## Completion of what left the core -/

/-- The instruction at which a fragment stands. -/
def issueAt (s : State) (wid fid : Nat) : Option Issue :=
  (findFrag s wid fid).map fun p => mkIssue (fetchAt s p.1 p.2.pc) wid fid p.1 p.2

/-- A fragment parks at the instruction it stands at, cause BRK; the park waits for frames (R316). -/
def parkBrk (s : State) (wid fid : Nat) (code : BitVec 14) : State :=
  match issueAt s wid fid with
  | none => s
  | some x => takeTrap s wid fid x.i .brk code.toNat x.act [] 0 true

/-- An `fpark` that waited for the end of an instruction. -/
def parkLater (s : State) (wid fid : Nat) (brk : Option (BitVec 14)) : State :=
  match brk, findFrag s wid fid with
  | some code, some (_, f) =>
    let s := modFrag s wid fid fun f => { f with brk := none }
    if f.st == .running || f.st == .ready then parkBrk s wid fid code else s
  | _, _ => s

/-- The token part of a request is done. -/
def reqToken (s : State) (r : Req) : State := match r.tok with | some t => freeTok s r.warp t | none => s

/-- A lane's request has ended: its bytes, or a cause and subcode. -/
def reqEnded (s : State) (r : Req) (lane : Nat) (res : Except (Cause × Nat) (List Byte)) : State :=
  match issueAt s r.warp r.frag with
  | none => reqToken s r
  | some x =>
    let d := x.f.wait
    if !(x.f.wkind == .peer && d.ids.contains r.tag.toNat) then reqToken s r
    else
      let ids := d.ids.filter (· != r.tag.toNat)
      let a : LAcc := { lane := lane, elem := r.elem, addr := r.addr, n := r.bytes }
      let d := match res with
        | .ok bs => { d with ids := ids, got := d.got ++ [(a, bs)] }
        | .error (c, sub) =>
          { d with ids := ids, done := d.done &&& ~~~(laneBit lane),
                   faults := if d.faults.any (fun p => p.1 == lane) then d.faults else d.faults ++ [(lane, c, sub, r.addr)] }
      let s :=
        if !ids.isEmpty then modFrag s r.warp r.frag fun f => { f with wait := d }
        else
          let x : Issue := { x with act := d.faults.foldl (fun m p => m ||| laneBit p.1) d.done }
          parkLater (x.finishAccess s s d.done d.faults d.got d.rest) r.warp r.frag x.f.brk
      reqToken s r

end Sys2Proof
end

