-- ==== Sys2Proof/Machine/Control.lean ====
section
/-! DEFINITION. Control instructions (R99, R120 to R135): plain control, branches, structured constructs (R15, R16), joins (R20, R129),
calls and jumps (R130), table jumps and calls (R132 to R134), and waiting on tokens (R135). -/

namespace Sys2Proof

open Machine

/-! ## Transfers -/

/-- The check of R99. -/
def targetFault (t : DWord) : Option Cause :=
  if t.toNat / 2 ^ 57 != 0 then some .path else if t.toNat % 4 != 0 then some .align else none

/-- A taken transfer: a bad target faults, and no effect is taken. `s` holds the instruction's other effects. -/
def Issue.transfer (x : Issue) (s0 s : State) (t : DWord) : State :=
  match targetFault t with
  | some c => x.trapAt s0 c 0 t
  | none => x.goto s t true

/-- pc + 4 × IMM16. -/
def Issue.near (x : Issue) (imm : BitVec 16) : DWord := x.f.pc + 4 * imm.signExtend 64

/-- The condition of a CX instruction in one lane (R126, R127). -/
def Issue.cond (x : Issue) (f : CXFmt) (l : Nat) : Bool :=
  (match f.cond with
   | .mask m => (x.w.triple m.toNat).getLsbD l
   | .vec v => (x.w.vreg v.toNat l).getLsbD 0
   | .scal n => x.w.sreg n.toNat != 0) != f.neg

/-! ## Plain control (R121 to R124) -/

/-- `nop` and `land`: no effect. -/
def effNop (s : State) (x : Issue) : State := x.done s

def Machine.execNop (f : CFmt) (s : State) : Host.Outcome State Fault Refusal := issue (.nop f) false effNop s

def Machine.execLand (f : CFmt) (s : State) : Host.Outcome State Fault Refusal := issue (.land f) false effNop s

/-- R122: the active lanes end; the others go on. -/
def effExit (s : State) (x : Issue) : State := x.finish s (x.w.kill x.act)

def Machine.execExit (f : CFmt) (s : State) : Host.Outcome State Fault Refusal := issue (.exit f) false effExit s

/-- Other ready fragments of a fragment's quarter. -/
def otherReady (s : State) (wid fid : Nat) (w : Warp) : List (Nat × Nat) :=
  s.warps.flatMap fun p =>
    if p.2.ctl == w.ctl && p.2.core == w.core && p.2.quarter == w.quarter && p.2.resid == .resident then
      p.2.frags.filterMap fun q => if q.2.st == .ready && !(p.1 == wid && q.1 == fid) then some (p.1, q.1) else none
    else []

/-- R123: the other ready fragments go first. -/
def effYield (s : State) (x : Issue) : State :=
  modFrag (x.done s) x.wid x.fid fun f => { f with yield := otherReady s x.wid x.fid x.w }

def Machine.execYield (f : CFmt) (s : State) : Host.Outcome State Fault Refusal := issue (.yield f) false effYield s

/-- R124. -/
def effBrk (code : BitVec 16) (s : State) (x : Issue) : State := x.trap s .brk code.toNat

def Machine.execBrk (f : CFmt) (s : State) : Host.Outcome State Fault Refusal := issue (.brk f) false (effBrk f.imm) s

/-- R124. -/
def effTrap (code : BitVec 16) (s : State) (x : Issue) : State := x.trap s .trap code.toNat

def Machine.execTrap (f : CFmt) (s : State) : Host.Outcome State Fault Refusal := issue (.trap f) false (effTrap f.imm) s

/-! ## Branches (R125, R126) -/

def effBr (f : CFmt) (s : State) (x : Issue) : State := x.transfer s s (x.near f.imm)

def Machine.execBr (f : CFmt) (s : State) : Host.Outcome State Fault Refusal := issue (.br f) false (effBr f) s

/-- A branch that is taken or falls through. -/
def effBranch (f : CXFmt) (taken : Issue → Bool) (s : State) (x : Issue) : State :=
  if taken x then x.transfer s s (x.near f.imm) else x.done s

/-- s(CR) is the same for every lane; lane 0 stands for it. -/
def takenBrc (f : CXFmt) (x : Issue) : Bool := x.cond f 0

def takenAny (f : CXFmt) (x : Issue) : Bool := x.lanes.any (x.cond f)

def takenAll (f : CXFmt) (x : Issue) : Bool := x.lanes.all (x.cond f)

def Machine.execBrc (f : CXFmt) (s : State) : Host.Outcome State Fault Refusal := issue (.brc f) false (effBranch f (takenBrc f)) s

def Machine.execBrany (f : CXFmt) (s : State) : Host.Outcome State Fault Refusal := issue (.brany f) false (effBranch f (takenAny f)) s

def Machine.execBrall (f : CXFmt) (s : State) : Host.Outcome State Fault Refusal := issue (.brall f) false (effBranch f (takenAll f)) s

/-! ## Structured instructions (R15, R16) -/

/-- Lanes of alv(f). -/
def Issue.alv (x : Issue) : List Nat := lanesOf (x.w.alv x.f)

/-- New depth counters, lane by lane. -/
def Machine.Warp.setDepths (w : Warp) : List (Nat × Nat) → Warp
  | [] => w
  | (l, d) :: t => (w.setDepth l d).setDepths t

/-- The update of a structured instruction: new depths of alv(f), the new S, and the partner when the skip is taken. NEST comes before
any counter changes. -/
def Issue.nest (x : Issue) (s : State) (ds : List (Nat × Nat)) (lvl : Int) (skip : Option DWord) : State :=
  if decide (lvl < 0) || decide (255 < lvl) || ds.any (fun p => decide (255 < p.2)) then x.trap s .nest 0
  else
    let s' := putWarp s x.wid (x.w.setDepths ds)
    let s' := modFrag s' x.wid x.fid fun f => { f with s := BitVec.ofInt 8 lvl }
    match skip with
    | some t => x.transfer s s' t
    | none => x.done s'

def Issue.level (x : Issue) : Int := (x.f.s.toNat : Int)

/-- A partner, when no lane is at depth 0 after the update. -/
def skipTo (ds : List (Nat × Nat)) (t : DWord) : Option DWord := if ds.any (fun p => p.2 == 0) then none else some t

def depthsIf (x : Issue) (f : CXFmt) : List (Nat × Nat) :=
  x.alv.map fun l => (l, if x.w.depthOf l = 0 then (if x.cond f l then 0 else 1) else x.w.depthOf l + 1)

def effIf (f : CXFmt) (s : State) (x : Issue) : State :=
  x.nest s (depthsIf x f) (x.level + 1) (skipTo (depthsIf x f) (x.near f.imm))

def Machine.execIff (f : CXFmt) (s : State) : Host.Outcome State Fault Refusal := issue (.iff f) true (effIf f) s

def depthsElse (x : Issue) : List (Nat × Nat) :=
  x.alv.map fun l => (l, if x.w.depthOf l = 0 then 1 else if x.w.depthOf l = 1 then 0 else x.w.depthOf l)

def effElse (f : CFmt) (s : State) (x : Issue) : State :=
  x.nest s (depthsElse x) x.level (skipTo (depthsElse x) (x.near f.imm))

def Machine.execEls (f : CFmt) (s : State) : Host.Outcome State Fault Refusal := issue (.els f) true (effElse f) s

/-! ### Join points (R20) -/

/-- The instruction is a join point for the fragment; `atLevel` says that it is one only with S = J. -/
def Issue.joinPoint (x : Issue) (atLevel : Bool) : Bool :=
  decide (1 < x.w.frags.length) && !x.f.skip && (!atLevel || x.f.s == x.f.j)

/-- The fragment holds, and fragments held at one join point may merge. -/
def Issue.hold (x : Issue) (s : State) : State :=
  settle (modFrag s x.wid x.fid fun f => { f with st := .held, reach := 0, latches := [] }) x.wid

def depthsEndif (x : Issue) : List (Nat × Nat) := x.alv.map fun l => (l, x.w.depthOf l - 1)

def effEndif (s : State) (x : Issue) : State :=
  if x.joinPoint true then x.hold s else x.nest s (depthsEndif x) (x.level - 1) none

def Machine.execEndif (f : CFmt) (s : State) : Host.Outcome State Fault Refusal := issue (.endif f) true effEndif s

def depthsLoop (x : Issue) : List (Nat × Nat) :=
  x.alv.map fun l => (l, if x.w.depthOf l = 0 then 0 else x.w.depthOf l + 2)

def effLoop (f : CFmt) (s : State) (x : Issue) : State :=
  x.nest s (depthsLoop x) (x.level + 1) (skipTo (depthsLoop x) (x.near f.imm))

def Machine.execLoop (f : CFmt) (s : State) : Host.Outcome State Fault Refusal := issue (.loop f) true (effLoop f) s

/-- Some lane goes round again. -/
def loopsAgain (x : Issue) : Bool := x.alv.any fun l => decide (x.w.depthOf l ≤ 1)

def depthsAgain (x : Issue) : List (Nat × Nat) := x.alv.map fun l => (l, if x.w.depthOf l = 1 then 0 else x.w.depthOf l)

def depthsLeave (x : Issue) : List (Nat × Nat) := x.alv.map fun l => (l, x.w.depthOf l - 2)

def effEndloop (f : CFmt) (s : State) (x : Issue) : State :=
  if x.joinPoint true then x.hold s
  else if x.f.s = 0 then x.trap s .nest 0
  else if loopsAgain x then x.nest s (depthsAgain x) x.level (some (x.near f.imm))
  else x.nest s (depthsLeave x) (x.level - 1) none

def Machine.execEndloop (f : CFmt) (s : State) : Host.Outcome State Fault Refusal := issue (.endloop f) true (effEndloop f) s

/-- `break dd`: the active lanes leave dd levels and the loop. -/
def effBreak (f : CFmt) (s : State) (x : Issue) : State :=
  x.finish s (x.w.setDepths (x.lanes.map fun l => (l, f.imm.toNat + 1)))

def Machine.execBrkLoop (f : CFmt) (s : State) : Host.Outcome State Fault Refusal := issue (.brkLoop f) false (effBreak f) s

/-- `cont dd`. -/
def effCont (f : CFmt) (s : State) (x : Issue) : State :=
  x.finish s (x.w.setDepths (x.lanes.map fun l => (l, f.imm.toNat)))

def Machine.execCont (f : CFmt) (s : State) : Host.Outcome State Fault Refusal := issue (.cont f) false (effCont f) s

/-- R129. -/
def effRejoin (s : State) (x : Issue) : State := if x.joinPoint false then x.hold s else x.done s

def Machine.execRejoin (f : CFmt) (s : State) : Host.Outcome State Fault Refusal := issue (.rejoin f) true effRejoin s

/-! ## Calls and jumps (R130, R131) -/

/-- The target of `call`, `ret` and `jmp`. -/
def Issue.farTarget (x : Issue) (f : SFmt) : DWord :=
  if f.isImm then x.f.pc + 4 * f.imm23.signExtend 64 else x.w.spair f.aReg

def effCall (f : SFmt) (s : State) (x : Issue) : State :=
  x.transfer s (putWarp s x.wid (x.w.setSpair x.f.lanes f.d.toNat (x.f.pc + 8))) (x.farTarget f)

def Machine.execCall (f : SFmt) (s : State) : Host.Outcome State Fault Refusal := issue (.call f) false (effCall f) s

def effJump (f : SFmt) (s : State) (x : Issue) : State := x.transfer s s (x.farTarget f)

def Machine.execRet (f : SFmt) (s : State) : Host.Outcome State Fault Refusal := issue (.ret f) false (effJump f) s

def Machine.execJmp (f : SFmt) (s : State) : Host.Outcome State Fault Refusal := issue (.jmp f) false (effJump f) s

/-! ## Table jumps and calls (R132 to R134) -/

/-- A granule is `land`, with either LK (R121). -/
def isLand (g : Word) : Bool := g == 0x00010000 || g == 0x20010000

/-- What one lane's index leads to: a target, or a cause with the lane's INFO word and fault address. -/
def classify (s : State) (w : Warp) (r : LaunchRec) (dtl i : Nat) : Except (Cause × Word × DWord × Kind) DWord :=
  let iw := BitVec.ofNat 32 i
  if dtl ≤ i then .error (.disp, iw, 0, .ld)
  else match readVirt s { ctx := w.ctx, wg := some w.wg } (r.dtab + BitVec.ofNat 64 (4 * i)) 4 with
    | .error (c, a) => .error (c, a.setWidth 32, a, .ld)
    | .ok bs =>
      let e := leNat bs
      if e % 2 = 1 then .error (.lazy, iw, 0, .ld)
      else
        let t := r.kstart + BitVec.ofNat 64 (4 * (e / 2))
        if (targetFault t).isSome then .error (.path, t.setWidth 32, t, .ex)
        else match readGranule s w t with
          | .error (c, a) => .error (c, a.setWidth 32, a, .ex)
          | .ok g => if isLand g then .ok t else .error (.land, iw, 0, .ld)

/-- A lane joins the group of its target or cause. -/
def addTarget (l : Nat) (t : DWord) : List Piece → List Piece
  | [] => [{ lanes := laneBit l, fate := .target t }]
  | p :: ps => if p.fate = .target t then { p with lanes := p.lanes ||| laneBit l } :: ps else p :: addTarget l t ps

def addFault (l : Nat) (c : Cause) (sub : Nat) (iw : Word) (a : DWord) (k : Kind) : List Piece → List Piece
  | [] => [{ lanes := laneBit l, fate := .fault c sub (noteAccess (Tbl.write 0 [] l iw) l a k) a }]
  | p :: ps =>
    match p.fate with
    | .fault c' sub' info a' =>
      if c' = c then { lanes := p.lanes ||| laneBit l, fate := .fault c' sub' (noteAccess (Tbl.write 0 info l iw) l a k) a' } :: ps
      else p :: addFault l c sub iw a k ps
    | _ => p :: addFault l c sub iw a k ps

/-- The groups of a table jump, lanes taken in ascending order. -/
def tableGroups (s : State) (x : Issue) (v : Nat) : List Piece :=
  match Tbl.find s.launches x.w.launch with
  | none => []
  | some L =>
    x.lanes.foldl (fun ps l =>
      match classify s x.w L.lrec (x.w.pcr.dtl.toNat % 65536) (x.w.vreg v l).toNat with
      | .ok t => addTarget l t ps
      | .error (c, iw, a, k) => addFault l c 0 iw a k ps) []

def Cond.reg : Cond → Nat
  | .mask m => m.toNat
  | .vec v => v.toNat
  | .scal n => n.toNat

/-- The split of a table jump would be refused (R19). -/
def Issue.noRoom (x : Issue) (s : State) (n : Nat) : Bool :=
  decide (((List.range 8).filter fun k => (Tbl.find x.w.frags k).isNone).length < n - 1) ||
  decide (coreEntries x.w.ctl < coreFrags s x.w.ctl x.w.core + (n - 1))

/-- `jtab` and, with a link, `ctab`. -/
def effTable (f : CXFmt) (link : Bool) (s : State) (x : Issue) : State :=
  let ps := tableGroups s x f.cond.reg
  let linked := if link then putWarp s x.wid (x.w.setSpair x.f.lanes f.lp.toNat (x.f.pc + 8)) else s
  match ps with
  | [p] =>
    (match p.fate with
     | .target t => x.goto linked t true
     | .fault c sub info a => takeTrap s x.wid x.fid x.i c sub x.act info a false
     | .done => x.done s)
  | ps => x.split s (if ps.any (fun p => !p.isFault) && !x.noRoom s ps.length then linked else s) ps

def Machine.execJtab (f : CXFmt) (s : State) : Host.Outcome State Fault Refusal := issue (.jtab f) false (effTable f false) s

def Machine.execCtab (f : CXFmt) (s : State) : Host.Outcome State Fault Refusal := issue (.ctab f) false (effTable f true) s

/-! ## Waiting on tokens (R135, R179) -/

def effWait (f : CFmt) (s : State) (x : Issue) : State :=
  let busy := x.w.busyOf f.imm
  if busy != 0 then modFrag (x.block (flushRows s fun r => r.warp == x.wid && f.imm.getLsbD r.tok) .stalled .wait 0 id) x.wid x.fid fun g => { g with tokw := busy }
  else match x.w.errs.find? (fun e => f.imm.getLsbD e.tok) with
    | some e => x.deliver s e
    | none => x.done s

def Machine.execWait (f : CFmt) (s : State) : Host.Outcome State Fault Refusal := issue (.wait f) false (effWait f) s

end Sys2Proof
end

