-- ==== Sys2Proof/Machine/Masks.lean ====
section
/-! DEFINITION. Mask-triple instructions (R117), program control registers (R44 to R53, R118) and register blocks (R35, R36, R119). -/

namespace Sys2Proof

open Machine

/-! ## Mask triples (Table 05.3) -/

def Issue.tripA (x : Issue) (f : SFmt) : LaneMask := x.w.triple f.aReg
def Issue.tripB (x : Issue) (f : SFmt) : LaneMask := x.w.triple f.bReg

/-- Write a triple and complete. -/
def Issue.writeM (x : Issue) (s : State) (d : Nat) (m : LaneMask) : State := x.finish s (x.w.setTriple x.f.lanes d m)

/-- An operation on two triples. -/
def effMask (f : SFmt) (op : LaneMask → LaneMask → LaneMask) (s : State) (x : Issue) : State :=
  x.writeM s f.d.toNat (op (x.tripA f) (x.tripB f))

def Machine.execMand (f : SFmt) (s : State) : Host.Outcome State Fault Refusal := issue (.mand f) false (effMask f fun a b => a &&& b) s
def Machine.execMor (f : SFmt) (s : State) : Host.Outcome State Fault Refusal := issue (.mor f) false (effMask f fun a b => a ||| b) s
def Machine.execMxor (f : SFmt) (s : State) : Host.Outcome State Fault Refusal := issue (.mxor f) false (effMask f fun a b => a ^^^ b) s
def Machine.execMandn (f : SFmt) (s : State) : Host.Outcome State Fault Refusal := issue (.mandn f) false (effMask f fun a b => a &&& ~~~b) s
def Machine.execMnot (f : SFmt) (s : State) : Host.Outcome State Fault Refusal := issue (.mnot f) false (effMask f fun a _ => ~~~a) s
def Machine.execMmov (f : SFmt) (s : State) : Host.Outcome State Fault Refusal := issue (.mmov f) false (effMask f fun a _ => a) s

def effMact (f : SFmt) (s : State) (x : Issue) : State := x.writeM s f.d.toNat x.act

def Machine.execMact (f : SFmt) (s : State) : Host.Outcome State Fault Refusal := issue (.mact f) false (effMact f) s

def effMpopc (f : SFmt) (s : State) (x : Issue) : State :=
  x.finish s (x.w.setSreg x.f.lanes f.d.toNat (BitVec.ofNat 32 (laneCount (x.tripA f))))

def Machine.execMpopc (f : SFmt) (s : State) : Host.Outcome State Fault Refusal := issue (.mpopc f) false (effMpopc f) s

/-- Lowest set bit, or all ones. -/
def firstBit (m : LaneMask) : Word := if m = 0 then 0xFFFFFFFF else BitVec.ofNat 32 (lowLane m)

def effMffs (f : SFmt) (s : State) (x : Issue) : State := x.finish s (x.w.setSreg x.f.lanes f.d.toNat (firstBit (x.tripA f)))

def Machine.execMffs (f : SFmt) (s : State) : Host.Outcome State Fault Refusal := issue (.mffs f) false (effMffs f) s

/-! ## Program control registers (R118) -/

/-- WSREF of the half a core sits on (Table 02.7). -/
def wsref (s : State) (half : Nat) : Word :=
  let p := refreshPhase s.clock.clk.toNat half
  if windowOpen s half then BitVec.ofNat 32 (2 ^ 31 + (8400 - p)) else BitVec.ofNat 32 (134400 - p)

/-- What a `pcrr` reads, and the warp with the shadow of a sampled counter (R50). -/
def pcrRead (s : State) (w : Warp) (fid : Nat) (k : Nat) : Word × Warp :=
  match k with
  | 0 => (w.pcr.mode, w)
  | 1 => (0, w)
  | 2 => (w.pcr.rlab, w)
  | 3 => (w.pcr.dtl, w)
  | 4 => (BitVec.ofNat 32 fid, w)
  | 5 => (s.clock.clk.setWidth 32, { w with pcr := { w.pcr with clkHi := s.clock.clk.extractLsb' 32 32 } })
  | 6 => (w.pcr.clkHi, w)
  | 7 => (s.clock.time.setWidth 32, { w with pcr := { w.pcr with timeHi := s.clock.time.extractLsb' 32 32 } })
  | 8 => (w.pcr.timeHi, w)
  | 9 => (w.pcr.wtim, w)
  | 10 => (w.pcr.wtcmp, w)
  | 11 => (w.pcr.nflush, w)
  | 12 => (w.pcr.seed, w)
  | 13 => (wsref s (halfOf w.ctl w.core), w)
  | 14 => (w.pcr.mbu, w)
  | k => if 16 ≤ k ∧ k ≤ 31 then (Tbl.read 0 w.pcr.tsh (k - 16), w) else (0, w)

def effPcrr (f : SFmt) (s : State) (x : Issue) : State :=
  let r := pcrRead s x.w x.fid f.imm14.toNat
  x.finish s (r.2.setSreg x.f.lanes f.d.toNat r.1)

def Machine.execPcrr (f : SFmt) (s : State) : Host.Outcome State Fault Refusal := issue (.pcrr f) false (effPcrr f) s

/-- A write to a writable PCR (R44, R118); reserved bits read 0. A write of SEED sets every lane's stochastic state anew (R71). -/
def pcrWrite (w : Warp) (k : Nat) (v : Word) : Warp :=
  match k with
  | 0 => { w with pcr := { w.pcr with mode := v &&& 0x1F } }
  | 2 => { w with pcr := { w.pcr with rlab := v } }
  | 9 => { w with pcr := { w.pcr with wtim := v } }
  | 10 => { w with pcr := { w.pcr with wtcmp := v } }
  | 11 =>
    let n := v &&& 0xFFFF
    { w with pcr := { w.pcr with nflush := if n.toNat < 64 then 64 else n } }
  | 12 => { w with pcr := { w.pcr with seed := v }, srs := [] }
  | k => if 16 ≤ k ∧ k ≤ 31 then { w with pcr := { w.pcr with tsh := Tbl.write 0 w.pcr.tsh (k - 16) v } } else w

/-- A write of MODE ends the reach (R24). -/
def effPcrw (f : SFmt) (s : State) (x : Issue) : State :=
  x.goto (putWarp s x.wid (pcrWrite x.w f.imm14.toNat (x.w.sreg f.aReg))) x.nextPc (f.imm14 == 0)

def Machine.execPcrw (f : SFmt) (s : State) : Host.Outcome State Fault Refusal := issue (.pcrw f) false (effPcrw f) s

/-! ## Register blocks (R35, R36, R119) -/

/-- Blocks a warp holds above its base. -/
def Machine.Warp.blocks (w : Warp) : Nat := (w.top - w.base) / 64

/-- A request waits behind earlier ones and for free blocks; it cannot exceed the pool or v2047. -/
def effVacq (f : SFmt) (s : State) (x : Issue) : State :=
  let n := f.count x.w
  match Tbl.find s.wgs x.w.wg with
  | none => x.done s
  | some g =>
    if n = 0 then x.done s
    else if decide (g.pool - x.w.blocks < n) || decide (2048 < x.w.top + 64 * n) then x.trap s .regx 0
    else if decide (n ≤ g.free) && (vacqWaiters s g).isEmpty then
      x.finish (modWg s x.w.wg fun g => { g with free := g.free - n }) (x.w.grow n)
    else
      -- the warp is descheduled whole: its other fragments are not ready either (R25, R119)
      poolSettle (modWarp (x.block s .waiting .vacq 0 fun d => { d with arg := BitVec.ofNat 64 n }) x.wid
        fun w => { w with frags := Tbl.mapVals w.frags fun _ f => { f with starve := 0 } }) x.w.wg

def Machine.execVacq (f : SFmt) (s : State) : Host.Outcome State Fault Refusal := issue (.vacq f) false (effVacq f) s

/-- Some vector register from a number on has a write pending. -/
def Machine.Warp.pendingFrom (w : Warp) (t : Nat) : Bool := w.access.any fun p => p.2.vdst.any fun q => decide (96 * t ≤ q.1)

def effVrel (f : SFmt) (s : State) (x : Issue) : State :=
  let n := f.count x.w
  if n = 0 then x.done s
  else if x.w.blocks < n then x.trap s .regx 0
  else
    let t := x.w.top - 64 * n
    if x.w.pendingFrom t then x.stall s (x.w.tokensOf fun a => a.vdst.any fun q => decide (96 * t ≤ q.1))
    else poolSettle (x.finish (modWg s x.w.wg fun g => { g with free := g.free + n }) (x.w.shrink n)) x.w.wg

def Machine.execVrel (f : SFmt) (s : State) : Host.Outcome State Fault Refusal := issue (.vrel f) false (effVrel f) s

end Sys2Proof
end

