-- ==== Sys2Proof/Machine/Memory.lean ====
section
/-! DEFINITION. Vector and scalar memory instructions, prefetch, fences, waits on memory and locked translations (R92, R147, R159 to
R174). -/

namespace Sys2Proof

open Machine

/-! ## Addresses (R92, R165, R166, R170) -/

/-- off of R92: zero-extended, an inline integer sign-extended. -/
def Issue.offset (x : Issue) (s : Sel) (l : Nat) : DWord :=
  match s with
  | .imm v => v.signExtend 64
  | s => (selInt x.w x.fid x.f 0 s l).setWidth 64

/-- ea of R92. -/
def Issue.ea (x : Issue) (f : VMFmt) (size l : Nat) : DWord :=
  let disp : DWord := f.imm8.signExtend 64 * BitVec.ofNat 64 size
  if f.sb = 0 then
    (match f.a with
     | .vreg n => x.w.vpair n.toNat l + disp
     | _ => disp)
  else x.w.spair f.sb.toNat + x.offset f.a l * BitVec.ofNat 64 (2 ^ f.sc.toNat) + disp

/-- One access of every active lane. -/
def Issue.oneEach (x : Issue) (f : VMFmt) (size : Nat) : List LAcc :=
  x.lanes.map fun l => { lane := l, elem := 0, addr := x.ea f size l, n := size }

/-- ea of element j of a list form (R165). -/
def Issue.eaList (x : Issue) (f : VMFmt) (j l : Nat) : DWord :=
  match f.a with
  | .vreg n => x.w.spair f.sb.toNat + (x.w.vreg (n.toNat + j) l).setWidth 64 * BitVec.ofNat 64 (2 ^ f.sc.toNat)
  | _ => 0

/-- n accesses of every active lane. -/
def Issue.listEach (x : Issue) (f : VMFmt) (size : Nat) : List LAcc :=
  x.lanes.flatMap fun l => (List.range f.n).map fun j => { lane := l, elem := j, addr := x.eaList f j l, n := size }

/-- An asynchronous instruction stalls on its busy token (R29). -/
def Issue.onToken (x : Issue) (s : State) (go : State) : State :=
  match x.i.token with
  | some k => if x.w.tokBusy k then x.stall s (BitVec.ofNat 16 (2 ^ k)) else go
  | none => go

/-! ## Loads and stores (R164, R165) -/

def effVld (fn : LdFn) (f : VMFmt) (s : State) (x : Issue) : State := x.onToken s (x.lanesAccess s (x.oneEach f fn.bytes))

def Machine.execVld (fn : LdFn) (f : VMFmt) (s : State) : Host.Outcome State Fault Refusal := issue (.vld fn f) false (effVld fn f) s

def effVst (fn : StFn) (f : VMFmt) (s : State) (x : Issue) : State := x.onToken s (x.lanesAccess s (x.oneEach f fn.bytes))

def Machine.execVst (fn : StFn) (f : VMFmt) (s : State) : Host.Outcome State Fault Refusal := issue (.vst fn f) false (effVst fn f) s

def effVgld (fn : LdFn) (f : VMFmt) (s : State) (x : Issue) : State := x.onToken s (x.lanesAccess s (x.listEach f fn.bytes))

def Machine.execVgld (fn : LdFn) (f : VMFmt) (s : State) : Host.Outcome State Fault Refusal := issue (.vgld fn f) false (effVgld fn f) s

def effVgst (fn : StFn) (f : VMFmt) (s : State) (x : Issue) : State := x.onToken s (x.lanesAccess s (x.listEach f fn.bytes))

def Machine.execVgst (fn : StFn) (f : VMFmt) (s : State) : Host.Outcome State Fault Refusal := issue (.vgst fn f) false (effVgst fn f) s

/-! ## Long lists (R166) -/

/-- Entries of a step whose lanes are active: list index, lane. -/
def Issue.stepEntries (x : Issue) (n step : Nat) : List (Nat × Nat) :=
  x.lanes.filterMap fun l => if 96 * step + l < n then some (96 * step + l, l) else none

/-- One step of 96 entries. -/
def effVgldl (fn : LdFn) (f : VMFmt) (s : State) (x : Issue) : State :=
  let n := x.listCount f
  let off := (selInt x.w x.fid x.f 0 f.a 0).toNat
  let steps := (n + 95) / 96
  let step := x.f.pidx.toNat
  let lastReg := if n = 0 then 0 else f.d.toNat + fn.regs * steps
  let base (i : Nat) : DWord := BitVec.ofNat 64 (2 * 2 ^ 60 + off + 4 * i)
  let es := x.stepEntries n step
  let busy := (match x.i.token with | some k => x.w.tokBusy k | none => false) && x.f.tokHeld.isNone
  if busy then x.onToken s s
  else if 3072 < n || x.w.top < lastReg then x.trap s .regx 0
  else if off % 4 != 0 then x.trapAt s .align 0 (base 0)
  else if n = 0 then x.done s
  else
    let place (l : Nat) (r : Except Cause Loc) : Bool := match r with | .ok _ => l = 96 | .error _ => true
    let reads := es.map fun p => (p.2, base p.1)
    let ls := absentLines s x.w.wg (reads.map fun p => (p.2, 4))
    let bad := reads.filter fun p => (pathCheck p.2 .ld).isSome
    let out := reads.filter fun p => place p.1 (resolve s x.who p.2 4 .ld)
    if !bad.isEmpty then x.trapLanes s .path 0 bad
    else if !ls.isEmpty then x.waitLines s ls
    else if !out.isEmpty then x.trapLanes s .prot 0 out
    else
      let as : List LAcc := reads.map fun p =>
        let v := leNat (readLoc s (.scratch x.w.wg (offOf p.2)) 4)
        { lane := p.1, elem := 0, addr := x.w.spair f.sb.toNat + BitVec.ofNat 64 (v * 2 ^ f.sc.toNat), n := fn.bytes }
      if as.isEmpty then x.nextStep s steps else x.lanesAccess s as

def Machine.execVgldl (fn : LdFn) (f : VMFmt) (s : State) : Host.Outcome State Fault Refusal := issue (.vgldl fn f) false (effVgldl fn f) s

/-! ## Atomics and prefetch (R167 to R169) -/

def effVatom (f : VMFmt) (s : State) (x : Issue) : State := x.onToken s (x.lanesAccess s (x.oneEach f (atomBytes f.ty)))

def Machine.execVatom (op : AtomOp) (f : VMFmt) (s : State) : Host.Outcome State Fault Refusal := issue (.vatom op f) false (effVatom f) s

/-- R169: no value that a program observes changes. -/
def effVpref (s : State) (x : Issue) : State := x.done s

def Machine.execVpref (kind : PrefKind) (f : VMFmt) (s : State) : Host.Outcome State Fault Refusal := issue (.vpref kind f) false effVpref s

/-! ## Scalar memory instructions (R170) -/

/-- ea of R170. -/
def Issue.sea (x : Issue) (f : SFmt) : DWord :=
  match f.src with
  | .imm a d => x.w.spair a.toNat + d.signExtend 64
  | .regs a b d =>
    x.w.spair a.toNat + d.signExtend 64 +
    (match x.i with
     | .satom _ _ => 0
     | _ => (x.w.sreg b.toNat).signExtend 64)

/-- A scalar access faults: the whole fragment parks, with the address and the PEER detail. -/
def Issue.trapScalar (x : Issue) (s : State) (c : Cause) (sub : Nat) (a : DWord) : State :=
  takeTrap s x.wid x.fid x.i c sub x.act (noteAccess (wholeInfo a (if sub = 4 then 1 else 0)) 0 a x.i.failKind) a false

/-- The checks of R160 with one lane (steps 2 to 4); a refresh window; a lost lock. -/
def Issue.earlyScalar (x : Issue) (s : State) (k : Kind) (a : DWord) (n unit : Nat) : Option State :=
  let ls := absentLines s x.w.wg [(a, n)]
  match pathCheck a k with
  | some c => some (x.trapScalar s c 0 a)
  | none =>
    if a.toNat % unit != 0 then some (x.trapScalar s .align 0 a)
    else if !ls.isEmpty then some (x.waitLines s ls)
    else if inRefresh s a then some (x.stall s 0)
    else if lockMiss s x.w.wg a then some (x.trapScalar s .lockmiss 0 a)
    else none

/-- A scalar access of n bytes. -/
def effScalarMem (n : Nat) (s : State) (x : Issue) : State :=
  let f := (match x.i.shape with | .s _ _ f => f | _ => { lk := false, ty := .s32, d := 0, z := 0, src := .imm 0 0 })
  let k := x.i.memKind
  let a := x.sea f
  let acc : LAcc := { lane := 0, elem := 0, addr := a, n := n }
  match x.earlyScalar s k a n n with
  | some s' => s'
  | none =>
    match resolve s x.who a n k with
    | .error c => x.trapScalar s c 0 a
    | .ok l =>
      if l.remote then
        (match x.sendAcc s none acc l with
         | (.got bs, s') => x.done (x.landing s' none [(acc, bs)])
         | (.fault sub, s') => x.trapScalar s' .peer sub a
         | (.waits t, s') => modFrag s' x.wid x.fid fun f => { f with wkind := .peer, wait := { f.wait with ids := [t] } })
      else
        let r := x.perform s [(acc, l)]
        x.done (x.landing r.2 none r.1)

def Machine.execSld (f : SFmt) (s : State) : Host.Outcome State Fault Refusal :=
  issue (.sld f) false (effScalarMem (sldFn f.z.toNat).bytes) s

/-- Size of `sst` (Table 07.4). -/
def sstBytes (z : Nat) : Nat := 2 ^ z

def Machine.execSst (f : SFmt) (s : State) : Host.Outcome State Fault Refusal := issue (.sst f) false (effScalarMem (sstBytes f.z.toNat)) s

def Machine.execSatom (op : AtomOp) (f : SFmt) (s : State) : Host.Outcome State Fault Refusal :=
  issue (.satom op f) false (effScalarMem (if f.ty.wide then 8 else 4)) s

/-! ## Profile tables (R147) -/

/-- Bytes of a profile table. -/
def profBytes : Nat := 1312

/-- A profile table replaced. -/
def Machine.Warp.setProf (w : Warp) (bs : List Byte) : Warp :=
  { w with prof := (wordsOf 328 bs).zipIdx.foldl (fun t p => Tbl.write 0 t p.2 p.1) [] }

/-- The checks of every word of a read of many words, in order of address. -/
def Issue.earlyWords (x : Issue) (s : State) (a : DWord) (n : Nat) : Option State :=
  let ws := (List.range (n / 4)).map fun i => a + BitVec.ofNat 64 (4 * i)
  let ls := absentLines s x.w.wg (ws.map fun b => (b, 4))
  match ws.findSome? fun b => (pathCheck b .ld).map fun c => (c, b) with
  | some (c, b) => some (x.trapScalar s c 0 b)
  | none =>
    if a.toNat % 4 != 0 then some (x.trapScalar s .align 0 a)
    else if !ls.isEmpty then some (x.waitLines s ls)
    else if ws.any fun b => inRefresh s b then some (x.stall s 0)
    else match ws.find? fun b => lockMiss s x.w.wg b with
      | some b => some (x.trapScalar s .lockmiss 0 b)
      | none => none

def effPload (f : VFmt) (s : State) (x : Issue) : State :=
  let a := selPair x.w f.a
  match x.earlyWords s a profBytes with
  | some s' => s'
  | none =>
    match resolve s x.who a 4 .ld with
    | .error c => x.trapScalar s c 0 a
    | .ok l =>
      if l.remote then
        (match resolve s x.who a profBytes .ld with
         | .error c => x.trapScalar s c 0 a
         | .ok l =>
           match x.sendAcc s none { lane := 0, elem := 0, addr := a, n := profBytes } l with
           | (.got bs, s') => x.finish s' (x.w.setProf bs)
           | (.fault sub, s') => x.trapScalar s' .peer sub a
           | (.waits t, s') => modFrag s' x.wid x.fid fun f => { f with wkind := .peer, wait := { f.wait with ids := [t] } })
      else match readVirt s x.who a profBytes with
        | .error (c, b) => x.trapScalar s c 0 (b &&& ~~~(3 : DWord))
        | .ok bs => x.finish s (x.w.setProf bs)

def Machine.execPload (f : VFmt) (s : State) : Host.Outcome State Fault Refusal := issue (.pload f) false (effPload f) s

/-! ## Fences (R171) -/

/-- Every access of the model is performed when it is made (log 7), an access to a peer or the host ends before its fragment goes on
(R160), and a fence stalls while walks of the fragment are under way (Issue.behindWalks), so it finds nothing outstanding. -/
def effFence (s : State) (x : Issue) : State := x.done s

def Machine.execFence (ord : FenceOrd) (f : SFmt) (s : State) : Host.Outcome State Fault Refusal := issue (.fence ord f) false effFence s

/-! ## Waits on memory (R172) -/

/-- The condition of a `swait`. -/
def waitHolds (cc : WaitCc) (ty : STy) (v b : DWord) : Bool :=
  match cc with
  | .eq => v == b
  | .ne => v != b
  | .ge => decide (toI ty.isSigned ty.bits b.toNat ≤ toI ty.isSigned ty.bits v.toNat)
  | .lt => decide (toI ty.isSigned ty.bits v.toNat < toI ty.isSigned ty.bits b.toNat)
  | .andnz => v &&& b != 0

/-- Bytes of a scalar type. -/
def STy.bytes (t : STy) : Nat := t.bits / 8

/-- The word waited for is outside the paths of R172. -/
def waitPath (a : DWord) : Bool := pathOf a == 0 || pathOf a == 1 || pathOf a == 2 || pathOf a == 4 || pathOf a == 5

/-- The wait goes on: the fragment is descheduled with what it last read. The timeout is set when the wait begins (R172). -/
def Issue.waitOn (x : Issue) (s : State) (f : SFmt) (a : DWord) (v : Option DWord) (ids : List Nat) : State :=
  let left := if x.f.wait.again != 0 then x.f.wait.left else if f.imm14 = 0 then none else some (1024 * f.imm14.toNat)
  x.block s .waiting .swait (if pathOf a = 2 then offOf a else 0) fun d =>
    { d with arg := a, last := v, left := left, again := clkNat s + 4096, ids := ids, done := 0, faults := [], got := [], rest := [] }

/-- A value has been read: complete, or wait. -/
def Issue.waitRead (x : Issue) (s : State) (cc : WaitCc) (f : SFmt) (a v : DWord) : State :=
  if waitHolds cc f.ty v (x.w.sval f.ty.wide f.bReg) then x.finish s (x.w.setSval x.f.lanes f.ty.wide f.d.toNat v)
  else x.waitOn s f a (some v) []

/-- Read the word. -/
def effSwait (cc : WaitCc) (f : SFmt) (s : State) (x : Issue) : State :=
  let a := x.w.spair f.aReg
  let n := f.ty.bytes
  match x.earlyScalar s .ld a n n with
  | some s' => s'
  | none =>
    if !waitPath a then takeTrap s x.wid x.fid x.i .prot 0 x.act (wholeInfo a 0) a false
    else match resolve s x.who a n .ld with
      | .error c => x.trapScalar s c 0 a
      | .ok l =>
        if l.remote then
          (match x.sendAcc s none { lane := 0, elem := 0, addr := a, n := n } l with
           | (.got bs, s') => x.waitRead s' cc f a (BitVec.ofNat 64 (leNat bs))
           | (.fault sub, s') => x.trapScalar s' .peer sub a
           | (.waits t, s') => x.waitOn s' f a x.f.wait.last [t])
        else x.waitRead s cc f a (BitVec.ofNat 64 (leNat (readLoc s l n)))

def Machine.execSwait (cc : WaitCc) (f : SFmt) (s : State) : Host.Outcome State Fault Refusal := issue (.swait cc f) false (effSwait cc f) s

/-- The fragment that an event is about (a, b), while it waits in a `swait`; it is read with its own instruction and active lanes. -/
def waiterOf (s : State) (kind : WKind) : Option Issue :=
  (issueAt s s.ev.a s.ev.b).bind fun x =>
    if (x.f.st == .waiting || x.f.st == .stalled) && x.f.wkind == kind && x.w.resid == .resident && !ctxHalted s x.w.ctx 400 then some x else none

/-- A fragment that has ended its wait is ready (R309). -/
def readied (s : State) (wid fid : Nat) : State :=
  modFrag s wid fid fun f => if f.st == .running then { f with st := .ready } else f

/-- The word is read again: after a write of its line, and at least every 4,096 cycles. -/
def Machine.execSwaitRecheck (s : State) : Host.Outcome State Fault Refusal :=
  .next (match waiterOf s .swait with
    | none => s
    | some x =>
      match x.i with
      | .swait cc f => if x.f.wait.ids.isEmpty then readied (effSwait cc f s x) x.wid x.fid else s
      | _ => s)

/-- The last value that a `swait` read. The spec gives none for a timeout that runs out before the first read has returned, on path 0x4
or 0x5: free words, number `n` on (log 29). -/
def lastRead (f : Frag) (n : Nat) : DWord := f.wait.last.getD (Config.freeWord n ++ Config.freeWord (n + 1))

/-- The timeout of a `swait` has run out, as it waits for a value or for a line to be present: D receives the last value read. -/
def Machine.execSwaitTimeout (s : State) : Host.Outcome State Fault Refusal :=
  .next (match (waiterOf s .swait).or (waiterOf s .line) with
    | none => s
    | some x =>
      match x.i with
      | .swait _ f =>
        if x.f.wait.left == some 0 then
          let gone (k : Nat) : Bool := x.f.wkind == .swait && x.f.wait.ids.contains k
          readied (x.finish { (modNet s fun n => { n with reqs := Tbl.keep n.reqs fun k _ => !gone k }) with freeCtr := s.freeCtr + 2 }
            (x.w.setSval x.f.lanes f.ty.wide f.d.toNat (lastRead x.f s.freeCtr))) x.wid x.fid
        else s
      | _ => s)

/-- A request of an instruction with one access has ended. -/
def scalarEnded (s : State) (r : Req) (res : Except (Cause × Nat) (List Byte)) : State :=
  match issueAt s r.warp r.frag with
  | none => s
  | some x =>
    if !x.f.wait.ids.contains r.tag.toNat then s
    else
      let s := modFrag s r.warp r.frag fun f => { f with wait := { f.wait with ids := [] } }
      let acc : LAcc := { lane := 0, elem := 0, addr := r.addr, n := r.bytes }
      let s := (match res with
        | .error (c, sub) => x.trapScalar s c sub r.addr
        | .ok bs =>
          match x.i with
          | .swait cc f => readied (x.waitRead s cc f r.addr (BitVec.ofNat 64 (leNat bs))) r.warp r.frag
          | .pload _ => x.finish s (x.w.setProf bs)
          | _ => x.done (x.landing s none [(acc, bs)]))
      parkLater s r.warp r.frag x.f.brk

/-! ## Locked translations (R173, R328) -/

/-- The cluster TLB of a core; the control cores of a half share one of their own. -/
def tlbOf (ctl : Bool) (core : Nat) : Nat := if ctl then 12 + core / 16 else clusterOf core

/-- Valid lockable entries of a region. -/
def Machine.LockRegion.held (r : LockRegion) : Nat := (r.pages.filter fun p => p.2.2 == .locked).length

/-- Lockable entries in use in a cluster, of one context or of all. -/
def lockedIn (s : State) (tlb : Nat) (ctx : Option Nat) : Nat :=
  (Tbl.vals s.wgs).foldl (fun n g =>
    if tlbOf g.ctl g.core = tlb && g.resid == .resident && (match ctx with | some c => g.ctx == c | none => true) then
      g.locks.foldl (fun n r => n + r.held) n
    else n) 0

/-- Pages of a range from an offset on: page offsets and sizes, at most `fuel` of them; an unmapped page ends the list with its address. -/
def pagesOf (s : State) (ctx : Nat) : Nat → Nat → Nat → List (Nat × Nat × LockSt) × Option Nat
  | 0, _, _ => ([], none)
  | fuel + 1, a, hi =>
    if hi ≤ a then ([], none)
    else match (if a < 2 ^ 57 then leafOf s ctx a else none) with
      | none => ([], some a)
      | some (_, sh) =>
        let p := a / 2 ^ sh * 2 ^ sh
        let r := pagesOf s ctx fuel (p + 2 ^ sh) hi
        ((p, 2 ^ sh, .locked) :: r.1, r.2)

/-- Lock a range. A cluster has 256 lockable entries. -/
def effTlock (f : SFmt) (s : State) (x : Issue) : State :=
  let a := x.w.spair f.aReg
  let n := (x.w.spair f.bReg).toNat
  let put (s : State) (v : Nat) : State := x.finish s (x.w.setSreg x.f.lanes f.d.toNat (BitVec.ofNat 32 v))
  if (pathCheck a .ld).isSome || !(pathOf a == 0 || pathOf a == 1 || pathOf a == 6) then x.trapScalar s .path 0 a
  else if n = 0 then put s 0
  else match Tbl.find s.wgs x.w.wg, Tbl.find s.ctxs x.w.ctx with
    | some g, some c =>
      if 8 ≤ g.locks.length then put s 0xFFFFFFFE
      else
        let r := pagesOf s x.w.ctx 257 (offOf a) (offOf a + n)
        match r.2 with
        | some b => x.trapScalar s .page 0 (BitVec.ofNat 64 (pathOf a * 2 ^ 60 + b))
        | none =>
          let tlb := tlbOf x.w.ctl x.w.core
          if 256 < lockedIn s tlb none + r.1.length || c.desc.lockcap < lockedIn s tlb (some x.w.ctx) + r.1.length then put s 0xFFFFFFFF
          else put (modWg s x.w.wg fun g => { g with locks := g.locks ++ [{ base := a, len := n, pages := r.1 }] }) r.1.length
    | _, _ => put s 0

def Machine.execTlock (f : SFmt) (s : State) : Host.Outcome State Fault Refusal := issue (.tlock f) false (effTlock f) s

/-- Release a region named by its base and length. -/
def effTunlock (f : SFmt) (s : State) (x : Issue) : State :=
  let a := x.w.spair f.aReg
  let n := (x.w.spair f.bReg).toNat
  let put (s : State) (v : Nat) : State := x.finish s (x.w.setSreg x.f.lanes f.d.toNat (BitVec.ofNat 32 v))
  if (pathCheck a .ld).isSome || !(pathOf a == 0 || pathOf a == 1 || pathOf a == 6) then x.trapScalar s .path 0 a
  else match (Tbl.find s.wgs x.w.wg).bind fun g => g.locks.find? fun r => r.base == a && r.len == n with
    | none => put s 0
    | some r =>
      -- a region restored unlocked stays with the workgroup and releases nothing (R328)
      if r.pages.all fun p => p.2.2 == .lost then put s 0
      else put (modWg s x.w.wg fun g => { g with locks := g.locks.erase r }) r.held

def Machine.execTunlock (f : SFmt) (s : State) : Host.Outcome State Fault Refusal := issue (.tunlock f) false (effTunlock f) s

end Sys2Proof
end

