-- ==== Sys2Proof/Machine/Vector.lean ====
section
/-! DEFINITION. Vector arithmetic and logic (R137 to R152), profile evaluation (R79) and edge functions (R156). -/

namespace Sys2Proof

open Machine

/-! ## Lanes in, lanes out (R137) -/

/-- Rounding mode of RC (R69); stochastic rounding takes its mode per element. -/
def rcMode (rc : Rc) (mode : Word) : Rm :=
  match rc with
  | .rne => .rne
  | .rtz => .rtz
  | .rup => .rup
  | .rdn => .rdn
  | .mode | .sr => rmOfMode mode

/-- The environment of a vector instruction. -/
def Issue.venv (x : Issue) (f : VFmt) : FEnv := { FEnv.ofMode x.w.pcr.mode x.f.pc with rm := rcMode f.rc x.w.pcr.mode, sat := f.sat }

/-- Sources of one lane at a type. -/
def Issue.srcA (x : Issue) (f : VFmt) (ty : VTy) (l : Nat) : DWord := selVal x.w x.fid x.f ty 0 f.a l
def Issue.srcB (x : Issue) (f : VFmt) (ty : VTy) (l : Nat) : DWord := selVal x.w x.fid x.f ty 1 f.b l
def Issue.srcC (x : Issue) (f : VFmt) (ty : VTy) (l : Nat) : DWord := selVal x.w x.fid x.f ty 2 f.c l

/-- Write a producing instruction's results: registers unless NW, and the latch. -/
def Issue.produce (x : Issue) (s : State) (f : VFmt) (wide : Bool) (rs : List (Nat × DWord)) : State :=
  let w' := if f.nw then x.w else x.w.setVlanes wide f.d.toNat rs
  x.done (pushLatch (putWarp { s with freeCtr := s.freeCtr + latchDraws wide } x.wid w') x.wid x.fid (latchOf x.w wide s.freeCtr f.d.toNat rs))

/-- A result for every active lane, every source read before any lane is written. -/
def effLanes (f : VFmt) (wide : Bool) (r : Issue → Nat → DWord) (s : State) (x : Issue) : State :=
  x.produce s f wide (x.lanes.map fun l => (l, r x l))

/-- An element rule applied to same-numbered elements of A, B and C. -/
def elementwise (f : VFmt) (op : Issue → Nat → Nat → Nat → Nat → Nat) (x : Issue) (l : Nat) : DWord :=
  f.ty.pack ((List.range f.ty.count).map fun i =>
    op x l (elemAt f.ty.width (x.srcA f f.ty l) i) (elemAt f.ty.width (x.srcB f f.ty l) i) (elemAt f.ty.width (x.srcC f f.ty l) i))

/-- The shape of most V-format instructions. -/
def effElem (f : VFmt) (op : Issue → Nat → Nat → Nat → Nat → Nat) : State → Issue → State := effLanes f f.ty.isL (elementwise f op)

/-! ## Arithmetic (Table 06.1) -/

/-- Exact integers of elements. -/
def VFmt.int (f : VFmt) (n : Nat) : Int := toI f.ty.isSigned f.ty.width n

/-- An exact integer result, clamped under SAT. -/
def VFmt.fit (f : VFmt) (v : Int) : Nat := fitI f.ty.isSigned f.sat f.ty.width v

def elAdd (f : VFmt) (x : Issue) (l a b _ : Nat) : Nat :=
  if f.ty.isFloat then f.ty.ff.add (x.venv f) l a b else f.fit (f.int a + f.int b)

def elSub (f : VFmt) (x : Issue) (l a b _ : Nat) : Nat :=
  if f.ty.isFloat then f.ty.ff.sub (x.venv f) l a b else f.fit (f.int a - f.int b)

def elMul (f : VFmt) (x : Issue) (l a b _ : Nat) : Nat :=
  if f.ty.isFloat then f.ty.ff.mul (x.venv f) l a b else f.fit (f.int a * f.int b)

def elMulh (f : VFmt) (_ : Issue) (_ a b _ : Nat) : Nat := wrapI f.ty.width (f.int a * f.int b / (2 ^ f.ty.width : Int))

def elMad (f : VFmt) (_ : Issue) (_ a b c : Nat) : Nat := f.fit (f.int a * f.int b + f.int c)

def elFma (f : VFmt) (x : Issue) (l a b c : Nat) : Nat := f.ty.ff.fma (x.venv f) l a b c

def elMin (f : VFmt) (x : Issue) (_ a b _ : Nat) : Nat :=
  if f.ty.isFloat then f.ty.ff.minmax (x.venv f) false a b else if f.int b < f.int a then b else a

def elMax (f : VFmt) (x : Issue) (_ a b _ : Nat) : Nat :=
  if f.ty.isFloat then f.ty.ff.minmax (x.venv f) true a b else if f.int a < f.int b then b else a

def elAbs (f : VFmt) (x : Issue) (_ a _ _ : Nat) : Nat :=
  if f.ty.isFloat then f.ty.ff.signOp (x.venv f) true a else f.fit (f.int a).natAbs

def elNeg (f : VFmt) (x : Issue) (_ a _ _ : Nat) : Nat :=
  if f.ty.isFloat then f.ty.ff.signOp (x.venv f) false a else f.fit (-(f.int a))

def Machine.execVadd (f : VFmt) (s : State) : Host.Outcome State Fault Refusal := issue (.vadd f) false (effElem f (elAdd f)) s
def Machine.execVsub (f : VFmt) (s : State) : Host.Outcome State Fault Refusal := issue (.vsub f) false (effElem f (elSub f)) s
def Machine.execVmul (f : VFmt) (s : State) : Host.Outcome State Fault Refusal := issue (.vmul f) false (effElem f (elMul f)) s
def Machine.execVmulh (f : VFmt) (s : State) : Host.Outcome State Fault Refusal := issue (.vmulh f) false (effElem f (elMulh f)) s
def Machine.execVmad (f : VFmt) (s : State) : Host.Outcome State Fault Refusal := issue (.vmad f) false (effElem f (elMad f)) s
def Machine.execVfma (f : VFmt) (s : State) : Host.Outcome State Fault Refusal := issue (.vfma f) false (effElem f (elFma f)) s
def Machine.execVmin (f : VFmt) (s : State) : Host.Outcome State Fault Refusal := issue (.vmin f) false (effElem f (elMin f)) s
def Machine.execVmax (f : VFmt) (s : State) : Host.Outcome State Fault Refusal := issue (.vmax f) false (effElem f (elMax f)) s
def Machine.execVabs (f : VFmt) (s : State) : Host.Outcome State Fault Refusal := issue (.vabs f) false (effElem f (elAbs f)) s
def Machine.execVneg (f : VFmt) (s : State) : Host.Outcome State Fault Refusal := issue (.vneg f) false (effElem f (elNeg f)) s

/-! ## Logic, shifts and bit fields (Table 06.2) -/

def elAnd (_ : VFmt) (_ : Issue) (_ a b _ : Nat) : Nat := a &&& b
def elOr (_ : VFmt) (_ : Issue) (_ a b _ : Nat) : Nat := a ||| b
def elXor (_ : VFmt) (_ : Issue) (_ a b _ : Nat) : Nat := a ^^^ b
def elAndn (f : VFmt) (_ : Issue) (_ a b _ : Nat) : Nat := a &&& (2 ^ f.ty.width - 1 - b)
def elNot (f : VFmt) (_ : Issue) (_ a _ _ : Nat) : Nat := 2 ^ f.ty.width - 1 - a
def elShl (f : VFmt) (_ : Issue) (_ a b _ : Nat) : Nat := a * 2 ^ (b % f.ty.width)
def elShr (f : VFmt) (_ : Issue) (_ a b _ : Nat) : Nat := a / 2 ^ (b % f.ty.width)
def elSar (f : VFmt) (_ : Issue) (_ a b _ : Nat) : Nat := sarNat f.ty.width a (b % f.ty.width)

/-- Bit j is the entry of the table that the three bits j name. -/
def elLut3 (f : VFmt) (_ : Issue) (_ a b c : Nat) : Nat :=
  (List.range 32).foldl (fun r j =>
    let k := a / 2 ^ j % 2 * 4 + b / 2 ^ j % 2 * 2 + c / 2 ^ j % 2
    r + f.x.toNat / 2 ^ k % 2 * 2 ^ j) 0

/-- Bits [63:32] of (A:B) shifted left. -/
def elFshl (_ : VFmt) (_ : Issue) (_ a b c : Nat) : Nat := (a * 2 ^ 32 + b) * 2 ^ (c % 32) / 2 ^ 32 % 2 ^ 32

/-- Bits [31:0] of (A:B) shifted right. -/
def elFshr (_ : VFmt) (_ : Issue) (_ a b c : Nat) : Nat := (a * 2 ^ 32 + b) / 2 ^ (c % 32) % 2 ^ 32

def elPopc (f : VFmt) (_ : Issue) (_ a _ _ : Nat) : Nat := popcount f.ty.width a
def elClz (f : VFmt) (_ : Issue) (_ a _ _ : Nat) : Nat := clz f.ty.width a
def elCtz (f : VFmt) (_ : Issue) (_ a _ _ : Nat) : Nat := ctz f.ty.width a

/-- Position and bounded width of a field word (R142). -/
def fieldPos (b : Nat) : Nat := b % 32
def fieldWidth (b : Nat) : Nat := min (b / 256 % 64) (32 - b % 32)

def elBfe (f : VFmt) (_ : Issue) (_ a b _ : Nat) : Nat :=
  let v := a / 2 ^ fieldPos b % 2 ^ fieldWidth b
  if fieldWidth b = 0 then 0 else wrapI 32 (toI (f.ty == .s32) (fieldWidth b) v)

def elBfi (_ : VFmt) (_ : Issue) (_ a b c : Nat) : Nat :=
  a - a / 2 ^ fieldPos c % 2 ^ fieldWidth c * 2 ^ fieldPos c + b % 2 ^ fieldWidth c * 2 ^ fieldPos c

def elBrev (_ : VFmt) (_ : Issue) (_ a _ _ : Nat) : Nat := bitrev 32 a

/-- `vmov` and `vsel` copy bits. -/
def laneMov (f : VFmt) (x : Issue) (l : Nat) : DWord := x.srcA f f.ty l

def laneSel (f : VFmt) (x : Issue) (l : Nat) : DWord :=
  if (x.w.triple (f.x.toNat % 128)).getLsbD l then x.srcA f f.ty l else x.srcB f f.ty l

def Machine.execVand (f : VFmt) (s : State) : Host.Outcome State Fault Refusal := issue (.vand f) false (effElem f (elAnd f)) s
def Machine.execVor (f : VFmt) (s : State) : Host.Outcome State Fault Refusal := issue (.vor f) false (effElem f (elOr f)) s
def Machine.execVxor (f : VFmt) (s : State) : Host.Outcome State Fault Refusal := issue (.vxor f) false (effElem f (elXor f)) s
def Machine.execVandn (f : VFmt) (s : State) : Host.Outcome State Fault Refusal := issue (.vandn f) false (effElem f (elAndn f)) s
def Machine.execVnot (f : VFmt) (s : State) : Host.Outcome State Fault Refusal := issue (.vnot f) false (effElem f (elNot f)) s
def Machine.execVshl (f : VFmt) (s : State) : Host.Outcome State Fault Refusal := issue (.vshl f) false (effElem f (elShl f)) s
def Machine.execVshr (f : VFmt) (s : State) : Host.Outcome State Fault Refusal := issue (.vshr f) false (effElem f (elShr f)) s
def Machine.execVsar (f : VFmt) (s : State) : Host.Outcome State Fault Refusal := issue (.vsar f) false (effElem f (elSar f)) s
def Machine.execVlut3 (f : VFmt) (s : State) : Host.Outcome State Fault Refusal := issue (.vlut3 f) false (effElem f (elLut3 f)) s
def Machine.execVfshl (f : VFmt) (s : State) : Host.Outcome State Fault Refusal := issue (.vfshl f) false (effElem f (elFshl f)) s
def Machine.execVfshr (f : VFmt) (s : State) : Host.Outcome State Fault Refusal := issue (.vfshr f) false (effElem f (elFshr f)) s
def Machine.execVpopc (f : VFmt) (s : State) : Host.Outcome State Fault Refusal := issue (.vpopc f) false (effElem f (elPopc f)) s
def Machine.execVclz (f : VFmt) (s : State) : Host.Outcome State Fault Refusal := issue (.vclz f) false (effElem f (elClz f)) s
def Machine.execVctz (f : VFmt) (s : State) : Host.Outcome State Fault Refusal := issue (.vctz f) false (effElem f (elCtz f)) s
def Machine.execVbfe (f : VFmt) (s : State) : Host.Outcome State Fault Refusal := issue (.vbfe f) false (effElem f (elBfe f)) s
def Machine.execVbfi (f : VFmt) (s : State) : Host.Outcome State Fault Refusal := issue (.vbfi f) false (effElem f (elBfi f)) s
def Machine.execVbrev (f : VFmt) (s : State) : Host.Outcome State Fault Refusal := issue (.vbrev f) false (effElem f (elBrev f)) s
def Machine.execVmov (f : VFmt) (s : State) : Host.Outcome State Fault Refusal := issue (.vmov f) false (effLanes f f.ty.isL (laneMov f)) s
def Machine.execVsel (f : VFmt) (s : State) : Host.Outcome State Fault Refusal := issue (.vsel f) false (effLanes f f.ty.isL (laneSel f)) s

/-! ## Compares (R143) -/

/-- The relation between the selected elements of one lane. -/
def cmpHolds (cc : VCc) (f : VFmt) (x : Issue) (l : Nat) : Bool :=
  let e := f.x.toNat % 8
  let a := elemAt f.ty.width (x.srcA f f.ty l) e
  let b := elemAt f.ty.width (x.srcB f f.ty l) e
  if f.ty.isFloat then f.ty.ff.cmp ((FEnv.ofMode x.w.pcr.mode x.f.pc).ftz f.ty.ff) cc a b else intCmp cc (f.int a) (f.int b)

/-- The triple with the active lanes' bits replaced. -/
def cmpTriple (cc : VCc) (f : VFmt) (x : Issue) : LaneMask :=
  (x.w.triple f.d.toNat &&& ~~~x.act) ||| maskOfList (x.lanes.filter (cmpHolds cc f x))

def effVcmp (cc : VCc) (f : VFmt) (s : State) (x : Issue) : State :=
  let w' := if f.nw then x.w else x.w.setTriple x.f.lanes f.d.toNat (cmpTriple cc f x)
  x.done (pushLatch (putWarp { s with freeCtr := s.freeCtr + latchDraws false } x.wid w') x.wid x.fid (bitLatch s.freeCtr (cmpTriple cc f x)))

def Machine.execVcmp (cc : VCc) (f : VFmt) (s : State) : Host.Outcome State Fault Refusal := issue (.vcmp cc f) false (effVcmp cc f) s

/-! ## Float special functions (Table 06.3) -/

def elRcp (f : VFmt) (x : Issue) (l a _ _ : Nat) : Nat := f.ty.ff.rcp (x.venv f) l a
def elRsq (f : VFmt) (x : Issue) (l a _ _ : Nat) : Nat := f.ty.ff.rsq (x.venv f) l a
def elSqrt (f : VFmt) (x : Issue) (l a _ _ : Nat) : Nat := f.ty.ff.sqrt (x.venv f) l a
def elFloor (f : VFmt) (x : Issue) (_ a _ _ : Nat) : Nat := f.ty.ff.integral (x.venv f) .rdn a
def elCeil (f : VFmt) (x : Issue) (_ a _ _ : Nat) : Nat := f.ty.ff.integral (x.venv f) .rup a
def elTrunc (f : VFmt) (x : Issue) (_ a _ _ : Nat) : Nat := f.ty.ff.integral (x.venv f) .rtz a
def elRint (f : VFmt) (x : Issue) (_ a _ _ : Nat) : Nat := f.ty.ff.integral (x.venv f) (x.venv f).rm a
def elFract (f : VFmt) (x : Issue) (l a _ _ : Nat) : Nat := f.ty.ff.fract (x.venv f) l a
def elClass (f : VFmt) (_ : Issue) (_ a _ _ : Nat) : Nat := f.ty.ff.classMask a

/-- n is the signed element of B. -/
def elLdexp (f : VFmt) (x : Issue) (l a b _ : Nat) : Nat := f.ty.ff.ldexp (x.venv f) l a (toI true f.ty.width b)
def elGetexp (f : VFmt) (x : Issue) (l a _ _ : Nat) : Nat := f.ty.ff.getexp (x.venv f) l a
def elGetman (f : VFmt) (x : Issue) (l a _ _ : Nat) : Nat := f.ty.ff.getman (x.venv f) l a

def Machine.execVrcp (f : VFmt) (s : State) : Host.Outcome State Fault Refusal := issue (.vrcp f) false (effElem f (elRcp f)) s
def Machine.execVrsq (f : VFmt) (s : State) : Host.Outcome State Fault Refusal := issue (.vrsq f) false (effElem f (elRsq f)) s
def Machine.execVsqrt (f : VFmt) (s : State) : Host.Outcome State Fault Refusal := issue (.vsqrt f) false (effElem f (elSqrt f)) s
def Machine.execVfloor (f : VFmt) (s : State) : Host.Outcome State Fault Refusal := issue (.vfloor f) false (effElem f (elFloor f)) s
def Machine.execVceil (f : VFmt) (s : State) : Host.Outcome State Fault Refusal := issue (.vceil f) false (effElem f (elCeil f)) s
def Machine.execVtrunc (f : VFmt) (s : State) : Host.Outcome State Fault Refusal := issue (.vtrunc f) false (effElem f (elTrunc f)) s
def Machine.execVrint (f : VFmt) (s : State) : Host.Outcome State Fault Refusal := issue (.vrint f) false (effElem f (elRint f)) s
def Machine.execVfract (f : VFmt) (s : State) : Host.Outcome State Fault Refusal := issue (.vfract f) false (effElem f (elFract f)) s
def Machine.execVclass (f : VFmt) (s : State) : Host.Outcome State Fault Refusal := issue (.vclass f) false (effElem f (elClass f)) s
def Machine.execVldexp (f : VFmt) (s : State) : Host.Outcome State Fault Refusal := issue (.vldexp f) false (effElem f (elLdexp f)) s
def Machine.execVgetexp (f : VFmt) (s : State) : Host.Outcome State Fault Refusal := issue (.vgetexp f) false (effElem f (elGetexp f)) s
def Machine.execVgetman (f : VFmt) (s : State) : Host.Outcome State Fault Refusal := issue (.vgetman f) false (effElem f (elGetman f)) s

/-! ## Profile functions (R79, R146) -/

/-- RNE, nothing flushed, nothing saturated: the arithmetic of R79 to R82. -/
def FEnv.plain : FEnv := { rm := .rne, sat := false, ftz32 := false, ftz16 := false, ntag := false, pc := 0 }

/-- a × b + c in f32 in one rounding; a NaN operand is returned quieted, none is an invalid operation. -/
def fmaPlain (a b c : Nat) : Option Nat :=
  match [a, b, c].find? FF.f32.isNan with
  | some n => some (FF.f32.quiet n)
  | none => (((FF.f32.dec a).mul (FF.f32.dec b)).bind fun p => p.add .rne (FF.f32.dec c)).map (FF.f32.round .rne false false)

/-- x − b in f32, likewise. -/
def subPlain (a b : Nat) : Option Nat :=
  match [a, b].find? FF.f32.isNan with
  | some n => some (FF.f32.quiet n)
  | none => ((FF.f32.dec a).add .rne (FF.f32.dec b).neg).map (FF.f32.round .rne false false)

/-- Word k of a profile table. -/
def profWord (p : Tbl Word) (k : Nat) : Nat := (Tbl.read 0 p k).toNat

/-- The segment of an argument: the largest index of the range whose breakpoint is at most x, else FIRST. -/
def profSegment (p : Tbl Word) (first last x : Nat) : Nat :=
  (List.range (last + 1 - first)).foldl (fun i k => if FF.f32.cmp false .le (profWord p (5 * (first + k))) x then first + k else i) first

/-- The R79 evaluation of an f32 that is no NaN: the f32 result, or none for a Tag. -/
def profEval (p : Tbl Word) (fid x : Nat) : Option Nat :=
  let r := profWord p (320 + fid)
  let first := r % 64
  let last := r / 256 % 64
  if r < 2 ^ 31 || last < first then none
  else
    let i := profSegment p first last x
    (subPlain x (profWord p (5 * i))).bind fun u =>
    (fmaPlain u (profWord p (5 * i + 4)) (profWord p (5 * i + 3))).bind fun y =>
    (fmaPlain u y (profWord p (5 * i + 2))).bind fun y =>
    fmaPlain u y (profWord p (5 * i + 1))

/-- `vprof` of one element (R79): a NaN is kept, quiet. DESIGN CHOICE (log 67): the steps are in f32 and the spec does not say in which
format an invalid operation of theirs makes its Tag; it is the Tag of the element type. -/
def elProf (fid : Nat) (f : VFmt) (x : Issue) (l a _ _ : Nat) : Nat :=
  let ff := f.ty.ff
  if ff.isNan a then ff.quiet a
  else match profEval x.w.prof fid (FF.conv ff .f32 .plain a) with
    | some y => FF.conv .f32 ff .plain y
    | none => ff.tag (x.venv f).ntag l x.f.pc

def Machine.execVprof (fid : BitVec 3) (f : VFmt) (s : State) : Host.Outcome State Fault Refusal :=
  issue (.vprof fid f) false (effElem f (elProf fid.toNat f)) s

/-! ## Conversions (R148 to R151) -/

/-- The stochastic state of a lane (R71). -/
def Machine.Warp.srsOf (w : Warp) (l : Nat) : Word := (Tbl.find w.srs l).getD (srsInit w.pcr.seed l)

/-- The random word a lane uses at this instruction. -/
def Issue.rnd (x : Issue) (l : Nat) : Word := srsNext (x.w.srsOf l) x.f.pc

/-- Lanes advance when they write a stochastic result (R71). -/
def Machine.Warp.advance (w : Warp) (pc : DWord) (ls : List Nat) : Warp :=
  { w with srs := ls.foldl (fun t l => Tbl.put t l (srsNext (w.srsOf l) pc)) w.srs }

/-- cvt(x, j): R70 into destination element j, under stochastic rounding with the lane's bits for it. -/
def cvtElem (f : VFmt) (st : VTy) (x : Issue) (l j b : Nat) : Nat :=
  let e := x.venv f
  let e := if f.rc == .sr then { e with rm := srsElem (x.rnd l) f.ty.count j } else e
  convElem st f.ty e b

/-- Replace elements of a lane value. -/
def setElems (w : Nat) (v : DWord) (es : List (Nat × Nat)) : DWord :=
  es.foldl (fun v p => BitVec.ofNat 64 (v.toNat - elemAt w v p.1 * 2 ^ (w * p.1) + p.2 % 2 ^ w * 2 ^ (w * p.1))) v

def laneCvt (f : VFmt) (st : VTy) (x : Issue) (l : Nat) : DWord :=
  let ns := st.count
  let nd := f.ty.count
  let p := f.xPos
  let a := x.srcA f st l
  let base := x.w.vval f.ty.isL f.d.toNat l
  if ns ≤ nd then setElems f.ty.width base ((List.range ns).map fun i => (p * ns + i, cvtElem f st x l (p * ns + i) (elemAt st.width a i)))
  else setElems f.ty.width base ((List.range nd).map fun i => (i, cvtElem f st x l i (elemAt st.width a (p * nd + i))))

/-- A conversion, with the stochastic advance. -/
def effConv (f : VFmt) (r : Issue → Nat → DWord) (s : State) (x : Issue) : State :=
  let x' := if f.rc == .sr then { x with w := x.w.advance x.f.pc x.lanes } else x
  x'.produce s f f.ty.isL (x.lanes.map fun l => (l, r x l))

def Machine.execVcvt (f : VFmt) (s : State) : Host.Outcome State Fault Refusal :=
  issue (.vcvt f) false (effConv f (laneCvt f (f.srcTy.getD .b32))) s

def lanePack (f : VFmt) (st : VTy) (x : Issue) (l : Nat) : DWord :=
  let ns := st.count
  f.ty.pack ((List.range (2 * ns)).map fun j =>
    cvtElem f st x l j (if j < ns then elemAt st.width (x.srcA f st l) j else elemAt st.width (x.srcB f st l) (j - ns)))

def Machine.execVpack (f : VFmt) (s : State) : Host.Outcome State Fault Refusal :=
  issue (.vpack f) false (effConv f (lanePack f (f.srcTy.getD .b32))) s

/-- Half h of the source, every element widened. -/
def laneUnpack (f : VFmt) (st : VTy) (x : Issue) (l : Nat) : DWord :=
  let nd := f.ty.count
  let h := f.x.toNat / 16 % 2
  f.ty.pack ((List.range nd).map fun i => convElem st f.ty (x.venv f) (elemAt st.width (x.srcA f st l) (h * nd + i)))

def Machine.execVunpack (f : VFmt) (s : State) : Host.Outcome State Fault Refusal :=
  issue (.vunpack f) false (effLanes f f.ty.isL (laneUnpack f (f.srcTy.getD .b32))) s

/-- The f32 that a lane gives to its block, flushed. -/
def Issue.mxSrc (x : Issue) (f : VFmt) (l : Nat) : Nat := FF.f32.flush (x.venv f).ftz32 (x.srcA f .f32 l).toNat

/-- Scale of the block of a lane's beat. -/
def Issue.mxBlock (x : Issue) (f : VFmt) (l : Nat) : Nat :=
  mxScale f.ty.ff ((x.lanes.filter fun k => k / 32 == l / 32).map (x.mxSrc f))

def laneMxs (f : VFmt) (x : Issue) (l : Nat) : DWord :=
  let rm := if f.rc == .sr then srsElem (x.rnd l) f.ty.count f.xPos else (x.venv f).rm
  setElems f.ty.width ((x.w.vreg f.d.toNat l).setWidth 64) [(f.xPos, mxNarrow f.ty.ff rm (x.mxBlock f l) (x.mxSrc f l))]

/-- D takes the element, D + 1 the scale; the latch holds D. -/
def effVmxs (f : VFmt) (s : State) (x : Issue) : State :=
  let rs := x.lanes.map fun l => (l, laneMxs f x l)
  let w := if f.rc == .sr then x.w.advance x.f.pc x.lanes else x.w
  let w' := (w.setVlanes false f.d.toNat rs).setVlanes false (f.d.toNat + 1) (x.lanes.map fun l => (l, BitVec.ofNat 64 (x.mxBlock f l)))
  x.done (pushLatch (putWarp { s with freeCtr := s.freeCtr + latchDraws false } x.wid w') x.wid x.fid (latchOf x.w false s.freeCtr f.d.toNat rs))

def Machine.execVmxs (f : VFmt) (s : State) : Host.Outcome State Fault Refusal := issue (.vmxs f) false (effVmxs f) s

/-! ## Dot products (R152) -/

/-- The sum of products and C as exact values; none is an invalid operation. -/
def dotExact (rm : Rm) (ps : List (FVal × FVal)) (c : FVal) : Option FVal :=
  (ps.foldl (fun acc p => acc.bind fun v => (p.1.mul p.2).bind fun q => match v with
      | none => some (some q)
      | some v => (v.add rm q).map some) (some (none : Option FVal))).bind fun v => match v with
    | none => some c
    | some v => v.add rm c

def laneDot (f : VFmt) (x : Issue) (l : Nat) : DWord :=
  let n := f.ty.count
  let as := (List.range n).map (elemAt f.ty.width (x.srcA f f.ty l))
  let bs := (List.range n).map (elemAt f.ty.width (x.srcB f f.ty l))
  if f.ty.isFloat then
    let e := x.venv f
    let ff := f.ty.ff
    let as := as.map (ff.flush (e.ftz ff))
    let bs := bs.map (ff.flush (e.ftz ff))
    let c := FF.f32.flush e.ftz32 (x.srcC f .f32 l).toNat
    BitVec.ofNat 64
      (match (as ++ bs).find? ff.isNan with
       | some b => FF.convNan ff .f32 b
       | none =>
         if FF.f32.isNan c then FF.f32.quiet c
         else match dotExact e.rm ((as.zip bs).map fun p => (ff.dec p.1, ff.dec p.2)) (FF.f32.dec c) with
           | some v => FF.f32.round e.rm e.sat e.ftz32 v
           | none => FF.f32.tag e.ntag l x.f.pc)
  else
    let t := ((as.zip bs).foldl (fun (acc : Int) p => acc + f.int p.1 * f.int p.2) 0) + toI true 32 (x.srcC f .s32 l).toNat
    BitVec.ofNat 64 (fitI true f.sat 32 t)

def Machine.execVdot2 (f : VFmt) (s : State) : Host.Outcome State Fault Refusal := issue (.vdot2 f) false (effLanes f false (laneDot f)) s
def Machine.execVdot4 (f : VFmt) (s : State) : Host.Outcome State Fault Refusal := issue (.vdot4 f) false (effLanes f false (laneDot f)) s

/-! ## Edge functions (R156) -/

def laneEdge (f : VFmt) (x : Issue) (l : Nat) : DWord :=
  let dx : Int := (l % 12 * 256 + 16 * (f.y.toNat % 16) : Nat)
  let dy : Int := (l / 12 * 256 + 16 * (f.y.toNat / 16) : Nat)
  let v (n : DWord) : Int := toI true 32 n.toNat
  let e := v (x.srcA f .s32 l) * dx + v (x.srcB f .s32 l) * dy + v (x.srcC f .s32 l)
  if 0 < e || (e = 0 && f.x.getLsbD 0) then 1 else 0

def Machine.execVedge (f : VFmt) (s : State) : Host.Outcome State Fault Refusal := issue (.vedge f) false (effLanes f false (laneEdge f)) s

end Sys2Proof
end

