-- ==== Sys2Proof/Machine/Tiles.lean ====
section
/-! DEFINITION. Tiles, accumulator tiles and the instructions on them (R45, R46, R185 to R203), and the arithmetic of a matrix operation
(R80, R81). -/

namespace Sys2Proof

open Machine

/-! ## Shapes (R46, Table 02.6) -/

/-- A shape that passes R46: element width in bits, rows, columns. -/
structure TShape where
  ew   : Nat
  rows : Nat
  cols : Nat
  deriving DecidableEq, Repr

def shapeOf (v : Word) : Option TShape :=
  let n := v.toNat
  let ew := 4 * 2 ^ (n / 2 ^ 30)
  let rows := n / 2 ^ 16 % 256
  let cols := n % 2 ^ 16
  if n / 2 ^ 24 % 64 != 0 || rows = 0 || 64 < rows || cols = 0 || (ew = 4 && cols % 2 = 1) || 256 < cols * ew / 8 then none
  else some { ew := ew, rows := rows, cols := cols }

def Machine.Warp.tsh (w : Warp) (t : Nat) : Word := Tbl.read 0 w.pcr.tsh t

/-- A tile below the `.tiles` count with a good shape. -/
def Machine.Warp.tileShape (w : Warp) (t : Nat) : Option TShape := if t < w.tiles then shapeOf (w.tsh t) else none

/-- Bytes of a row. -/
def TShape.rowBytes (h : TShape) : Nat := h.cols * h.ew / 8

/-! ## Contents (R185) -/

def Machine.Warp.tbyte (w : Warp) (t o : Nat) : Byte := Tbl.read (0 : Byte) w.tile (16384 * t + o)

/-- Element (i, j) of a tile. -/
def Machine.Warp.telem (w : Warp) (t ew i j : Nat) : Nat :=
  let b := 256 * i + ew * j / 8
  leNat ((List.range (max 1 (ew / 8))).map fun k => w.tbyte t (b + k)) / 2 ^ (ew * j % 8) % 2 ^ ew

def tileKey (t o : Nat) : Nat := 16384 * t + o

/-- A tile with every byte 0. -/
def clearTile (m : Tbl Byte) (t : Nat) : Tbl Byte := Tbl.keep m fun k _ => k / 16384 != t

/-- Bytes written into a tile. -/
def putTile (m : Tbl Byte) (t : Nat) (bs : List (Nat × Byte)) : Tbl Byte := bs.foldl (fun m p => Tbl.write 0 m (tileKey t p.1) p.2) m

/-- Word 64i + j of an accumulator tile. -/
def Machine.Warp.aword (w : Warp) (c k : Nat) : Word := Tbl.read 0 w.acc (4096 * c + k)

/-- An accumulator tile with every element +0. -/
def clearAcc (m : Tbl Word) (c : Nat) : Tbl Word := Tbl.keep m fun k _ => k / 4096 != c

def Machine.Warp.setLive (w : Warp) (c : Nat) (b : Bool) : Warp :=
  { w with live := if b then w.live ||| BitVec.ofNat 48 (2 ^ c) else w.live &&& ~~~(BitVec.ofNat 48 (2 ^ c)) }

/-! ## The scoreboard (R187) -/

/-- Tiles and accumulator tiles that an instruction reads and writes. -/
structure Board where
  rt : List Nat
  wt : List Nat
  ra : List Nat
  wa : List Nat
  deriving DecidableEq, Repr

/-- Matrix operations of a warp that are queued or chained to a copy. -/
def mopsOf (s : State) (wid : Nat) : List MOp :=
  (s.mops.filterMap fun p => if p.2.warp = wid then some p.2 else none) ++
  (s.copies.filterMap fun p => if p.2.warp = wid then p.2.chain else none)

def Machine.MOp.reads (m : MOp) : List Nat := [m.ta, m.tb] ++ (if 2 ≤ m.fn then [m.xa, m.xb] else [])

/-- An access keeps a tile or accumulator tile that the instruction needs. -/
def Board.clash (b : Board) (a : Access) : Bool :=
  (b.rt.any a.tiles.contains) || (b.wt.any fun t => a.tiles.contains t || a.tilesR.contains t) ||
  (b.ra.any a.accs.contains) || (b.wa.any fun c => a.accs.contains c || a.accsR.contains c)

/-- So does a matrix operation. -/
def Board.clashM (b : Board) (m : MOp) : Bool := b.wt.any m.reads.contains || b.ra.contains m.acc || b.wa.contains m.acc

def Issue.boardBusy (x : Issue) (s : State) (b : Board) : Bool := (x.w.access.any fun p => b.clash p.2) || (mopsOf s x.wid).any b.clashM

/-- Stall while the scoreboard holds something the instruction needs. -/
def Issue.onBoard (x : Issue) (s : State) (b : Board) (go : State) : State :=
  if x.boardBusy s b then x.stall s (x.w.tokensOf b.clash) else go

/-! ## Checks of warp-wide instructions (R188) -/

/-- act(f) is the set of all alive lanes of the warp. -/
def Issue.warpWide (x : Issue) : Bool := x.act == x.w.alive

/-- MPART, ACCX, TILE, REGX in this order; none passes. -/
def Issue.wideFault (x : Issue) (accs tiles : List Nat) (shapes : List Nat) (regs : Nat) : Option Cause :=
  if !x.warpWide then some .mpart
  else if accs.any fun c => decide (x.w.accs ≤ c) then some .accx
  else if (tiles.any fun t => decide (x.w.tiles ≤ t)) || shapes.any fun t => (x.w.tileShape t).isNone then some .tile
  else if x.w.top < regs then some .regx
  else none

/-- The checks, and then the instruction. -/
def Issue.wide (x : Issue) (s : State) (accs tiles shapes : List Nat) (regs : Nat) (go : Unit → State) : State :=
  match x.wideFault accs tiles shapes regs with
  | some c => x.trap s c 0
  | none => go ()

/-- A token that an instruction of the V format takes stalls it while busy. -/
def Issue.onTok (x : Issue) (s : State) (k : Nat) (go : State) : State :=
  if x.w.tokBusy k then x.stall s (BitVec.ofNat 16 (2 ^ k)) else go

/-- Start an access of tiles: the token is taken and the fragment goes on. -/
def Issue.start (x : Issue) (s : State) (a : Access) : State := x.done (addAccess s x.wid a)

def VFmt.tile (f : VFmt) : Nat := f.x.toNat % 16

def VFmt.tokY (f : VFmt) : Nat := f.y.toNat % 16

/-- A scalar or inline selector's integer. -/
def Issue.uni (x : Issue) (pos : Nat) (s : Sel) : Word := selInt x.w x.fid x.f pos s 0

/-! ## tcfg (R189) -/

/-- The shape word. -/
def tcfgWord (f : SFmt) (w : Warp) : Word :=
  if f.isImm then
    let i := f.imm23.toNat
    BitVec.ofNat 32 (i / 2 ^ 21 * 2 ^ 30 + (i / 2 ^ 15 % 64 + 1) * 2 ^ 16 + i % 2 ^ 15)
  else w.sreg f.aReg

def effTcfg (f : SFmt) (s : State) (x : Issue) : State := x.finish s (pcrWrite x.w (16 + f.d.toNat % 16) (tcfgWord f x.w))

def Machine.execTcfg (f : SFmt) (s : State) : Host.Outcome State Fault Refusal := issue (.tcfg f) false (effTcfg f) s

/-! ## tld and tst (R191) -/

/-- Row pieces of the region: tile offset, address, bytes. -/
def tilePieces (h : TShape) (base : DWord) (stride : Word) : List (Nat × DWord × Nat) :=
  (List.range h.rows).flatMap fun r =>
    let row := base + stride.signExtend 64 * BitVec.ofNat 64 r
    (List.range ((h.rowBytes + 3) / 4)).map fun k => (256 * r + 4 * k, row + BitVec.ofNat 64 (4 * k), min 4 (h.rowBytes - 4 * k))

/-- Every lane of a warp. -/
def allLanes : LaneMask := BitVec.ofNat 96 (2 ^ 96 - 1)

/-- The address checks of R191. DESIGN CHOICE (log 16): R56 ranks PATH before WSWR in one lane only; where the rows of a `tst` fail it in both
ways, the first row that fails gives the cause. -/
def Issue.tileAddr (x : Issue) (s : State) (k : Kind) (base : DWord) (stride : Word) (ps : List (Nat × DWord × Nat)) : Option State :=
  let ls := absentLines s x.w.wg (ps.map fun p => (p.2.1, p.2.2))
  match ps.findSome? fun p => (pathCheck p.2.1 k).map fun c => (c, p.2.1) with
  | some (c, a) => some (x.trapScalar s c 0 a)
  | none =>
    if base.toNat % 4 != 0 || stride.toNat % 4 != 0 then some (x.trapScalar s .align 0 base)
    else if k = .ld && !ls.isEmpty then some (x.waitLines s ls)
    else if ps.any fun p => inRefresh s p.2.1 then some (x.stall s 0)
    else match ps.find? fun p => lockMiss s x.w.wg p.2.1 with
      | some p => some (x.trapScalar s .lockmiss 0 p.2.1)
      | none =>
        (ps.findSome? fun p => match resolve s x.who p.2.1 p.2.2 k with
          | .error c => some (c, p.2.1)
          | .ok l => if l.remote then some (.prot, p.2.1) else none).map fun q => x.trapScalar s q.1 0 q.2

def locsOf (s : State) (who : Who) (k : Kind) (ps : List (Nat × DWord × Nat)) : List (Nat × Loc × Nat) :=
  ps.filterMap fun p => match resolve s who p.2.1 p.2.2 k with
    | .ok l => some (p.1, l, p.2.2)
    | .error _ => none

def effTld (f : VFmt) (s : State) (x : Issue) : State :=
  let t := f.tile
  x.wide s [] [t] [t] 0 fun _ =>
    match x.w.tileShape t with
    | none => x.trap s .tile 0
    | some h =>
      let base := selPair x.w f.a
      let stride := x.uni 1 f.b
      let ps := tilePieces h base stride
      match x.tileAddr s .ld base stride ps with
      | some s' => s'
      | none =>
        x.onTok s f.tokY (x.onBoard s { rt := [], wt := [t], ra := [], wa := [] }
          (let bs := (locsOf s x.who .ld ps).flatMap fun p => (x.readAt s base 0 p.2.1 p.2.2).zipIdx.map fun q => (p.1 + q.2, q.1)
           let a : Access := { Machine.Access.plain x.fid x.f.lanes with tok := some f.tokY, tiles := [t], tdst := bs.foldl (fun m p => Tbl.put m (tileKey t p.1) p.2) [] }
           x.start s a))

def Machine.execTld (f : VFmt) (s : State) : Host.Outcome State Fault Refusal := issue (.tld f) false (effTld f) s

/-- Lines of the workgroup's scratchpad that ranges touch. -/
def linesOf (ps : List (DWord × Nat)) : List Nat :=
  ps.foldl (fun ls p =>
    if pathOf p.1 == 2 && p.2 != 0 then
      (List.range ((offOf p.1 + p.2 - 1) / 128 - offOf p.1 / 128 + 1)).foldl (fun ls i =>
        if ls.contains (offOf p.1 / 128 + i) then ls else ls ++ [offOf p.1 / 128 + i]) ls
    else ls) []

def effTst (f : VFmt) (s : State) (x : Issue) : State :=
  let t := f.tile
  x.wide s [] [t] [t] 0 fun _ =>
    match x.w.tileShape t with
    | none => x.trap s .tile 0
    | some h =>
      let base := selPair x.w f.a
      let stride := x.uni 1 f.b
      let ps := tilePieces h base stride
      match x.tileAddr s .st base stride ps with
      | some s' => s'
      | none =>
        x.onTok s f.tokY (x.onBoard s { rt := [t], wt := [], ra := [], wa := [] }
          (let ws := (locsOf s x.who .st ps).map fun p => (p.2.1, (List.range p.2.2).map fun k => x.w.tbyte t (p.1 + k))
           let r := inOrder s ws
           let ls := linesOf (ps.map fun p => (p.2.1, p.2.2))
           let s' := holdLines (r.1.foldl (fun s p => writeLoc s p.1 p.2) r.2) x.w.wg ls
           let a : Access := { Machine.Access.plain x.fid x.f.lanes with tok := some f.tokY, tilesR := [t], lines := ls }
           x.start s' a))

def Machine.execTst (f : VFmt) (s : State) : Host.Outcome State Fault Refusal := issue (.tst f) false (effTst f) s

/-! ## Tile contents (R192, R193) -/

def effTzero (f : VFmt) (s : State) (x : Issue) : State :=
  let t := f.tile
  x.wide s [] [t] [] 0 fun _ =>
    x.onBoard s { rt := [], wt := [t], ra := [], wa := [] } (x.finish s { x.w with tile := clearTile x.w.tile t })

def Machine.execTzero (f : VFmt) (s : State) : Host.Outcome State Fault Refusal := issue (.tzero f) false (effTzero f) s

/-- n of `vtot`, `ttov` and `ctov`. -/
def VFmt.chunks (f : VFmt) : Nat := f.y.toNat % 64 + 1

/-- Register, lane and tile offset of each word that lies in the tile. -/
def chunkWords (c n : Nat) : List (Nat × Nat × Nat) :=
  (List.range n).flatMap fun j => (List.range 96).filterMap fun l =>
    if 384 * (c + j) + 4 * l < 16384 then some (j, l, 384 * (c + j) + 4 * l) else none

def effVtot (f : VFmt) (s : State) (x : Issue) : State :=
  let t := f.tile
  let r := (match f.a with | .vreg n => n.toNat | _ => 0)
  x.wide s [] [t] [] (r + f.chunks) fun _ =>
    x.onRows s allLanes [(r, f.chunks)]
      (x.onBoard s { rt := [], wt := [t], ra := [], wa := [] }
        (x.finish s { x.w with tile := (chunkWords (x.uni 1 f.b).toNat f.chunks).foldl (fun m p =>
            putTile m t ((wordBytes (x.w.vreg (r + p.1) p.2.1)).zipIdx.map fun q => (p.2.2 + q.2, q.1))) x.w.tile }))

def Machine.execVtot (f : VFmt) (s : State) : Host.Outcome State Fault Refusal := issue (.vtot f) false (effVtot f) s

/-- Words for n registers in every lane, 0 where the source has none. -/
def Machine.Warp.setAll (w : Warp) (d n : Nat) (v : Nat → Nat → Word) : Warp :=
  (List.range n).foldl (fun w j => (List.range 96).foldl (fun w l => w.setV (d + j) l (v j l)) w) w

def effTtov (f : VFmt) (s : State) (x : Issue) : State :=
  let t := f.tile
  let c := (x.uni 1 f.b).toNat
  x.wide s [] [t] [] (f.d.toNat + f.chunks) fun _ =>
    x.onRows s allLanes [(f.d.toNat, f.chunks)]
      (x.onBoard s { rt := [t], wt := [], ra := [], wa := [] }
        (x.finish s (x.w.setAll f.d.toNat f.chunks fun j l =>
          let b := 384 * (c + j) + 4 * l
          if b < 16384 then BitVec.ofNat 32 (leNat ((List.range 4).map fun k => x.w.tbyte t (b + k))) else 0)))

def Machine.execTtov (f : VFmt) (s : State) : Host.Outcome State Fault Refusal := issue (.ttov f) false (effTtov f) s

/-- One row of elements packed into bytes. -/
def packRow (ew : Nat) (es : List Nat) : List Byte :=
  let n := es.foldr (fun e acc => e % 2 ^ ew + 2 ^ ew * acc) 0
  leBytes (es.length * ew / 8) n

/-- Tile `t` as the transpose of tile `src`. -/
def Machine.Warp.transposed (w : Warp) (t src : Nat) (h g : TShape) : Tbl Byte :=
  let row (i : Nat) : List (Nat × Byte) :=
    (packRow h.ew ((List.range h.cols).map fun j => w.telem src g.ew j i)).zipIdx.map fun q => (256 * i + q.2, q.1)
  (List.range h.rows).foldl (fun m i => putTile m t (row i)) (clearTile w.tile t)


def effTtr (f : VFmt) (s : State) (x : Issue) : State :=
  let t := f.tile
  let src := f.x.toNat / 16
  x.wide s [] [t, src] [t, src] 0 fun _ =>
    match x.w.tileShape t, x.w.tileShape src with
    | some h, some g =>
      if h.rows != g.cols || h.cols != g.rows || h.ew != g.ew then x.trap s .tile 0
      else
        x.onBoard s { rt := [src], wt := [t], ra := [], wa := [] }
          (x.finish s { x.w with tile := x.w.transposed t src h g })
    | _, _ => x.trap s .tile 0

def Machine.execTtr (f : VFmt) (s : State) : Host.Outcome State Fault Refusal := issue (.ttr f) false (effTtr f) s

/-! ## The arithmetic of a block (R80, R81) -/

/-- Canonical NaN of matrix results. -/
def mnan : Nat := 0x7FC00000

/-- The exact sum of products; none is an invalid operation. -/
def blockSum : List (FVal × FVal) → Option FVal
  | [] => some (.fin false 0)
  | [p] => p.1.mul p.2
  | p :: ps => (p.1.mul p.2).bind fun q => (blockSum ps).bind fun r => q.add .rne r

/-- A value times 2^e. -/
def FVal.scale (v : FVal) (e : Int) : FVal :=
  match v with
  | .fin n m => .fin n (m * pow2 e)
  | v => v

/-- One block added to an accumulator with one rounding; `scale` is the sum of the unbiased scales, none in it a NaN. -/
def accBlock (acc : Nat) (fa fb : FF) (as bs : List Nat) (scale : Option Int) : Nat :=
  if FF.f32.isNan acc then acc
  else if as.any fa.isNan || bs.any fb.isNan then mnan
  else match scale, blockSum ((as.map fa.dec).zip (bs.map fb.dec)) with
    | some e, some v =>
      (match (FF.f32.dec acc).add .rne (v.scale e) with
       | some r => FF.f32.round .rne false false r
       | none => mnan)
    | _, _ => mnan

/-- Unbiased value of an E8M0 scale; none for NaN (R63). -/
def e8m0 (b : Nat) : Option Int := if b = 255 then none else some ((b : Int) - 127)

/-- A list in pieces of b. -/
def blocks (b : Nat) : Nat → List Nat → List (List Nat)
  | 0, _ => []
  | n + 1, xs => xs.take b :: blocks b n (xs.drop b)

/-! ## Matrix instructions (R195 to R197) -/

/-- Operand width code, block and format of TY (Table 08.2). -/
def mmaBlock (ty : VTy) (scaled : Bool) : Nat :=
  match ty with
  | .f16x2 | .bf16x2 => 4
  | .e2m1x8 => 32
  | _ => if scaled then 32 else 8

def mmaWidth (ty : VTy) : Nat :=
  match ty with
  | .f16x2 | .bf16x2 => 16
  | .e2m1x8 => 4
  | _ => 8

/-- The shape rule of R196. -/
def mmaShapes (ty : VTy) (scaled : Bool) (a b xa xb : Option TShape) : Bool :=
  match a, b with
  | some a, some b =>
    a.cols == b.cols && a.ew == mmaWidth ty && b.ew == mmaWidth ty && a.cols % mmaBlock ty scaled == 0 &&
    (!scaled || match xa, xb with
      | some p, some q =>
        p.ew == 8 && p.rows == a.rows && p.cols == a.cols / 32 && q.ew == 8 && q.rows == b.rows && q.cols == a.cols / 32
      | _, _ => false)
  | _, _ => false

/-- One element of the result. -/
def mmaElem (ty : VTy) (scaled : Bool) (a b : List Nat) (xs ys : List Nat) (acc : Nat) : Nat :=
  let blk := mmaBlock ty scaled
  let n := a.length / blk
  let bs := (blocks blk n a).zip (blocks blk n b)
  if ty.isFloat then
    bs.zipIdx.foldl (fun acc p =>
      let scale : Option Int := if scaled then (e8m0 (xs.getD p.2 0)).bind fun u => (e8m0 (ys.getD p.2 0)).map fun v => u + v else some 0
      accBlock acc ty.ff ty.ff p.1.1 p.1.2 scale) acc
  else
    let i (v : Nat) : Int := toI ty.isSigned 8 v
    bs.foldl (fun acc p => fitI true true 32 (toI true 32 acc + ((p.1.zip p.2).foldl (fun (t : Int) q => t + i q.1 * i q.2) 0))) acc

/-- Row i of a tile's operand elements. -/
def Machine.Warp.trow (w : Warp) (t : Nat) (h : TShape) (i : Nat) : List Nat := (List.range h.cols).map (w.telem t h.ew i)

/-- A captured shape. -/
def shapeOr (v : Word) : TShape := (shapeOf v).getD { ew := 8, rows := 0, cols := 0 }

/-- The effect of a matrix operation on its warp (R197). -/
def mopApply (w : Warp) (m : MOp) : Warp :=
  let ha := shapeOr m.shA
  let hb := shapeOr m.shB
  let scaled := decide (2 ≤ m.fn)
  let acc0 := if m.fn % 2 = 1 then clearAcc w.acc m.acc else w.acc
  let rowsB := (List.range hb.rows).map fun j => (w.trow m.tb hb j, if scaled then w.trow m.xb (shapeOr m.shXB) j else [])
  let acc := (List.range ha.rows).foldl (fun t i =>
    let a := w.trow m.ta ha i
    let xs := if scaled then w.trow m.xa (shapeOr m.shXA) i else []
    rowsB.zipIdx.foldl (fun t p =>
      let k := 4096 * m.acc + 64 * i + p.2
      Tbl.write 0 t k (BitVec.ofNat 32 (mmaElem m.ty scaled a p.1.1 xs p.1.2 (Tbl.read 0 t k).toNat))) t) acc0
  { w with acc := acc }.setLive m.acc true

/-- The charge of a matrix operation (R206). -/
def chargeOf (h bits k : Nat) : Nat := (1 + 15 * h / bits) * ((k + 7) / 8)

def onesIn (w : Nat) (xs : List Nat) : Nat := xs.foldl (fun n x => n + popcount w x) 0

def mopCharge (w : Warp) (m : MOp) : Nat :=
  let ha := shapeOr m.shA
  let hb := shapeOr m.shB
  let h := ((List.range ha.rows).foldl (fun n i => n + onesIn ha.ew (w.trow m.ta ha i)) 0) +
    ((List.range hb.rows).foldl (fun n i => n + onesIn hb.ew (w.trow m.tb hb i)) 0)
  chargeOf h ((ha.rows + hb.rows) * ha.cols * ha.ew) ha.cols

/-- Scale tiles of `mmax`. -/
def VFmt.scales (f : VFmt) : Nat × Nat :=
  match f.b with
  | .vreg n => (n.toNat % 16, n.toNat / 16 % 16)
  | _ => (0, 0)

/-- A command as captured at issue. -/
def captureM (s : State) (w : Warp) (wid fn : Nat) (ty : VTy) (acc ta tb xa xb : Nat) (copy : Option Nat) : MOp :=
  { warp := wid, ctx := w.ctx, cls := w.cls, core := w.core, fn := fn, ty := ty, acc := acc, ta := ta, tb := tb, xa := xa, xb := xb,
    shA := w.tsh ta, shB := w.tsh tb, shXA := w.tsh xa, shXB := w.tsh xb, copy := copy, order := 0, queued := clkNat s, running := false }

/-- The checks of a matrix command: ACCX and TILE. -/
def mmaFault (w : Warp) (fn : Nat) (ty : VTy) (acc ta tb xa xb : Nat) : Option Cause :=
  if w.accs ≤ acc then some .accx
  else if mmaShapes ty (decide (2 ≤ fn)) (w.tileShape ta) (w.tileShape tb) (w.tileShape xa) (w.tileShape xb) then none
  else some .tile

/-- Put a command into the queue of the array of the core where its warp is now. -/
def queueM (s : State) (m : MOp) : State :=
  let q := fresh s
  let core := (match Tbl.find s.warps m.warp with | some w => w.core | none => m.core)
  { q.2 with mops := Tbl.put q.2.mops q.1 { m with core := core, order := q.1, queued := clkNat s } }

def effMma (fn : Nat) (f : VFmt) (s : State) (x : Issue) : State :=
  let acc := f.x.toNat % 64
  let ta := f.y.toNat % 16
  let tb := f.y.toNat / 16
  let xs := f.scales
  if !x.warpWide then x.trap s .mpart 0
  else match mmaFault x.w fn f.ty acc ta tb xs.1 xs.2 with
    | some c => x.trap s c 0
    | none =>
      let m := captureM s x.w x.wid fn f.ty acc ta tb xs.1 xs.2 none
      x.onBoard s { rt := m.reads, wt := [], ra := [], wa := [acc] } (x.done (queueM s m))

def Machine.execMma (f : VFmt) (s : State) : Host.Outcome State Fault Refusal := issue (.mma f) false (effMma 0 f) s
def Machine.execMmaz (f : VFmt) (s : State) : Host.Outcome State Fault Refusal := issue (.mmaz f) false (effMma 1 f) s
def Machine.execMmax (f : VFmt) (s : State) : Host.Outcome State Fault Refusal := issue (.mmax f) false (effMma 2 f) s
def Machine.execMmaxz (f : VFmt) (s : State) : Host.Outcome State Fault Refusal := issue (.mmaxz f) false (effMma 3 f) s

/-! ## Accumulator instructions (R199 to R203) -/

def VFmt.accNo (f : VFmt) : Nat := f.x.toNat % 64

/-- Clear an accumulator tile and make it live or dead. -/
def effAccClear (f : VFmt) (live : Bool) (s : State) (x : Issue) : State :=
  let c := f.accNo
  x.wide s [c] [] [] 0 fun _ =>
    x.onBoard s { rt := [], wt := [], ra := [], wa := [c] } (x.finish s ({ x.w with acc := clearAcc x.w.acc c }.setLive c live))

def Machine.execCzero (f : VFmt) (s : State) : Host.Outcome State Fault Refusal := issue (.czero f) false (effAccClear f true) s
def Machine.execCrel (f : VFmt) (s : State) : Host.Outcome State Fault Refusal := issue (.crel f) false (effAccClear f false) s

/-- Store word of `cst` and `cld` (Table 08.5). -/
structure StoreWord where
  fid    : Nat
  n      : Nat
  m      : Nat
  stride : Nat
  high   : Bool
  deriving DecidableEq, Repr

def storeWord (v : Word) : StoreWord :=
  { fid := v.toNat / 2 ^ 28 % 8, n := v.toNat / 2 ^ 22 % 64 + 1, m := v.toNat / 2 ^ 16 % 64 + 1, stride := v.toNat % 2 ^ 16, high := v.getLsbD 31 }

/-- The register that holds a store word. -/
def Issue.storeWordOf (x : Issue) (s : Sel) : StoreWord :=
  match s with
  | .sreg n => storeWord (x.w.sreg n.toNat)
  | _ => storeWord 0

/-- Bytes of an element of a `cst`. -/
def cstBytes (ty : VTy) : Nat :=
  match ty with
  | .f16x2 | .bf16x2 => 2
  | .e4m3x4 | .e5m2x4 => 1
  | _ => 4

/-- Fields of `cst` that trap ILL at issue: ACT = 11, and an ACT or a BIAS with a raw type (Table 08.4, R201). -/
def VFmt.cstIll (f : VFmt) : Bool :=
  let act := f.y.toNat / 16 % 4
  act == 3 || ((f.ty == .s32 || f.ty == .b32) && (act != 0 || f.y.getLsbD 6))

/-- y + bias in f32 (R201). -/
def addPlain (a b : Nat) : Nat :=
  match [a, b].find? FF.f32.isNan with
  | some n => FF.f32.quiet n
  | none => (match (FF.f32.dec a).add .rne (FF.f32.dec b) with
    | some v => FF.f32.round .rne false false v
    | none => mnan)

/-- ReLU of R82: a NaN kept, −0 and x < 0 give +0. -/
def relu (y : Nat) : Nat := if FF.f32.isNan y then y else if FF.f32.neg y then 0 else y

/-- A profile activation in f32. -/
def profAct (p : Tbl Word) (fid y : Nat) : Nat := if FF.f32.isNan y then FF.f32.quiet y else (profEval p fid y).getD mnan

/-- The stored bits of one element. -/
def cstElem (f : VFmt) (x : Issue) (fid act : Nat) (bias : Option Nat) (y : Nat) : Nat :=
  if f.ty == .s32 || f.ty == .b32 then y
  else
    let y := match bias with | some b => addPlain y b | none => y
    let y := if act = 1 then relu y else if act = 2 then profAct x.w.prof fid y else y
    let e := x.venv f
    if f.ty == .f32 then FF.f32.flush e.ftz32 (FF.conv .f32 .f32 e y) else FF.conv .f32 f.ty.ff { e with ftz32 := false } y

/-- Rows of a region in scratchpad: offset and bytes. -/
def regionRows (off : Nat) (w : StoreWord) (size : Nat) : List (DWord × Nat) :=
  (List.range w.m).map fun i => (BitVec.ofNat 64 (2 * 2 ^ 60 + off + i * w.stride), w.n * size)

/-- A region or a bias array ends beyond the scratchpad. -/
def regionEnd (off : Nat) (w : StoreWord) (size : Nat) : Nat := off + (w.m - 1) * w.stride + w.n * size

def scratchAddr (o : Nat) : DWord := BitVec.ofNat 64 (2 * 2 ^ 60 + o % 2 ^ 57)

def effCst (f : VFmt) (s : State) (x : Issue) : State :=
  let c := f.accNo
  let w := x.storeWordOf f.b
  let act := f.y.toNat / 16 % 4
  let hasBias := f.y.getLsbD 6
  let off := (x.uni 0 f.a).toNat
  let bias := if hasBias then (x.uni 2 f.c).toNat else 0
  let size := cstBytes f.ty
  let lim := scratchBytes s (some x.w.wg)
  x.wide s [c] [] [] 0 fun _ =>
    if f.cstIll || w.high || (act != 2 && w.fid != 0) then x.trap s .ill 0
    else if off % 4 != 0 || bias % 4 != 0 || w.stride % 4 != 0 then x.trapScalar s .align 0 (scratchAddr off)
    else if lim < regionEnd off w size then x.trapScalar s .prot 0 (scratchAddr off)
    else if hasBias && lim < bias + 4 * w.n then x.trapScalar s .prot 0 (scratchAddr bias)
    else
      let ls := if hasBias then absentLines s x.w.wg [(scratchAddr bias, 4 * w.n)] else []
      if !ls.isEmpty then x.waitLines s ls
      else
        x.onTok s f.tokY (x.onBoard s { rt := [], wt := [], ra := [c], wa := [] }
          (let b (j : Nat) : Option Nat := if hasBias then some (leNat (readLoc s (.scratch x.w.wg (bias + 4 * j)) 4)) else none
           let ws := (List.range w.m).flatMap fun i => (List.range w.n).map fun j =>
             (Loc.scratch x.w.wg (off + i * w.stride + j * size), leBytes size (cstElem f x w.fid act (b j) (x.w.aword c (64 * i + j)).toNat))
           let r := inOrder s ws
           let held := linesOf (regionRows off w size)
           let s' := holdLines (r.1.foldl (fun s p => writeLoc s p.1 p.2) r.2) x.w.wg held
           let a : Access := { Machine.Access.plain x.fid x.f.lanes with tok := some f.tokY, accsR := [c], lines := held }
           x.start s' a))

def Machine.execCst (f : VFmt) (s : State) : Host.Outcome State Fault Refusal := issue (.cst f) false (effCst f) s

def effCld (f : VFmt) (s : State) (x : Issue) : State :=
  let c := f.accNo
  let w := x.storeWordOf f.b
  let off := (x.uni 0 f.a).toNat
  let lim := scratchBytes s (some x.w.wg)
  x.wide s [c] [] [] 0 fun _ =>
    if w.high || w.fid != 0 then x.trap s .ill 0
    else if off % 4 != 0 || w.stride % 4 != 0 then x.trapScalar s .align 0 (scratchAddr off)
    else if lim < regionEnd off w 4 then x.trapScalar s .prot 0 (scratchAddr off)
    else
      let ls := absentLines s x.w.wg (regionRows off w 4)
      if !ls.isEmpty then x.waitLines s ls
      else
        x.onTok s f.tokY (x.onBoard s { rt := [], wt := [], ra := [], wa := [c] }
          (let vs := (List.range w.m).flatMap fun i => (List.range w.n).map fun j =>
             (4096 * c + 64 * i + j, BitVec.ofNat 32 (leNat (readLoc s (.scratch x.w.wg (off + i * w.stride + 4 * j)) 4)))
           let a : Access := { Machine.Access.plain x.fid x.f.lanes with tok := some f.tokY, accs := [c], adst := listTbl vs }
           x.start s a))

def Machine.execCld (f : VFmt) (s : State) : Host.Outcome State Fault Refusal := issue (.cld f) false (effCld f) s

def effCtov (f : VFmt) (s : State) (x : Issue) : State :=
  let c := f.accNo
  let k := (x.uni 1 f.b).toNat
  x.wide s [c] [] [] (f.d.toNat + f.chunks) fun _ =>
    x.onRows s allLanes [(f.d.toNat, f.chunks)]
      (x.onBoard s { rt := [], wt := [], ra := [c], wa := [] }
        (x.finish s (x.w.setAll f.d.toNat f.chunks fun j l =>
          if 96 * (k + j) + l < 4096 then x.w.aword c (96 * (k + j) + l) else 0)))

def Machine.execCtov (f : VFmt) (s : State) : Host.Outcome State Fault Refusal := issue (.ctov f) false (effCtov f) s

end Sys2Proof
end

