-- ==== Sys2Proof/Machine/Copies.lean ====
section
/-! DEFINITION. Barrier objects (R180 to R182), the copy engine (R174 to R179), and workgroup and cluster barriers (R183, R184). -/

namespace Sys2Proof

open Machine

/-! ## Barrier objects (R180, Table 07.7) -/

def scratchWord (s : State) (wg o : Nat) : Nat :=
  match Tbl.find s.wgs wg with
  | some g => Memory.le g.scratch o 4
  | none => 0

def setScratchWord (s : State) (wg o v : Nat) : State := modWg s wg fun g => { g with scratch := Memory.setLe g.scratch o 4 v }

def objPhase (s : State) (wg o : Nat) : Nat := scratchWord s wg (o + 8)

/-- update(obj, delta). -/
def objUpdate (s : State) (wg o : Nat) (delta : Int) : State :=
  let c := clampI true 32 (toI true 32 (scratchWord s wg o) + delta)
  if c ≤ 0 then
    setScratchWord (setScratchWord s wg (o + 8) ((objPhase s wg o + 1) % 2 ^ 32)) wg o (scratchWord s wg (o + 4))
  else setScratchWord s wg o (wrapI 32 c)

/-- The fragment has seen a phase: an acquire needs nothing more here (log 7). -/
def Machine.Warp.sawPhase (w : Warp) (o p : Nat) : Warp := { w with phases := Tbl.put w.phases o (BitVec.ofNat 32 p) }

/-- An object's offset is checked for alignment and bounds (R181). -/
def Issue.onObject (x : Issue) (s : State) (f : VFmt) (go : Nat → State) : State :=
  let o := (x.uni 0 f.a).toNat
  if o % 16 != 0 then x.trapScalar s .align 0 (scratchAddr o)
  else if scratchBytes s (some x.w.wg) < o + 16 then x.trapScalar s .prot 0 (scratchAddr o)
  else go o

/-- An operand that may vary by lane is taken in the lowest active lane (R181). -/
def Issue.low (x : Issue) (pos : Nat) (s : Sel) : Word := selInt x.w x.fid x.f pos s (lowLane x.act)

/-- The error of a copy that credited an object, and the warp of the workgroup that issued it (R179). -/
def objError (s : State) (wg o : Nat) : Option (Nat × TokErr) :=
  match Tbl.find s.wgs wg with
  | none => none
  | some g => g.warps.findSome? fun wid => (Tbl.find s.warps wid).bind fun w => (w.errs.find? fun e => e.obj == some o).map fun e => (wid, e)

/-- `bwait`: complete when the phase has moved on from p; an error of a crediting copy is delivered first (R179, R182). -/
def effBwait (f : VFmt) (s : State) (x : Issue) : State :=
  x.onObject s f fun o =>
    let p := x.low 1 f.b
    if objPhase s x.w.wg o = p.toNat then x.block s .waiting .bwait o fun d => { d with arg := p.setWidth 64 }
    else match objError s x.w.wg o with
      | some (own, e) => x.deliverOf s own e
      | none => x.finish s (x.w.sawPhase o (objPhase s x.w.wg o))

def Machine.execBwait (f : VFmt) (s : State) : Host.Outcome State Fault Refusal := issue (.bwait f) false (effBwait f) s

/-- Fragments of a workgroup that wait in `bwait` on an object. -/
def bwaiters (s : State) (wg o : Nat) : List (Nat × Nat) :=
  match Tbl.find s.wgs wg with
  | none => []
  | some g => g.warps.flatMap fun wid => match Tbl.find s.warps wid with
    | none => []
    | some w =>
      if w.resid != .resident then []
      else w.frags.filterMap fun p => if p.2.st == .waiting && p.2.wkind == .bwait && p.2.warg.toNat == o then some (wid, p.1) else none

/-- The condition is tested again at each update. -/
def wakeObject (s : State) (wg o : Nat) : State :=
  (bwaiters s wg o).foldl (fun s p => match issueAt s p.1 p.2 with
    | some x => (match x.i with
      | .bwait f => if objPhase s wg o = x.f.wait.arg.toNat then s else readied (effBwait f s x) p.1 p.2
      | _ => s)
    | none => s) s

/-- An update and its waiters. -/
def objChange (s : State) (wg o : Nat) (delta : Int) : State := wakeObject (objUpdate s wg o delta) wg o

def effBinit (f : VFmt) (s : State) (x : Issue) : State :=
  x.onObject s f fun o =>
    let g := x.w.wg
    let s1 := setScratchWord (setScratchWord s g o (x.low 1 f.b).toNat) g (o + 4) (x.low 2 f.c).toNat
    let s2 := setScratchWord (setScratchWord s1 g (o + 8) 0) g (o + 12) (scratchWord s g (o + 12) / 2 * 2)
    x.done (wakeObject s2 g o)

def Machine.execBinit (f : VFmt) (s : State) : Host.Outcome State Fault Refusal := issue (.binit f) false (effBinit f) s

/-- `barr` and `bexp`. -/
def effBcount (f : VFmt) (sign : Int) (s : State) (x : Issue) : State :=
  x.onObject s f fun o => x.done (objChange s x.w.wg o (sign * toI true 32 (x.low 1 f.b).toNat))

def Machine.execBarr (f : VFmt) (s : State) : Host.Outcome State Fault Refusal := issue (.barr f) false (effBcount f (-1)) s
def Machine.execBexp (f : VFmt) (s : State) : Host.Outcome State Fault Refusal := issue (.bexp f) false (effBcount f 1) s

def effBtest (f : VFmt) (s : State) (x : Issue) : State :=
  x.onObject s f fun o =>
    match objError s x.w.wg o with
    | some (own, e) => x.deliverOf s own e
    | none =>
      let p := objPhase s x.w.wg o
      x.finish s ((x.w.sawPhase o p).setSreg x.f.lanes f.d.toNat (BitVec.ofNat 32 p))

def Machine.execBtest (f : VFmt) (s : State) : Host.Outcome State Fault Refusal := issue (.btest f) false (effBtest f) s

/-! ## Lines that become present (R174) -/

/-- Fragments that wait for lines which are all present now are ready. -/
def wakeLines (s : State) (wg : Nat) : State :=
  match Tbl.find s.wgs wg with
  | none => s
  | some g => g.warps.foldl (fun s wid => modWarp s wid fun w =>
      { w with frags := Tbl.mapVals w.frags fun _ f =>
          if f.st == .waiting && f.wkind == .line && f.wait.ids.all (fun l => (Tbl.find g.absent l).isNone) then
            { f with st := .ready, wkind := .none, warg := 0 } else f }) s

def releaseLines (s : State) (wg : Nat) (ls : List Nat) : State := if ls.isEmpty then s else wakeLines (freeLines s wg ls) wg

/-! ## Copy descriptors (R175, Tables 07.5 and 07.6) -/

/-- Signed 32-bit field. -/
def s32At (bs : List Byte) (o : Nat) : Int := toI true 32 (leNat ((bs.drop o).take 4))

def natAt (bs : List Byte) (o n : Nat) : Nat := leNat ((bs.drop o).take n)

/-- The fields of a CHAIN word: MFN, MTY, CACC, TA, TB, XA, XB. -/
structure Chain where
  fn  : Nat
  ty  : VTy
  acc : Nat
  ta  : Nat
  tb  : Nat
  xa  : Nat
  xb  : Nat
  deriving DecidableEq, Repr

/-- No chain, a good chain, or a bad one. -/
def chainOf (v : Nat) : Except Unit (Option Chain) :=
  if v = 0 then .ok none
  else match VTy.ofCode (v / 2 ^ 57 % 16) with
    | none => .error ()
    | some ty =>
      let c : Chain :=
        { fn := v / 2 ^ 61 % 4, ty := ty, acc := v / 2 ^ 51 % 64, ta := v / 2 ^ 47 % 16, tb := v / 2 ^ 43 % 16, xa := v / 2 ^ 39 % 16,
          xb := v / 2 ^ 35 % 16 }
      if v / 2 ^ 63 = 0 || v % 2 ^ 35 != 0 || 48 ≤ c.acc || !mmaTy (decide (2 ≤ c.fn)) ty || (c.fn < 2 && (c.xa != 0 || c.xb != 0)) then .error ()
      else .ok (some c)

/-- 0 is read as 1. -/
def dimOf (n : Nat) : Nat := if n = 0 then 1 else n

/-- A copy from the bytes of its descriptor; the chain is captured later. -/
def parseCopy (w : Warp) (wid tok : Nat) (desc : DWord) (bs : List Byte) : Copy :=
  let d0 := natAt bs 0 4
  let d6 := natAt bs 48 8
  { warp := wid, wg := w.wg, ctx := w.ctx, cls := w.cls, core := w.core, ctl := w.ctl, tok := tok, desc := desc, kind := d0 % 16,
    fill := BitVec.ofNat 32 (natAt bs 4 4), esize := d0 / 2 ^ 9 % 8, scope := d0 / 2 ^ 6 % 8, rel := d0 / 2 ^ 5 % 2 == 1, acq := d0 / 2 ^ 4 % 2 == 1,
    src := BitVec.ofNat 64 (natAt bs 8 8), dst := BitVec.ofNat 64 (natAt bs 16 8), dim0 := natAt bs 24 4, dim1 := dimOf (natAt bs 28 2),
    dim2 := dimOf (natAt bs 30 2), sstr1 := s32At bs 32, sstr2 := s32At bs 36, dstr1 := s32At bs 40, dstr2 := s32At bs 44,
    listcnt := d6 / 2 ^ 51, listoff := d6 / 2 ^ 32 % 2 ^ 19, barv := d6 / 2 ^ 19 % 2 == 1, baroff := d6 % 2 ^ 19, chain := none, id := 0, done := 0,
    credited := 0, ahead := [], found := [], lines := [], req := none, landed := false, fault := none, resid := .resident }

/-- Fields within Table 07.5 and R176. -/
def copyFieldsOk (c : Copy) (bs : List Byte) : Bool :=
  natAt bs 0 4 / 2 ^ 12 == 0 && decide (c.kind ≤ 3) && decide (c.scope ≤ 4) && decide (c.esize ≤ 4) && (c.kind == 3 || c.fill == 0) &&
  (c.kind != 3 || c.src == 0) && c.dim0 != 0 && c.dim0 % 2 ^ c.esize == 0 && natAt bs 48 4 / 2 ^ 20 == 0 &&
  (if c.kind = 1 then c.listcnt != 0 && c.dim1 == 1 && c.dim2 == 1 else c.listcnt == 0) &&
  (c.kind != 2 || ((c.esize == 1 || c.esize == 2) && c.dstr1 == 0 && c.dstr2 == 0)) && (c.kind != 3 || decide (c.esize ≤ 2)) &&
  (match chainOf (natAt bs 56 8) with | .ok _ => true | .error _ => false)

/-- Bytes that a copy moves or scans; the credit it gives. -/
def Machine.Copy.total (c : Copy) : Nat := if c.kind = 1 then c.dim0 * c.listcnt else c.dim0 * c.dim1 * c.dim2

/-- Elements of an nzscan. -/
def Machine.Copy.elems (c : Copy) : Nat := c.total / 2 ^ c.esize

/-- Displacement of byte k under two strides. -/
def Machine.Copy.disp (c : Copy) (s1 s2 : Int) (k : Nat) : Int := (k / (c.dim0 * c.dim1) : Nat) * s2 + (k / c.dim0 % c.dim1 : Nat) * s1 + (k % c.dim0 : Nat)

/-- Source address of byte k of kinds 0 and 2. -/
def Machine.Copy.srcAt (c : Copy) (k : Nat) : DWord := c.src + BitVec.ofInt 64 (c.disp c.sstr1 c.sstr2 k)

/-- Destination address of byte k of kinds 0, 1 and 3. -/
def Machine.Copy.dstAt (c : Copy) (k : Nat) : DWord :=
  if c.kind = 1 then c.dst + BitVec.ofInt 64 ((k / c.dim0 : Nat) * c.dstr1 + (k % c.dim0 : Nat))
  else c.dst + BitVec.ofInt 64 (c.disp c.dstr1 c.dstr2 k)

/-- The lowest and highest byte that strides reach. -/
def reach2 (a : DWord) (d0 n1 n2 : Nat) (s1 s2 : Int) : List DWord :=
  let e1 := ((n1 - 1 : Nat) : Int) * s1
  let e2 := ((n2 - 1 : Nat) : Int) * s2
  [a + BitVec.ofInt 64 (min 0 e1 + min 0 e2), a + BitVec.ofInt 64 (max 0 e1 + max 0 e2 + (d0 - 1 : Nat))]

def Machine.Copy.srcEnds (c : Copy) : List DWord :=
  match c.kind with
  | 1 => [c.src]
  | 3 => []
  | _ => reach2 c.src c.dim0 c.dim1 c.dim2 c.sstr1 c.sstr2

def Machine.Copy.dstEnds (c : Copy) : List DWord :=
  match c.kind with
  | 1 => reach2 c.dst c.dim0 c.listcnt 1 c.dstr1 0
  | 2 => [c.dst, c.dst + BitVec.ofNat 64 (4 * (1 + c.elems) - 1)]
  | _ => reach2 c.dst c.dim0 c.dim1 c.dim2 c.dstr1 c.dstr2

/-- Multiples that the addresses, strides and offsets must be (R177). -/
def Machine.Copy.aligned (c : Copy) : Bool :=
  let u := 2 ^ c.esize
  c.src.toNat % u == 0 && c.dst.toNat % (if c.kind = 2 then 4 else u) == 0 && c.sstr1 % u == 0 && c.sstr2 % u == 0 && c.dstr1 % u == 0 &&
  c.dstr2 % u == 0 && c.listoff % 4 == 0 && c.baroff % 16 == 0

/-- Runs of destination bytes from byte index `k` on. -/
def Machine.Copy.dstRuns (c : Copy) (k : Nat) : List (DWord × Nat) :=
  if c.kind = 2 then [(c.dst, 4 * (1 + c.elems))]
  else (List.range ((c.total - k / c.dim0 * c.dim0 + c.dim0 - 1) / c.dim0)).map fun i =>
    let r := (k / c.dim0 + i) * c.dim0
    (c.dstAt (max k r), r + c.dim0 - max k r)

/-- Lines that bytes from index `k` on still land in. -/
def Machine.Copy.linesFrom (c : Copy) (k : Nat) : List Nat := if c.total ≤ k && c.kind != 2 then [] else linesOf (c.dstRuns k)

/-! ## xcopy (R177) -/

/-- The checks of a descriptor in their order, after it has been read: cause, subcode, address. -/
def copyFault (s : State) (x : Issue) (c : Copy) (bs : List Byte) : Option (Cause × Nat × DWord) :=
  let lim := scratchBytes s (some x.w.wg)
  let ends := (c.srcEnds.map fun a => (a, Kind.ld)) ++ c.dstEnds.map fun a => (a, Kind.st)
  let bad (q : Cause) := ends.find? fun p => pathCheck p.1 p.2 == some q
  if !copyFieldsOk c bs then some (.ill, 1, 0)
  else match bad .path with
    | some p => some (.path, 0, p.1)
    | none => match bad .wswr with
      | some p => some (.wswr, 0, p.1)
      | none =>
        if pathOf c.dst = 7 then some (.prot, 0, c.dst)
        else if (c.kind = 1 || c.kind = 2) && pathOf c.src = 4 then some (.prot, 0, c.src)
        else if (c.kind = 1 || c.kind = 2) && pathOf c.dst = 4 then some (.prot, 0, c.dst)
        else if c.kind = 1 && lim < c.listoff + 4 * c.listcnt then some (.prot, 0, scratchAddr c.listoff)
        else if c.barv && lim < c.baroff + 16 then some (.prot, 0, scratchAddr c.baroff)
        else if !c.aligned then some (.align, 0, c.src)
        else match chainOf (natAt bs 56 8) with
          | .ok (some m) =>
            if !x.warpWide then some (.mpart, 0, 0)
            else (mmaFault x.w m.fn m.ty m.acc m.ta m.tb m.xa m.xb).map fun q => (q, 0, 0)
          | _ => none

/-- Copies in flight on a core; those saved out hold no place. -/
def copiesOn (s : State) (ctl : Bool) (core : Nat) : Nat :=
  Tbl.count s.copies fun _ c => c.ctl == ctl && c.core == core && c.resid == .resident

/-- Copies in flight that a core holds at most (R178, Table 01.4). -/
def copyRoom (ctl : Bool) : Nat := if ctl then 8 else 48

/-- The copy is in flight: its token is busy, its destination lines absent, its chain captured. -/
def startCopy (s : State) (x : Issue) (c : Copy) (bs : List Byte) : State :=
  let q := fresh s
  let chain := match chainOf (natAt bs 56 8) with
    | .ok (some m) => some (captureM s x.w x.wid m.fn m.ty m.acc m.ta m.tb m.xa m.xb (some q.1))
    | _ => none
  let ls := c.linesFrom 0
  let s1 := holdLines q.2 x.w.wg ls
  let s2 := { s1 with copies := Tbl.put s1.copies q.1 { c with id := q.1, lines := ls, chain := chain } }
  x.done (modWarp s2 x.wid fun w => w.tokAdd c.tok)

def effXcopy (f : VFmt) (s : State) (x : Issue) : State :=
  let o := (x.uni 0 f.a).toNat
  let tok := f.x.toNat % 16
  if o % 16 != 0 then x.trapScalar s .align 0 (scratchAddr o)
  else if scratchBytes s (some x.w.wg) < o + 64 then x.trapScalar s .prot 0 (scratchAddr o)
  else
    let ls := absentLines s x.w.wg [(scratchAddr o, 64)]
    if !ls.isEmpty then x.waitLines s ls
    else
      let bs := readLoc s (.scratch x.w.wg o) 64
      let c := parseCopy x.w x.wid tok (scratchAddr o) bs
      match copyFault s x c bs with
      | some (q, sub, a) => x.trapScalar s q sub a
      | none =>
        let board : Board := match chainOf (natAt bs 56 8) with
          | .ok (some m) => { rt := [m.ta, m.tb] ++ (if 2 ≤ m.fn then [m.xa, m.xb] else []), wt := [], ra := [], wa := [m.acc] }
          | _ => { rt := [], wt := [], ra := [], wa := [] }
        x.onTok s tok (x.onBoard s board
          (if copyRoom x.w.ctl ≤ copiesOn s x.w.ctl x.w.core then x.block s .stalled .copySlots 0 id else startCopy s x c bs))

def Machine.execXcopy (f : VFmt) (s : State) : Host.Outcome State Fault Refusal := issue (.xcopy f) false (effXcopy f) s

/-! ## A copy in flight (R178) -/

/-- Why the engine stops before a byte. -/
inductive Stop where
  | wait
  | far
  | fault (c : Cause) (a : DWord) (k : Kind)
  deriving DecidableEq, Repr

def Machine.Copy.who (c : Copy) : Who := { ctx := c.ctx, wg := some c.wg }

/-- A line that some other copy holds off. -/
def absentOther (s : State) (c : Copy) (o : Nat) : Bool :=
  match Tbl.find s.wgs c.wg with
  | none => false
  | some g => decide ((if c.lines.contains (o / 128) then 1 else 0) < (Tbl.find g.absent (o / 128)).getD 0)

/-- The number after which the engine's reads run: with ACQ = 1 its own, for then only what is written later may still be unseen; with ACQ = 0
that of the launch, for nothing orders the copy behind its fragment's accesses (R176, R230). -/
def Machine.Copy.start (c : Copy) (s : State) : Nat :=
  if c.acq then c.id else match Tbl.find s.warps c.warp with
    | some w => launchStart s w.launch
    | none => c.id

/-- One byte read by the engine. -/
def engineByte (s : State) (c : Copy) (a : DWord) : Except Stop Byte :=
  match pathCheck a .ld with
  | some q => .error (.fault q a .ld)
  | none =>
    if pathOf a = 2 && absentOther s c (offOf a) then .error .wait
    else if inRefresh s a then .error .wait
    else match resolve s c.who a 1 .ld with
      | .error q => .error (.fault q a .ld)
      | .ok l => if l.remote then .error .far else .ok ((agedLoc s (c.start s) 0 l 1).headD 0)

/-- Source address of byte k, which a rows copy takes from its index list. -/
def sourceAt (s : State) (c : Copy) (k : Nat) : Except Stop DWord :=
  if c.kind = 1 then
    let o := c.listoff + 4 * (k / c.dim0)
    if absentOther s c o then .error .wait
    else .ok (c.src + BitVec.ofInt 64 ((scratchWord s c.wg o : Int) * c.sstr1 + (k % c.dim0 : Nat)))
  else .ok (c.srcAt k)

/-- Byte k as the engine reads it, or has read it with the word before. -/
def sourceByte (s : State) (c : Copy) (k : Nat) : Except Stop Byte :=
  match Tbl.find c.ahead k with
  | some b => .ok b
  | none =>
  if c.kind = 3 then .ok (BitVec.ofNat 8 (c.fill.toNat / 2 ^ (8 * (k % c.dim0 % 2 ^ c.esize)))) else (sourceAt s c k).bind fun a => engineByte s c a

/-- Place of byte k at the destination. -/
def destLoc (s : State) (c : Copy) (k : Nat) : Except Stop Loc :=
  let a := c.dstAt k
  match pathCheck a .st with
  | some q => .error (.fault q a .st)
  | none => match resolve s c.who a 1 .st with
    | .error q => .error (.fault q a .st)
    | .ok l => if l.remote then .error .far else .ok l

/-- Bytes at hand from byte index k on, as many as can be read of n, and why no more. -/
def readRun (s : State) (c : Copy) : Nat → Nat → List Byte × Option Stop
  | 0, _ => ([], none)
  | n + 1, k =>
    if c.total ≤ k then ([], none)
    else match sourceByte s c k with
      | .error e => ([], some e)
      | .ok b => let r := readRun s c n (k + 1); (b :: r.1, r.2)

/-- Places of the bytes from index k on, as many as there are of n, and why no more. -/
def destRun (s : State) (c : Copy) : Nat → Nat → List Loc × Option Stop
  | 0, _ => ([], none)
  | n + 1, k =>
    match destLoc s c k with
    | .error e => ([], some e)
    | .ok l => let r := destRun s c n (k + 1); (l :: r.1, r.2)

/-- The bytes before index k end with a whole destination word (R231). -/
def Machine.Copy.edge (c : Copy) (k : Nat) : Bool :=
  c.total ≤ k || k = 0 || (c.dstAt k).toNat / 4 != (c.dstAt (k - 1)).toNat / 4

/-- Where a run of n bytes from index k may end: before it would write a part of a word, or, where it is shorter than a word, behind it. -/
def Machine.Copy.cut (c : Copy) (k n : Nat) : Nat :=
  let e := min (k + n) c.total
  match ((List.range 4).map (e - ·)).find? fun i => decide (k < i) && c.edge i with
  | some i => i
  | none => (((List.range 4).map (e + ·)).find? c.edge).getD e

/-- What may be written of n bytes from index k on, where so many are at hand: all, or if that is fewer, whole words. -/
def Machine.Copy.whole (c : Copy) (k n got : Nat) : Nat :=
  if got = n || c.edge (k + got) then got
  else (((List.range 4).map (k + got - ·)).find? fun i => decide (k < i) && c.edge i).getD k - k

/-- Source bytes from index k on that lie in the aligned word of the byte before: they have been read with it. -/
def readAhead (s : State) (c : Copy) (k : Nat) : Tbl Byte :=
  let word (i : Nat) : Option Nat := match sourceAt s c i with | .ok a => some (a.toNat / 4) | .error _ => none
  if c.kind = 3 || k = 0 then []
  else (List.range 3).foldl (fun t i =>
    if k + i < c.total && (word (k + i)).isSome && word (k + i) == word (k - 1) then
      match sourceByte s c (k + i) with
      | .ok b => Tbl.put t (k + i) b
      | .error _ => t
    else t) []

/-- Move n bytes from index k on, in one access to each word: the state, how many were moved, and why it stopped. -/
def moveBytes (s : State) (c : Copy) (n k : Nat) : State × Nat × Option Stop :=
  let r := readRun s c n k
  let d := destRun s c r.1.length k
  let m := c.whole k n d.1.length
  (writeLocs s (d.1.take m) (r.1.take m), m, if d.2.isSome then d.2 else r.2)

/-- Bytes of an element read by an nzscan. -/
def scanElem (s : State) (c : Copy) (k : Nat) : Nat → Except Stop (List Byte)
  | 0 => .ok []
  | n + 1 => (engineByte s c (c.srcAt k)).bind fun b => (scanElem s c (k + 1) n).map (b :: ·)

/-- +0 or −0 (R176). -/
def elemZero (esize : Nat) (bs : List Byte) : Bool := leNat bs % 2 ^ (8 * 2 ^ esize - 1) == 0

/-- Scan at most n elements from byte index k: numbers of those not zero, how many were scanned, and why it stopped. -/
def scanElems (s : State) (c : Copy) : Nat → Nat → List Nat × Nat × Option Stop
  | 0, _ => ([], 0, none)
  | n + 1, k =>
    if c.total ≤ k then ([], 0, none)
    else match scanElem s c k (2 ^ c.esize) with
      | .error e => ([], 0, some e)
      | .ok bs =>
        let r := scanElems s c n (k + 2 ^ c.esize)
        (if elemZero c.esize bs then r.1 else (k / 2 ^ c.esize) :: r.1, r.2.1 + 1, r.2.2)

def modCopy (s : State) (id : Nat) (g : Copy → Copy) : State := { s with copies := Tbl.modify s.copies id g }

/-- Credit the barrier object up to a total. -/
def creditTo (s : State) (id n : Nat) : State :=
  match Tbl.find s.copies id with
  | none => s
  | some c =>
    if n ≤ c.credited then s
    else
      let s := modCopy s id fun c => { c with credited := n }
      if c.barv then objChange s c.wg c.baroff (-((n - c.credited : Nat) : Int)) else s

/-- Lines in which no more of a copy's bytes land become present. -/
def trimLines (s : State) (id : Nat) : State :=
  match Tbl.find s.copies id with
  | none => s
  | some c =>
    let left := if c.landed then [] else c.linesFrom c.done
    releaseLines (modCopy s id fun c => { c with lines := left }) c.wg (c.lines.filter fun l => !left.contains l)

/-- The last byte has landed: the chained command is issued. -/
def landCopy (s : State) (id : Nat) : State :=
  match Tbl.find s.copies id with
  | none => s
  | some c =>
    let s := modCopy s id fun c => { c with landed := true, chain := none }
    let s := trimLines s id
    let s := creditTo s id c.total
    match c.chain with
    | some m => queueM s m
    | none => s

/-- What has been read with the last of n bytes is kept; `s0` is the state in which they were read. -/
def lookAhead (s0 s : State) (id n : Nat) : State :=
  modCopy s id fun c => { c with ahead := if n = 0 then c.ahead else readAhead s0 c (c.done + n) }

/-- Bytes have been moved. -/
def advance (s : State) (id n : Nat) : State :=
  let s := modCopy s id fun c => { c with done := c.done + n }
  match Tbl.find s.copies id with
  | none => s
  | some c => if c.total ≤ c.done then landCopy s id else creditTo (trimLines s id) id c.done

/-- Fragments of a core that stall for copy slots are ready, where there are some. -/
def wakeCopySlots (s : State) (ctl : Bool) (core : Nat) : State :=
  if copyRoom ctl ≤ copiesOn s ctl core then s
  else
    { s with warps := Tbl.mapVals s.warps fun _ w =>
        if w.ctl == ctl && w.core == core then
          { w with frags := Tbl.mapVals w.frags fun _ f =>
              if f.st == .stalled && f.wkind == .copySlots then { f with st := .ready, wkind := .none, warg := 0 } else f }
        else w }

/-- A copy is gone: its token is free, and a slot, and the service cores are told (Table 17.2). -/
def endCopy (s : State) (id : Nat) : State :=
  match Tbl.find s.copies id with
  | none => s
  | some c => setSig (wakeCopySlots (freeTok { s with copies := Tbl.del s.copies id } c.warp c.tok) c.ctl c.core) 3

/-- A copy ends in error (R179). -/
def copyFail (s : State) (id : Nat) (q : Cause) (detail : Nat) (a : DWord) : State :=
  match Tbl.find s.copies id with
  | none => s
  | some c =>
    let e : TokErr :=
      { tok := c.tok, obj := if c.barv then some c.baroff else none, lanes := 0, d := 0, n := 0, cause := q, sub := 1, addr := a,
        detail := BitVec.ofNat 32 detail }
    let s := modWarp s c.warp fun w => { w with errs := w.errs ++ [e] }
    let s := if c.barv then setScratchWord s c.wg (c.baroff + 12) (scratchWord s c.wg (c.baroff + 12) / 2 * 2 + 1) else s
    let s := modCopy s id fun c => { c with landed := true, chain := none }
    endCopy (creditTo (trimLines s id) id c.total) id

/-- The engine meets a fault, which goes to the pump house (R179, R333). -/
def copyFaulted (s : State) (id : Nat) (c : Cause) (a : DWord) (k : Kind) : State :=
  if c = .page || c = .prot then setSig (modCopy s id fun x => { x with fault := some { cause := c, addr := a, kind := k, msg := none } }) 2
  else copyFail s id c 0 a

/-! ### Copies to and from peers and the host -/

/-- Bytes of one run from index k on, at most n. -/
def Machine.Copy.runLen (c : Copy) (k n : Nat) : Nat := min (c.cut k (min n 4096) - k) (min (c.dim0 - k % c.dim0) (c.total - k))

def Machine.Copy.reqOf (c : Copy) (id : Nat) (host : Bool) (a : DWord) (n kind : Nat) (bs : List Byte) : Req :=
  { host := host, warp := c.warp, frag := 0, lane := none, copy := some id, ctx := c.ctx, tag := 0, addr := a, bytes := n, kind := kind, elem := 0,
    data := if host then bs else [], tok := none, sent := 0 }

/-- Send an access of the engine; what comes back at once, or nothing yet, or a target fault. -/
def sendCopy (s : State) (id : Nat) (c : Copy) (a : DWord) (kind n : Nat) (bs : List Byte) : Except Unit (Option (List Byte)) × State :=
  let wait (q : Nat × State) : Except Unit (Option (List Byte)) × State := (.ok none, modCopy q.2 id fun c => { c with req := some q.1 })
  if pathOf a = 5 then
    (match Tbl.find s.ctxs c.ctx with
     | some x => if inWindow x.desc (offOf a) n then wait (addReq s (c.reqOf id true a n kind bs)) else (.error (), s)
     | none => (.error (), s))
  else
    let dev := offOf a / 2 ^ 48
    let off := offOf a % 2 ^ 48
    match peerWay s c.ctx dev with
    | .noRoute => (.error (), unrouted s c.ctx dev off)
    | .loop =>
      (match targetAccess s (selfDev s) c.ctx off kind 0 n bs with
       | (some r, s') => (.ok (some r), s')
       | (none, s') => (.error (), s'))
    | .links => wait (sendReq s (c.reqOf id false a n kind bs) dev off 0 bs)

/-- The cause under which a remote access fails: PROT for the host, PEER for a peer. -/
def farCause (a : DWord) : Cause := if pathOf a = 5 then .prot else .peer

/-- Write bytes that the engine has at hand to byte index k on: locally, or over the link. -/
def putRun (s : State) (id : Nat) (c : Copy) (k : Nat) (bs : List Byte) : State :=
  let a := c.dstAt k
  let s := lookAhead s s id bs.length
  if pathOf a = 4 || pathOf a = 5 then
    (match sendCopy s id c a 2 bs.length bs with
     | (.error _, s') => copyFail s' id (farCause a) 0 a
     | (.ok none, s') => s'
     | (.ok (some _), s') => advance s' id bs.length)
  else match writeVirt s c.who a bs with
    | .error (q, b) => copyFaulted s id q b .st
    | .ok s' => advance s' id bs.length

/-- A chunk with a remote side. -/
def farChunk (s : State) (id : Nat) (c : Copy) (n : Nat) : State :=
  let m := c.runLen c.done n
  match (if c.kind = 3 then .ok (0 : DWord) else sourceAt s c c.done) with
  | .error _ => s
  | .ok a =>
    if c.kind != 3 && (pathOf a = 4 || pathOf a = 5) then
      (match sendCopy s id c a 1 m [] with
       | (.error _, s') => copyFail s' id (farCause a) 0 a
       | (.ok none, s') => s'
       | (.ok (some bs), s') => putRun s' id c c.done bs)
    else
      let r := readRun s c m c.done
      match r.1.take (c.whole c.done m r.1.length), r.2 with
      | [], some (.fault q b k) => copyFaulted s id q b k
      | [], _ => s
      | bs, _ => putRun s id c c.done bs

/-! ### COPY_CHUNK and COPY_COMPLETE -/

/-- A local chunk of kinds 0, 1 and 3. -/
def nearChunk (s : State) (id : Nat) (c : Copy) (n : Nat) : State :=
  let r := moveBytes s c (c.cut c.done n - c.done) c.done
  let s' := advance (lookAhead s r.1 id r.2.1) id r.2.1
  match r.2.2 with
  | some (.fault q a k) => copyFaulted s' id q a k
  | some .far => if r.2.1 = 0 then farChunk s' id c n else s'
  | _ => s'

/-- A chunk of an nzscan, and once all is scanned its output. -/
def scanChunk (s : State) (id : Nat) (c : Copy) (n : Nat) : State :=
  if c.done < c.total then
    let r := scanElems s c (max 1 (n / 2 ^ c.esize)) c.done
    let d := c.done + r.2.1 * 2 ^ c.esize
    let s' := modCopy s id fun c => { c with done := d, found := c.found ++ r.1 }
    let s' := if d < c.total then creditTo s' id d else s'
    match r.2.2 with
    | some (.fault q a k) => copyFaulted s' id q a k
    | some .far =>
      -- path 0x5: the element comes over the host link
      (match sendCopy s' id c (c.srcAt d) 1 (2 ^ c.esize) [] with
       | (.error _, s'') => copyFail s'' id (farCause (c.srcAt d)) 0 (c.srcAt d)
       | (_, s'') => s'')
    | _ => s'
  else
    let bs := (c.found.length :: c.found).flatMap fun v => leBytes 4 v
    if pathOf c.dst = 5 then
      (match sendCopy s id c c.dst 2 bs.length bs with
       | (.error _, s') => copyFail s' id .prot 0 c.dst
       | (_, s') => s')
    else match writeVirt s c.who c.dst bs with
      | .error (q, a) => copyFaulted s id q a .st
      | .ok s' => landCopy s' id

/-- The engine may work on a copy. -/
def Machine.Copy.active (c : Copy) : Bool := c.resid == .resident && c.fault.isNone && c.req.isNone && !c.landed

/-- Bytes of the chunk an event names, 1 to 4,096; 0 stands for 4,096. -/
def chunkSize (n : Nat) : Nat := if n = 0 || 4096 < n then 4096 else n

/-- The COPY budget of a class is spent: its copies start no chunk (R293). -/
def copySpent (s : State) (c : Copy) : Bool := budgetSpent s c.ctx c.cls 1

def Machine.execCopyChunk (s : State) : Host.Outcome State Fault Refusal :=
  .next (match Tbl.find s.copies s.ev.a with
    | none => s
    | some c =>
      if !c.active || ctxHalted s c.ctx 4200 || copySpent s c then s
      else
        let n := chunkSize s.ev.b
        let s' := if c.kind = 2 then scanChunk s s.ev.a c n else nearChunk s s.ev.a c n
        let moved := match Tbl.find s'.copies s.ev.a with
          | some c' => c'.done - c.done
          | none => 0
        chargeBudget s' c.ctx c.cls 1 (if moved = 0 then 0 else 1))

/-- A copy and its chained command are complete. -/
def Machine.execCopyComplete (s : State) : Host.Outcome State Fault Refusal :=
  .next (match Tbl.find s.copies s.ev.a with
    | none => s
    | some c =>
      if c.landed && c.resid == .resident && !ctxHalted s c.ctx 4200 && !(s.mops.any fun p => p.2.copy == some s.ev.a) then endCopy s s.ev.a else s)

/-- A request of a copy has ended. -/
def copyReqEnded (s : State) (id : Nat) (r : Req) (res : Except (Cause × Nat) (List Byte)) : State :=
  match Tbl.find s.copies id with
  | none => s
  | some c =>
    if c.req != some r.tag.toNat then s
    else
      let s := modCopy s id fun c => { c with req := none }
      match res with
      | .error (q, sub) => copyFail s id q (if sub = 4 then 1 else 0) r.addr
      | .ok bs =>
        -- what was moved counts in COPY units, one for a part (R292)
        let charge (s : State) : State := chargeBudget s c.ctx c.cls 1 1
        if c.kind = 2 then
          if r.kind = 2 then landCopy s id
          else
            let d := c.done + 2 ^ c.esize
            let s := modCopy s id fun c =>
              { c with done := d, found := if elemZero c.esize bs then c.found else c.found ++ [c.done / 2 ^ c.esize] }
            charge (if d < c.total then creditTo s id d else s)
        else if r.kind = 1 then
          let s' := putRun s id c c.done bs
          -- a run that goes on to another peer or the host is charged when that has it
          if pathOf (c.dstAt c.done) = 4 || pathOf (c.dstAt c.done) = 5 then s' else charge s'
        else charge (advance s id r.bytes)

/-! ## Workgroup and cluster barriers (R183) -/

/-- A fragment arrives and holds; the round of a slot opens with its first arrival (R317). -/
def effBar (f : CFmt) (cl : Bool) (s : State) (x : Issue) : State :=
  let n := f.imm.toNat
  match Tbl.find s.wgs x.w.wg with
  | none => x.done s
  | some g =>
    if g.slots ≤ n then x.trap s .ill 0
    else
      let open' (t : Tbl Round) : Tbl Round := if (Tbl.find t n).isSome then t else Tbl.put t n { count := 0, pc := x.f.pc }
      let s := if cl then { s with cgs := Tbl.modify s.cgs g.cg fun c => { c with rounds := open' c.rounds } }
        else modWg s x.w.wg fun g => { g with rounds := open' g.rounds }
      let s := x.block s .waiting (if cl then .barcl else .bar) n id
      settle (modFrag s x.wid x.fid fun f => { f with reach := 0, latches := [] }) x.wid

def Machine.execBar (f : CFmt) (s : State) : Host.Outcome State Fault Refusal := issue (.bar f) true (effBar f false) s
def Machine.execBarcl (f : CFmt) (s : State) : Host.Outcome State Fault Refusal := issue (.barcl f) true (effBar f true) s

end Sys2Proof
end

