-- ==== Sys2Proof/Machine/Walks.lean ====
section
/-! DEFINITION. Walk state, node layouts, box and triangle tests, instances, the stack, ray-state records, the end of a walk, and the
walk micro-operations (R234 to R248, R251, R254 to R256, R378). -/

namespace Sys2Proof

open Machine

/-! ## Node entries and layouts (R235 to R238) -/

/-- Bits [56:2] of an address or entry. -/
def addrBits (e : DWord) : DWord := BitVec.ofNat 64 (e.toNat % 2 ^ 57 / 4 * 4)

/-- KIND of a node entry: 0 interior, 1 leaf, 2 instance record, 3 empty. -/
def entryKind (e : DWord) : Nat := e.toNat % 4

def entrySlot (e : DWord) : Nat := e.toNat / 2 ^ 57 % 4

def isMarker (e : DWord) : Bool := e.getLsbD 63

def marker : DWord := 0x8000000000000000

def Machine.WalkProg.none : WalkProg := { code := [], sign := 0, root := 0, layouts := [] }

/-- The program of a walk, as checked at launch. -/
def progOf (s : State) (k : Walk) : WalkProg :=
  ((Tbl.find s.launches k.launch).bind fun L => L.walks.getD k.prog .none).getD .none

/-- The launch record of a walk. -/
def walkRec (s : State) (k : Walk) : Option LaunchRec := (Tbl.find s.launches k.launch).map (·.lrec)

def saveSlot (s : State) (k : Walk) : DWord :=
  match walkRec s k with
  | some r => r.savebase + BitVec.ofNat 64 (256 * k.idx)
  | none => 0

def spillSlot (s : State) (k : Walk) : DWord :=
  match walkRec s k with
  | some r => r.spillbase + BitVec.ofNat 64 (512 * k.idx)
  | none => 0

/-- Layout of N's slot. -/
def layoutOf (p : WalkProg) (e : DWord) : Option Layout := p.layouts.getD (entrySlot e) .none

/-! ## What a step does -/

/-- A walk fault: cause, address, kind of access (R247). -/
structure WFault where
  cause : Cause
  addr  : DWord
  kind  : Kind
  deriving DecidableEq, Repr

/-- A walk fault as it goes to the pump house. -/
def WFault.pending (e : WFault) : EngFault := { cause := e.cause, addr := e.addr, kind := e.kind, msg := none }

def putWalk (s : State) (id : Nat) (k : Walk) : State := { s with walks := Tbl.put s.walks id k }

/-- How a walk ends (Table 10.6). -/
inductive WalkEnd where
  | miss | hit | saved
  | overflow (cause : Nat)
  | cancelled (code : Word)
  deriving DecidableEq, Repr

/-- A step goes on with a state and spill writes, or ends the walk. -/
inductive WStep where
  | go (k : Walk) (spills : List (DWord × List Byte))
  | ends (k : Walk) (e : WalkEnd)
  deriving DecidableEq, Repr

abbrev WRes := Except WFault WStep

def unusedSlot (k : Walk) : WRes := .ok (.ends k (.cancelled 0xFFFFFFF1))

def Machine.Walk.next (k : Walk) : WRes := .ok (.go { k with upc := k.upc + 1 } [])

def Machine.Walk.jump (k : Walk) (u : Nat) : WRes := .ok (.go { k with upc := u } [])

/-! ## Registers and buffer (R240) -/

def Machine.Walk.reg (k : Walk) (n : Nat) : Word := Tbl.read 0 k.g n

def Machine.Walk.setReg (k : Walk) (n : Nat) (v : Word) : Walk := { k with g := Tbl.write 0 k.g n v }

/-- g(GA+1):g(GA). -/
def Machine.Walk.pair (k : Walk) (n : Nat) : DWord := k.reg (n + 1) ++ k.reg n

def Machine.Walk.bufByte (k : Walk) (o : Nat) : Nat := (Tbl.read 0 k.buf (o / 4)).toNat / 2 ^ (8 * (o % 4)) % 256

/-- n bytes of the buffer, little-endian. -/
def Machine.Walk.bufLe (k : Walk) (o : Nat) : Nat → Nat
  | 0 => 0
  | n + 1 => k.bufByte o + 256 * k.bufLe (o + 1) n

/-- N changes; the buffer is no longer that of a node and holds nothing (R253). -/
def Machine.Walk.setN (k : Walk) (e : DWord) : Walk := { k with n := e, nb := false, buf := [] }

def Machine.Walk.tmax (k : Walk) : Word := k.world.getD 7 0

def Machine.Walk.tmin (k : Walk) : Word := k.world.getD 3 0

def Machine.Walk.level (k : Walk) : Nat := k.levels.length

/-- O and D of the current level. -/
def Machine.Walk.levelRay (k : Walk) : List Word :=
  match k.levels with
  | (r, _) :: _ => r
  | [] => [k.world.getD 0 0, k.world.getD 1 0, k.world.getD 2 0, k.world.getD 4 0, k.world.getD 5 0, k.world.getD 6 0]

/-- invD of R240: 1 / D rounded, ±0 giving ±∞. It is derived, and no other rule reads it. -/
def Machine.Walk.invD (k : Walk) : List Word :=
  (k.levelRay.drop 3).map fun d =>
    let n := d.getLsbD 31
    if FF.f32.isNan d.toNat then 0x7FC00000
    else match FF.f32.dec d.toNat with
      | .inf _ => if n then 0x80000000 else 0
      | .fin _ m => if m = 0 then (if n then 0xFF800000 else 0x7F800000)
        else BitVec.ofNat 32 (FF.f32.roundFin .rne false false n (1 / m))

def Machine.Walk.iid (k : Walk) : Word :=
  match k.levels with
  | (_, i) :: _ => i
  | [] => 0xFFFFFFFF

/-- Leave an instance level. -/
def Machine.Walk.leave (k : Walk) : Walk := { k with levels := k.levels.tail, taddr := k.taddr.tail }

/-- Count of children or primitives in the buffer (R236). -/
def Machine.Walk.count (k : Walk) (y : Layout) : Nat := min (k.bufLe y.cntoff 4 / 2 ^ y.cntpos % 2 ^ y.cntw) y.maxch

/-! ## Memory of a walk (R234) -/

def Machine.Walk.who (k : Walk) : Who := { ctx := k.ctx, wg := none }

/-- Read bytes; a node, leaf or instance address must be a multiple of 16. -/
def walkRead (s : State) (k : Walk) (node : Bool) (a : DWord) (n : Nat) : Except WFault (List Byte) :=
  if a.toNat / 2 ^ 57 != 0 then .error { cause := .path, addr := a, kind := .ld }
  else if node && a.toNat % 16 != 0 then .error { cause := .align, addr := a, kind := .ld }
  else match readVirt s k.who a n with
    | .ok bs => .ok bs
    | .error e => .error { cause := e.1, addr := e.2, kind := .ld }

/-- Places of a list of stores, or the first failure; nothing is written yet. -/
def walkStores (s : State) (k : Walk) : List (DWord × List Byte) → Except WFault (List Loc)
  | [] => .ok []
  | (a, bs) :: t =>
    if a.toNat / 2 ^ 57 != 0 then .error { cause := .path, addr := a, kind := .st }
    else match storeLocs s k.who a bs.length with
      | .error e => .error { cause := e.1, addr := e.2, kind := .st }
      | .ok ls => (walkStores s k t).map fun r => ls ++ r

/-- A list of stores, whole or not at all. DESIGN CHOICE (log 7): where walks in flight share a save or spill slot, or another agent writes
one, R255 allows any outcome of those walks; theirs is what the order of their turns on one memory gives. -/
def walkWrite (s : State) (k : Walk) (ws : List (DWord × List Byte)) : Except WFault State :=
  (walkStores s k ws).map fun ls => writeLocs s ls (ws.flatMap (·.2))

/-- Fetch size of a node of n children or primitives. -/
def Machine.Layout.size (y : Layout) (kind n : Nat) : Nat :=
  if kind = 0 then max (max y.hdr (y.boxoff + n * y.boxstr)) (y.ptroff + n * y.ptrstr) else max y.hdr (y.leafoff + n * y.leafstr)

/-- The buffer filled with bytes. -/
def Machine.Walk.fill (k : Walk) (bs : List Byte) : Walk :=
  { k with nb := true, buf := (wordsOf ((bs.length + 3) / 4) bs).zipIdx.foldl (fun t p => Tbl.write 0 t p.2 p.1) [] }

/-- Fetch node N; none when its slot is unused (R235, R242). -/
def fetchNode (s : State) (k : Walk) (p : WalkProg) : Except WFault (Option Walk) :=
  let a := addrBits k.n
  match entryKind k.n with
  | 3 => .ok (some (k.fill []))
  | 2 => if (layoutOf p k.n).isNone then .ok none else (walkRead s k true a 64).map fun bs => some (k.fill bs)
  | kind =>
    match layoutOf p k.n with
    | none => .ok none
    | some y =>
      (walkRead s k true a y.hdr).bind fun hs =>
        (walkRead s k true a (y.size kind ((k.fill hs).count y))).map fun bs => some (k.fill bs)

/-! ## Numbers -/

/-- An f32 as an exact value; none for NaN. -/
def f32Val (w : Nat) : Option FVal := if FF.f32.isNan w then none else some (FF.f32.dec w)

/-- A finite f32 as a rational. -/
def f32Rat (w : Nat) : Option Rat := if FF.f32.isNan w || FF.f32.isInf w then none else some (FF.f32.dec w).rat

/-- All of a list, or none. -/
def allSome {α : Type} : List (Option α) → Option (List α)
  | [] => some []
  | none :: _ => none
  | some a :: t => (allSome t).map (a :: ·)

/-- The finite O and D of the level ray. -/
def Machine.Walk.rayRats (k : Walk) : Option (List Rat) := allSome (k.levelRay.map fun w => f32Rat w.toNat)

/-- RoundTo of an exact value in f32 (R66); an exact zero is +0. -/
def roundRat (rm : Rm) (x : Rat) : Word :=
  BitVec.ofNat 32 (FF.f32.roundFin rm false false (decide (x < 0)) (if x < 0 then -x else x))

def FVal.minNum (a b : FVal) : FVal := if b.ltNum a then b else a

def FVal.maxNum (a b : FVal) : FVal := if a.ltNum b then b else a

/-- a ≤ b. -/
def FVal.leNum (a b : FVal) : Bool := !b.ltNum a

/-! ## Box tests (R243) -/

/-- (v − o) / d for a nonzero d. -/
def slab (v : FVal) (o d : Rat) : FVal :=
  match v with
  | .inf n => .inf (n != decide (d < 0))
  | .fin _ _ => FVal.ofRat false ((v.rat - o) / d)

/-- Near and far bounds that an axis adds, or none where it does not pass. -/
def axisBounds (lo hi : FVal) (o d : Rat) : Option (List FVal × List FVal) :=
  if d = 0 then (if lo.leNum (.ofRat false o) && (FVal.ofRat false o).leNum hi then some ([], []) else none)
  else
    let t1 := slab lo o d
    let t2 := slab hi o d
    some ([t1.minNum t2], [t1.maxNum t2])

/-- tnear of a hit. -/
def Machine.Walk.boxHit (k : Walk) (lo hi : List (Option FVal)) : Option FVal :=
  match k.rayRats, allSome lo, allSome hi, f32Val k.tmin.toNat, f32Val k.tmax.toNat with
  | some r, some lo, some hi, some t0, some t1 =>
    if (lo.zip hi).any fun p => p.2.ltNum p.1 then none
    else match allSome ((List.range 3).map fun a =>
        axisBounds (lo.getD a (.inf false)) (hi.getD a (.inf false)) (r.getD a 0) (r.getD (3 + a) 0)) with
      | none => none
      | some bs =>
        let tn := bs.foldl (fun t b => b.1.foldl FVal.maxNum t) t0
        let tf := bs.foldl (fun t b => b.2.foldl FVal.minNum t) t1
        if tn.leNum tf then some tn else none
  | _, _, _, _, _ => none

/-- o + q × 2^e of an origin word; none for NaN. -/
def quantBound (o q : Nat) (e : Int) : Option FVal :=
  (f32Val o).map fun v => match v with
    | .inf n => .inf n
    | .fin _ _ => FVal.ofRat false (v.rat + (q : Rat) * pow2 e)

/-- Box of child j. -/
def Machine.Walk.childBox (k : Walk) (y : Layout) (j : Nat) : List (Option FVal) × List (Option FVal) :=
  let o := y.boxoff + j * y.boxstr
  if y.q8 then
    let at' (b a : Nat) := quantBound (k.bufLe (y.qoff + 4 * a) 4) (k.bufByte (o + b + a)) (toI true 8 (k.bufByte (y.qoff + 12 + a)))
    ((List.range 3).map (at' 0), (List.range 3).map (at' 3))
  else
    let at' (b a : Nat) := f32Val (k.bufLe (o + 4 * (b + a)) 4)
    ((List.range 3).map (at' 0), (List.range 3).map (at' 3))

/-- Node entry of child j (R236). -/
def Machine.Walk.childEntry (k : Walk) (y : Layout) (j : Nat) : DWord :=
  if y.rel then
    let p := k.bufLe (y.ptroff + j * y.ptrstr) 4
    let t := addrBits (addrBits k.n + BitVec.ofInt 64 (toI true 30 (p / 4) * 2 ^ y.pgran))
    BitVec.ofNat 64 (entrySlot k.n * 2 ^ 57) ||| t ||| BitVec.ofNat 64 (p % 4)
  else BitVec.ofNat 64 (k.bufLe (y.ptroff + j * y.ptrstr) 8)

/-- tnear of child j, which is a miss when it does not exist or is empty. -/
def Machine.Walk.childHit (k : Walk) (y : Layout) (j : Nat) : Option FVal :=
  if k.count y ≤ j || entryKind (k.childEntry y j) = 3 then none
  else
    let b := k.childBox y j
    k.boxHit b.1 b.2

/-- Insert by tnear, a lower j nearer among equals. -/
def insertNear (t : FVal) (e : DWord) : List (FVal × DWord) → List (FVal × DWord)
  | [] => [(t, e)]
  | p :: ps => if t.ltNum p.1 then (t, e) :: p :: ps else p :: insertNear t e ps

/-! ## Triangle tests (R244) -/

def sub3 (a b : List Rat) : List Rat := (a.zip b).map fun p => p.1 - p.2

def dot3 (a b : List Rat) : Rat := (a.zip b).foldl (fun t p => t + p.1 * p.2) 0

def cross3 (a b : List Rat) : List Rat :=
  let x (l : List Rat) (i : Nat) := l.getD i 0
  [x a 1 * x b 2 - x a 2 * x b 1, x a 2 * x b 0 - x a 0 * x b 2, x a 0 * x b 1 - x a 1 * x b 0]

/-- Where and how a triangle of nine f32 is crossed: te, u, v. -/
def Machine.Walk.cross (k : Walk) (vs : List Nat) : Option (Rat × Word × Word) :=
  match k.rayRats, allSome (vs.map f32Rat) with
  | some r, some p =>
    let o := r.take 3
    let d := r.drop 3
    let va := p.take 3
    let vb := (p.drop 3).take 3
    let vc := (p.drop 6).take 3
    let a := sub3 va o
    let b := sub3 vb o
    let c := sub3 vc o
    let ua := dot3 d (cross3 b c)
    let ub := dot3 d (cross3 c a)
    let uc := dot3 d (cross3 a b)
    let det := ua + ub + uc
    if det = 0 || !((decide (0 ≤ ua) && decide (0 ≤ ub) && decide (0 ≤ uc)) || (decide (ua ≤ 0) && decide (ub ≤ 0) && decide (uc ≤ 0))) then none
    else some (dot3 a (cross3 (sub3 vb va) (sub3 vc va)) / det, roundRat .rne (ub / det), roundRat .rne (uc / det))
  | _, _ => none

/-- The acceptance rule: the walk with the hit, when it is accepted. -/
def Machine.Walk.accept (k : Walk) (te : FVal) (tr u v prim : Word) : Option Walk :=
  match f32Val k.tmin.toNat, f32Val k.tmax.toNat, f32Val tr.toNat with
  | some t0, some t1, some t =>
    if t0.leNum te && (if k.hitv then t.ltNum t1 else t.leNum t1) then
      some { k with world := k.world.set 7 tr, u := u, v := v, prim := prim, inst := k.iid, hitv := true }
    else none
  | _, _, _ => none

/-- Test one triangle. -/
def Machine.Walk.triangle (k : Walk) (vs : List Nat) (prim : Word) : Option Walk :=
  (k.cross vs).bind fun h => k.accept (.ofRat false h.1) (roundRat .rne h.1) h.2.1 h.2.2 prim

/-- Words of a byte string as numbers. -/
def natWords (n : Nat) (bs : List Byte) : List Nat := (wordsOf n bs).map (·.toNat)

/-- Vertices and id of primitive i of the buffer's leaf. -/
def leafPrim (s : State) (k : Walk) (y : Layout) (i : Nat) : Except WFault (List Nat × Word) :=
  let o := y.leafoff + i * y.leafstr
  if y.inline then .ok ((List.range 9).map fun q => k.bufLe (o + 4 * q) 4, BitVec.ofNat 32 (k.bufLe (o + 36) 4))
  else
    let p := k.bufLe o 4
    (walkRead s k false (y.ibase + BitVec.ofNat 64 (12 * p)) 12).bind fun ix =>
      let vertex (q : Nat) := walkRead s k false (y.vbase + BitVec.ofNat 64 (12 * (natWords 3 ix).getD q 0)) 12
      (vertex 0).bind fun a => (vertex 1).bind fun b => (vertex 2).map fun c =>
        (natWords 3 a ++ natWords 3 b ++ natWords 3 c, BitVec.ofNat 32 p)

/-- Test primitives from i on; whether the walk has ended on a first hit. -/
def leafTests (s : State) (y : Layout) : Nat → Nat → Walk → Except WFault (Walk × Bool)
  | 0, _, k => .ok (k, false)
  | n + 1, i, k =>
    (leafPrim s k y i).bind fun p =>
      match k.triangle p.1 p.2 with
      | some k' => if k'.first then .ok (k', true) else leafTests s y n (i + 1) k'
      | none => leafTests s y n (i + 1) k

/-! ## Instances (R245) -/

/-- One rounding of an exact sum of products and a term; any NaN gives the canonical pattern. -/
def affine (ms xs : List Nat) (c : Option Nat) : Word :=
  let term (acc : Option FVal) (x : Option FVal) : Option FVal := acc.bind fun a => x.bind fun b => a.add .rne b
  let prods := (ms.zip xs).map fun p => (f32Val p.1).bind fun a => (f32Val p.2).bind fun b => a.mul b
  let all := match c with
    | some v => prods ++ [f32Val v]
    | none => prods
  match all with
  | [] => 0
  | t :: ts =>
    match ts.foldl term t with
    | some v => BitVec.ofNat 32 (FF.f32.round .rne false false v)
    | none => 0x7FC00000

/-- Enter the level of an instance record. -/
def Machine.Walk.enter (k : Walk) (a : DWord) (bs : List Byte) : Walk :=
  let m := natWords 16 bs
  let r := k.levelRay.map (·.toNat)
  let row (i : Nat) := (m.drop (4 * i)).take 3
  let o := (List.range 3).map fun i => affine (row i) (r.take 3) (some (m.getD (4 * i + 3) 0))
  let d := (List.range 3).map fun i => affine (row i) (r.drop 3) none
  { k with levels := (o ++ d, BitVec.ofNat 32 (m.getD 14 0)) :: k.levels, taddr := a :: k.taddr }

/-- IROOT of a record. -/
def recordRoot (bs : List Byte) : DWord := BitVec.ofNat 64 (leNat ((bs.drop 48).take 8) % 2 ^ 63)

/-! ## Stack, spill and overflow (R246) -/

def entryBytes (l : List DWord) : List Byte := l.flatMap fun e => leBytes 8 e.toNat

/-- Push entries, the first at the bottom: the walk and its spill writes, or an overflow. -/
def pushAll (spill : DWord) : Walk → List DWord → Option (Walk × List (DWord × List Byte))
  | k, [] => some (k, [])
  | k, e :: es =>
    if k.stk.length < 16 then pushAll spill { k with stk := k.stk ++ [e] } es
    else if k.spl < 8 then
      (pushAll spill { k with stk := k.stk.drop 8 ++ [e], spl := k.spl + 1 } es).map fun r =>
        (r.1, (spill + BitVec.ofNat 64 (64 * k.spl), entryBytes (k.stk.take 8)) :: r.2)
    else none

/-- Push and go on. -/
def pushThen (s : State) (k : Walk) (es : List DWord) (g : Walk → Walk) : WRes :=
  match pushAll (spillSlot s k) k es with
  | none => .ok (.ends k (.overflow 1))
  | some (k', ws) => .ok (.go { g k' with upc := k.upc + 1 } ws)

/-- Pop one entry; none when both stacks are empty. -/
def popOne (s : State) (k : Walk) : Except WFault (Option (DWord × Walk)) :=
  match k.stk.getLast? with
  | some e => .ok (some (e, { k with stk := k.stk.dropLast }))
  | none =>
    if k.spl = 0 then .ok none
    else (walkRead s k false (spillSlot s k + BitVec.ofNat 64 (64 * (k.spl - 1))) 64).map fun bs =>
      let es := (List.range 8).map fun i => (BitVec.ofNat 64 (leNat ((bs.drop (8 * i)).take 8)) : DWord)
      es.getLast?.map fun e => (e, { k with stk := es.dropLast, spl := k.spl - 1 })

def Machine.Walk.stackEmpty (k : Walk) : Bool := k.stk.isEmpty && k.spl == 0

/-- Pop past markers, which leave their levels: the entry, or none when the stacks ran out. -/
def popEntry (s : State) : Nat → Walk → Except WFault (Option DWord × Walk)
  | 0, k => .ok (none, k)
  | n + 1, k =>
    (popOne s k).bind fun r => match r with
      | none => .ok (none, k)
      | some (e, k') => if isMarker e then popEntry s n k'.leave else .ok (some e, k')

/-- Pop up to and including a marker. -/
def popMarker (s : State) : Nat → Walk → Except WFault Walk
  | 0, k => .ok k
  | n + 1, k =>
    (popOne s k).bind fun r => match r with
      | none => .ok k
      | some (e, k') => if isMarker e then .ok k' else popMarker s n k'

/-! ## Ray-state records (R251) -/

def bit (b : Bool) (n : Nat) : Nat := if b then 2 ^ n else 0

/-- The 256 bytes of a record. -/
def recordBytes (p : WalkProg) (k : Walk) (pre : Bool) (fcause : Nat) (faddr : DWord) : List Byte :=
  let w (v : Word) := wordBytes v
  let td (i : Nat) := leBytes 8 (k.taddr.reverse.getD i 0).toNat
  (List.range 8).flatMap (fun i => w (k.world.getD i 0)) ++ w k.u ++ w k.v ++ w k.prim ++ w k.inst ++ w p.sign ++
  leBytes 4 (2 ^ 31 + bit k.hitv 30 + bit k.first 29 + bit pre 28 + bit k.nb 27 + k.spl * 2 ^ 23 + k.stk.length * 2 ^ 18 +
    k.level * 2 ^ 16 + k.prog * 2 ^ 12 + k.upc % 256) ++
  (List.range 8).flatMap (fun i => w (k.reg i)) ++ leBytes 8 k.n.toNat ++ leBytes 8 (fcause * 2 ^ 57 + faddr.toNat % 2 ^ 57) ++
  td 0 ++ td 1 ++ td 2 ++ entryBytes k.stk ++ List.replicate (8 * (16 - k.stk.length)) 0

/-! ## Ending a walk (R248, R250) -/

/-- The six result words. -/
def Machine.Walk.results (k : Walk) (e : WalkEnd) : List Word :=
  let none' : List Word := [k.tmax, 0, 0, 0xFFFFFFFF, 0xFFFFFFFF]
  let hit : List Word := [k.tmax, k.u, k.v, k.prim, k.inst]
  match e with
  | .miss => none' ++ [0]
  | .hit => hit ++ [1]
  | .saved => (if k.hitv then hit else none') ++ [2]
  | .overflow c => [k.tmax, 0, 0, BitVec.ofNat 32 c, 0xFFFFFFFF, 3]
  | .cancelled c => [k.tmax, 0, 0, c, 0xFFFFFFFF, 4]

/-- Walks in flight on a core. -/
def walksOn (s : State) (core : Nat) : Nat := Tbl.count s.walks fun _ k => k.core == core && k.resid == .resident

/-- Fragments of a core whose walks now find room are ready. -/
def wakeWalkRoom (s : State) (core : Nat) : State :=
  let n := walksOn s core
  { s with warps := Tbl.mapVals s.warps fun _ w =>
      if !w.ctl && w.core == core then
        { w with frags := Tbl.mapVals w.frags fun _ f =>
            if f.st == .stalled && f.wkind == .walkRoom && decide (n + f.wait.arg.toNat ≤ 384) then { f with st := .ready, wkind := .none, warg := 0 } else f }
      else w }

/-- The lane's registers are released; with the last lane the token is. -/
def releaseLane (s : State) (k : Walk) : State :=
  match (Tbl.find s.warps k.warp).bind fun w => Tbl.find w.access k.access with
  | none => s
  | some a =>
    let left := Tbl.keep a.vdst fun key _ => key % 96 != k.lane
    if left.isEmpty then freeTok (modWarp s k.warp fun w => { w with access := Tbl.del w.access k.access }) k.warp k.tok
    else modWarp s k.warp fun w => { w with access := Tbl.put w.access k.access { a with vdst := left } }

/-- A PARK-mode fragment learns of the end of a walk; with the last one it goes on, splits or parks. -/
def tellFragment (s : State) (id : Nat) (k : Walk) (fault : Option (Cause × DWord)) : State :=
  match issueAt s k.warp k.frag with
  | none => s
  | some x =>
    let d := x.f.wait
    if !(x.f.wkind == .walks && d.ids.contains id) then s
    else
      let ids := d.ids.filter (· != id)
      let d := match fault with
        | none => { d with ids := ids, done := d.done ||| laneBit k.lane }
        | some (c, a) => { d with ids := ids, faults := d.faults ++ [(k.lane, c, 0, a)] }
      if !ids.isEmpty then modFrag s k.warp k.frag fun f => { f with wait := d }
      else
        let s := modFrag s k.warp k.frag fun f => { f with wkind := .none, tokw := 0, wait := .empty }
        let x : Issue := { x with act := d.faults.foldl (fun m p => m ||| laneBit p.1) d.done }
        readied (x.conclude s s d.done d.faults true) k.warp k.frag

/-- A walk is over: its results land unless it faulted. -/
def finishWalk (s : State) (id : Nat) (k : Walk) (res : List Word) (fault : Option (Cause × DWord)) : State :=
  let s := { s with walks := Tbl.del s.walks id }
  let s := modWarp s k.warp fun w => res.zipIdx.foldl (fun w p => w.setV (k.d + p.2) k.lane p.1) w
  let s := releaseLane (wakeWalkRoom s k.core) k
  let s := if k.park then tellFragment s id k fault else s
  reap s k.warp

def endWalk (s : State) (id : Nat) (k : Walk) (e : WalkEnd) : State := finishWalk s id k (k.results e) none

/-! ## Walk faults (R247) -/

/-- The record cannot be written: the walk is cancelled and an event logged. -/
def recordLost (s : State) (id : Nat) (k : Walk) (a : DWord) : State :=
  endWalk (ctxEvent s k.ctx { kind := .walkRecordFailed, a := k.warp, b := a.toNat }) id k (.cancelled 0xFFFFFFF2)

/-- What a walk writes to its save slot when it faults: the record; only FCAUSE and FADDR while it still has to rebuild (R252). -/
def saveWrites (s : State) (k : Walk) (c : Cause) (a : DWord) : DWord × List Byte :=
  let fw := leBytes 8 (c.code * 2 ^ 57 + a.toNat % 2 ^ 57)
  if k.rebuild then
    match k.aside with
    | some bs => (saveSlot s k, bs.take 96 ++ fw ++ bs.drop 104)
    | none => (saveSlot s k + 96, fw)
  else (saveSlot s k, recordBytes (progOf s k) k false c.code a)

/-- The record that a walk still has to rebuild from: the copy kept aside, or what its save slot holds. -/
def recordOf (s : State) (k : Walk) : Option (List Byte) :=
  match k.aside with
  | some bs => some bs
  | none => (match readVirt s k.who (saveSlot s k) 256 with | .ok bs => some bs | .error _ => none)

/-- tmax and hit of a walk that has not rebuilt: those of its record (Table 10.6). -/
def withRecord (s : State) (k : Walk) : Walk :=
  if !k.rebuild then k
  else match recordOf s k with
    | some bs =>
      let v (o : Nat) : Word := BitVec.ofNat 32 (natAt bs o 4)
      { k with world := k.world.set 7 (v 28), u := v 32, v := v 36, prim := v 40, inst := v 44, hitv := (v 52).getLsbD 30 }
    | none => k

/-- The outcome of a walk fault that the pump house has not resolved. -/
def walkFaultOutcome (s : State) (id : Nat) (k : Walk) (c : Cause) (a : DWord) : State :=
  if k.park then finishWalk s id k [] (some (c, a))
  else match walkWrite s k [saveWrites s k c a] with
    | .ok s' => endWalk s' id (withRecord s' k) .saved
    | .error e =>
      if e.cause = .page || e.cause = .prot then
        setSig (putWalk s id { k with saving := some (c, a), pend := some e.pending }) 2
      else recordLost s id k e.addr

/-- A walk fault: PAGE and PROT go to the pump house first, with no fragment parked (R333). -/
def walkFault (s : State) (id : Nat) (k : Walk) (e : WFault) : State :=
  if e.cause = .page || e.cause = .prot then
    setSig (putWalk s id { k with saving := none, pend := some e.pending }) 2
  else walkFaultOutcome s id k e.cause e.addr

/-! ## One step (R241, R247, R256) -/

/-- A completed step: the walk goes on at its UPC, or ends past LEN. -/
def walkGo (s : State) (id : Nat) (k : Walk) : State :=
  let s := chargeBudget s k.ctx k.cls 4 1
  if (progOf s k).code.length ≤ k.upc then endWalk s id k (.cancelled 0xFFFFFFF4) else putWalk s id k

/-- The effect of a step on walk `id`, which stood as `k`. -/
def walkApply (s : State) (id : Nat) (k : Walk) (r : WRes) : State :=
  match r with
  | .error e => walkFault s id k e
  | .ok (.ends k' e) => endWalk (chargeBudget s k.ctx k.cls 4 1) id k' e
  | .ok (.go k' ws) =>
    match walkWrite s k ws with
    | .error e => walkFault s id k e
    | .ok s' => walkGo s' id k'

/-- Execute a micro-operation in the walk in focus. -/
def walkOp (eff : State → WalkProg → Walk → WRes) (s : State) : Host.Outcome State Fault Refusal :=
  match s.focus with
  | some (.walk id) =>
    (match Tbl.find s.walks id with
     | some k => .next (walkApply s id k (eff s (progOf s k) k))
     | none => .fault .noFocus)
  | _ => .fault .noFocus

/-! ## Micro-operations (R242, Table 10.5) -/

def effWld (gd : Nat) (s : State) (p : WalkProg) (k : Walk) : WRes :=
  (fetchNode s k p).bind fun r => match r with
    | none => unusedSlot k
    | some k' => (k'.setReg gd (BitVec.ofNat 32 (k'.bufLe 0 4))).next

def Machine.execWld (gd : BitVec 3) (s : State) : Host.Outcome State Fault Refusal := walkOp (effWld gd.toNat) s

/-- Hits nearest first. -/
def Machine.Walk.hits (k : Walk) (y : Layout) : List (FVal × DWord) :=
  (List.range (k.count y)).foldl (fun l j => match k.childHit y j with
    | some t => insertNear t (k.childEntry y j) l
    | none => l) []

def effWchild (gd : Nat) (s : State) (p : WalkProg) (k : Walk) : WRes :=
  match layoutOf p k.n with
  | none => unusedSlot k
  | some y =>
    let hs := k.hits y
    pushThen s k (hs.reverse.map (·.2)) fun k => k.setReg gd (BitVec.ofNat 32 hs.length)

def Machine.execWchild (gd : BitVec 3) (s : State) : Host.Outcome State Fault Refusal := walkOp (effWchild gd.toNat) s

/-- An exact value rounded toward −∞ (R242). -/
def roundDown (t : FVal) : Word :=
  match t with
  | .inf n => BitVec.ofNat 32 (FF.f32.signed n 0x7F800000)
  | .fin _ _ => roundRat .rdn t.rat

def effWbox8 (gd ga : Nat) (push : Bool) (s : State) (p : WalkProg) (k : Walk) : WRes :=
  match layoutOf p k.n with
  | none => unusedSlot k
  | some y =>
    let j := (k.reg ga).toNat
    match k.childHit y j with
    | none => (k.setReg gd 0xFFFFFFFF).next
    | some t => pushThen s k (if push then [k.childEntry y j] else []) fun k => k.setReg gd (roundDown t)

def Machine.execWbox8 (gd ga : BitVec 3) (push : Bool) (s : State) : Host.Outcome State Fault Refusal :=
  walkOp (effWbox8 gd.toNat ga.toNat push) s

def effWpush (ga : Nat) (s : State) (_ : WalkProg) (k : Walk) : WRes := pushThen s k [k.pair ga] id

def Machine.execWpush (ga : BitVec 3) (s : State) : Host.Outcome State Fault Refusal := walkOp (effWpush ga.toNat) s

def effWpop (l : Nat) (s : State) (_ : WalkProg) (k : Walk) : WRes :=
  (popEntry s 81 k).bind fun r => match r.1 with
    | some e => (r.2.setN e).next
    | none => r.2.jump l

def Machine.execWpop (l : BitVec 8) (s : State) : Host.Outcome State Fault Refusal := walkOp (effWpop l.toNat) s

/-- An accepted hit ends a first-hit walk. -/
def afterHit (k : Walk) (r : Option Walk) : WRes :=
  match r with
  | none => k.next
  | some k' => if k'.first then .ok (.ends k' .hit) else k'.next

def effWtri (ga gb : Nat) (s : State) (_ : WalkProg) (k : Walk) : WRes :=
  (walkRead s k false (k.pair ga) 36).bind fun bs => afterHit k (k.triangle (natWords 9 bs) (k.reg gb))

def Machine.execWtri (ga gb : BitVec 3) (s : State) : Host.Outcome State Fault Refusal := walkOp (effWtri ga.toNat gb.toNat) s

def effWleaf (s : State) (p : WalkProg) (k : Walk) : WRes :=
  match layoutOf p k.n with
  | none => unusedSlot k
  | some y => (leafTests s y (k.count y) 0 k).bind fun (r : Walk × Bool) => if r.2 then .ok (.ends r.1 .hit) else r.1.next

def Machine.execWleaf (s : State) : Host.Outcome State Fault Refusal := walkOp effWleaf s

/-- Enter the instance whose record is at an address (R245). -/
def enterAt (a : DWord) (s : State) (k : Walk) : WRes :=
  (walkRead s k true a 64).bind fun bs =>
    if k.level = 3 then .ok (.ends k (.overflow 2))
    else pushThen s k [marker] fun k => (k.enter a bs).setN (recordRoot bs)

def effWinst (ga : Nat) (s : State) (_ : WalkProg) (k : Walk) : WRes := enterAt (k.pair ga) s k

def Machine.execWinst (ga : BitVec 3) (s : State) : Host.Outcome State Fault Refusal := walkOp (effWinst ga.toNat) s

def effWinstN (s : State) (p : WalkProg) (k : Walk) : WRes := if (layoutOf p k.n).isNone then unusedSlot k else enterAt (addrBits k.n) s k

def Machine.execWinstN (s : State) : Host.Outcome State Fault Refusal := walkOp effWinstN s

def effWexit (s : State) (_ : WalkProg) (k : Walk) : WRes :=
  if k.level = 0 then ({ k with stk := [], spl := 0 } : Walk).next else (popMarker s 81 k).bind fun k' => k'.leave.next

def Machine.execWexit (s : State) : Host.Outcome State Fault Refusal := walkOp effWexit s

def effWhit (ga gb : Nat) (_ : State) (_ : WalkProg) (k : Walk) : WRes :=
  let t := k.reg ga
  match f32Val t.toNat with
  | none => k.next
  | some te => afterHit k (k.accept te t (k.reg (ga + 1)) (k.reg (ga + 2)) (k.reg gb))

def Machine.execWhit (ga gb : BitVec 3) (s : State) : Host.Outcome State Fault Refusal := walkOp (effWhit ga.toNat gb.toNat) s

/-- A branch on a condition. -/
def branchIf (c : Walk → Bool) (l : Nat) (_ : State) (_ : WalkProg) (k : Walk) : WRes := if c k then k.jump l else k.next

def Machine.execWany (l : BitVec 8) (s : State) : Host.Outcome State Fault Refusal := walkOp (branchIf (·.hitv) l.toNat) s
def Machine.execWbr (l : BitVec 8) (s : State) : Host.Outcome State Fault Refusal := walkOp (branchIf (fun _ => true) l.toNat) s

def Machine.execWbz (ga : BitVec 3) (l : BitVec 8) (s : State) : Host.Outcome State Fault Refusal :=
  walkOp (branchIf (fun k => k.reg ga.toNat == 0) l.toNat) s

def Machine.execWbnz (ga : BitVec 3) (l : BitVec 8) (s : State) : Host.Outcome State Fault Refusal :=
  walkOp (branchIf (fun k => k.reg ga.toNat != 0) l.toNat) s

/-- One register written. -/
def setTo (gd : Nat) (v : Walk → Word) (_ : State) (_ : WalkProg) (k : Walk) : WRes := (k.setReg gd (v k)).next

def Machine.execWadd (gd ga gb : BitVec 3) (s : State) : Host.Outcome State Fault Refusal :=
  walkOp (setTo gd.toNat fun k => k.reg ga.toNat + k.reg gb.toNat) s
def Machine.execWaddImm (gd ga : BitVec 3) (i : BitVec 16) (s : State) : Host.Outcome State Fault Refusal :=
  walkOp (setTo gd.toNat fun k => k.reg ga.toNat + i.signExtend 32) s
def Machine.execWsub (gd ga gb : BitVec 3) (s : State) : Host.Outcome State Fault Refusal :=
  walkOp (setTo gd.toNat fun k => k.reg ga.toNat - k.reg gb.toNat) s
def Machine.execWsubImm (gd ga : BitVec 3) (i : BitVec 16) (s : State) : Host.Outcome State Fault Refusal :=
  walkOp (setTo gd.toNat fun k => k.reg ga.toNat - i.signExtend 32) s
def Machine.execWand (gd ga gb : BitVec 3) (s : State) : Host.Outcome State Fault Refusal :=
  walkOp (setTo gd.toNat fun k => k.reg ga.toNat &&& k.reg gb.toNat) s
def Machine.execWandImm (gd ga : BitVec 3) (i : BitVec 16) (s : State) : Host.Outcome State Fault Refusal :=
  walkOp (setTo gd.toNat fun k => k.reg ga.toNat &&& i.signExtend 32) s
def Machine.execWshr (gd ga gb : BitVec 3) (s : State) : Host.Outcome State Fault Refusal :=
  walkOp (setTo gd.toNat fun k => k.reg ga.toNat >>> ((k.reg gb.toNat).toNat % 32)) s
def Machine.execWshrImm (gd ga : BitVec 3) (i : BitVec 16) (s : State) : Host.Outcome State Fault Refusal :=
  walkOp (setTo gd.toNat fun k => k.reg ga.toNat >>> ((i.signExtend 32 : Word).toNat % 32)) s
def Machine.execWmov (gd ga : BitVec 3) (s : State) : Host.Outcome State Fault Refusal := walkOp (setTo gd.toNat fun k => k.reg ga.toNat) s

/-- %ncount (R378). -/
def Machine.Walk.ncount (k : Walk) (p : WalkProg) : Nat :=
  if k.nb && decide (entryKind k.n ≤ 1) then (match layoutOf p k.n with | some y => k.count y | none => 0) else 0

/-- Special sources of `wmov`. -/
def Machine.Walk.special (k : Walk) (p : WalkProg) (c : Nat) : Word :=
  match c with
  | 0 => k.n.setWidth 32
  | 1 => k.n.extractLsb' 32 32
  | 2 => BitVec.ofNat 32 (entryKind k.n)
  | 3 => BitVec.ofNat 32 (k.ncount p)
  | 4 => BitVec.ofNat 32 k.level
  | 5 => BitVec.ofNat 32 (k.stk.length + 8 * k.spl)
  | 6 => k.tmax
  | _ => if k.hitv then 1 else 0

def effWmovSpecial (gd c : Nat) (_ : State) (p : WalkProg) (k : Walk) : WRes := (k.setReg gd (k.special p c)).next

def Machine.execWmovSpecial (gd : BitVec 3) (c : BitVec 4) (s : State) : Host.Outcome State Fault Refusal :=
  walkOp (effWmovSpecial gd.toNat c.toNat) s

def Machine.execWldi (gd : BitVec 3) (i : BitVec 16) (s : State) : Host.Outcome State Fault Refusal :=
  walkOp (setTo gd.toNat fun _ => i.setWidth 32) s
def Machine.execWldiHi (gd : BitVec 3) (i : BitVec 16) (s : State) : Host.Outcome State Fault Refusal :=
  walkOp (setTo gd.toNat fun k => i ++ (k.reg gd.toNat).setWidth 16) s
def Machine.execWld32 (gd : BitVec 3) (o : BitVec 16) (s : State) : Host.Outcome State Fault Refusal :=
  walkOp (setTo gd.toNat fun k => BitVec.ofNat 32 (k.bufLe o.toNat 4)) s

/-- The relations of `wcmp`. -/
def wcmpHolds (cc : Nat) (a b : Word) : Bool :=
  match cc with
  | 0 => a == b
  | 1 => decide (a.toNat < b.toNat)
  | 2 => decide (a.toInt < b.toInt)
  | _ => (match f32Val a.toNat, f32Val b.toNat with
    | some x, some y => x.ltNum y
    | _, _ => false)

def Machine.execWcmp (gd ga gb : BitVec 3) (cc : BitVec 2) (s : State) : Host.Outcome State Fault Refusal :=
  walkOp (setTo gd.toNat fun k => if wcmpHolds cc.toNat (k.reg ga.toNat) (k.reg gb.toNat) then 1 else 0) s

def effWcall (gd l : Nat) (_ : State) (_ : WalkProg) (k : Walk) : WRes := (k.setReg gd (BitVec.ofNat 32 (k.upc + 1))).jump l

def Machine.execWcall (gd : BitVec 3) (l : BitVec 8) (s : State) : Host.Outcome State Fault Refusal := walkOp (effWcall gd.toNat l.toNat) s

def effWret (ga : Nat) (_ : State) (_ : WalkProg) (k : Walk) : WRes := k.jump (k.reg ga).toNat

def Machine.execWret (ga : BitVec 3) (s : State) : Host.Outcome State Fault Refusal := walkOp (effWret ga.toNat) s

def effWdone (_ : State) (_ : WalkProg) (k : Walk) : WRes := .ok (.ends k (if k.hitv then .hit else .miss))

def Machine.execWdone (s : State) : Host.Outcome State Fault Refusal := walkOp effWdone s

def effWfail (ga : Nat) (_ : State) (_ : WalkProg) (k : Walk) : WRes := .ok (.ends k (.cancelled (k.reg ga)))

def Machine.execWfail (ga : BitVec 3) (s : State) : Host.Outcome State Fault Refusal := walkOp (effWfail ga.toNat) s

end Sys2Proof
end

