-- ==== Sys2Proof/Machine/Rays.lean ====
section
/-! DEFINITION. `rtrace` and `rresume`, the rebuilding of a walk from its record, and what becomes of walks at pre-emption (R240, R249
to R254). -/

namespace Sys2Proof

open Machine

/-! ## Issue (R249, R250, R252) -/

/-- Results that a walk leaves: D to D+5. -/
def resultKeys (d : Nat) (lanes : List Nat) : List (Nat × Word) :=
  lanes.flatMap fun l => (List.range 6).map fun j => (vkey (d + j) l, (0 : Word))

/-- A ray that ends MISS with no step taken (R240). -/
def rayDead (r : List Word) : Bool :=
  let w (i : Nat) := (r.getD i 0).toNat
  (List.range 8).any (fun i => FF.f32.isNan (w i)) || [0, 1, 2, 4, 5, 6].any (fun i => FF.f32.isInf (w i)) ||
  (FF.f32.dec (w 7)).ltNum (FF.f32.dec (w 3))

/-- A walk of a lane as it starts. -/
def Issue.newWalk (x : Issue) (access tok d : Nat) (park first : Bool) (idx prog l : Nat) : Walk :=
  { warp := x.wid, frag := x.fid, lane := l, ctx := x.w.ctx, cls := x.w.cls, core := x.w.core, launch := x.w.launch, access := access,
    tok := tok, d := d, park := park, first := first, idx := idx, prog := prog, world := [], levels := [], taddr := [], g := [], n := 0,
    buf := [], nb := false, hitv := false, u := 0, v := 0, prim := 0, inst := 0, stk := [], spl := 0, upc := 0, rebuild := false, aside := none, pend := none, saving := none,
    resid := .resident }

/-- Start the walk of a lane: its identity joins the list. -/
def startWalk (acc : List Nat × State) (k : Walk) : List Nat × State :=
  let q := fresh acc.2
  (acc.1 ++ [q.1], putWalk q.2 q.1 k)

/-- One walk of every active lane: the checks that R250 orders, the token, the room, and the fragment that passes or waits. -/
def Issue.launchWalks (x : Issue) (s : State) (f : VFmt) (park : Bool) (walk : Nat → Nat → Nat → Walk) : State :=
  let d := f.d.toNat
  let tok := f.x.toNat % 16
  let slots := (match Tbl.find s.launches x.w.launch with | some L => L.lrec.rayslots | none => 0)
  let idx (l : Nat) := (selInt x.w x.fid x.f 2 f.c l).toNat
  if x.lanes.any fun l => decide (slots ≤ idx l) then x.trap s .ray 2
  else x.onRows s x.act [(d, 6)] <| x.onTok s tok
    (if 384 < walksOn s x.w.core + x.lanes.length then
       x.block s .stalled .walkRoom 0 fun w => { w with arg := BitVec.ofNat 64 x.lanes.length }
     else
       let q := fresh s
       let acc : Access :=
         { Machine.Access.plain x.fid x.f.lanes with tok := some tok, vdst := listTbl (resultKeys d x.lanes) }
       let s1 := modWarp q.2 x.wid fun w => { w.tokAdd tok with access := Tbl.put w.access q.1 acc }
       let r := x.lanes.zipIdx.foldl (fun a p => startWalk a (walk q.1 (s.freeCtr + 8 * p.2) p.1)) ([], s1)
       let s2 := { r.2 with freeCtr := s.freeCtr + 8 * x.lanes.length }
       let s3 := if park then
           let s' := x.block s2 .stalled .walks 0 fun w => { w with ids := r.1, done := 0, faults := [] }
           modFrag s' x.wid x.fid fun f => { f with tokw := BitVec.ofNat 16 (2 ^ tok) }
         else x.done s2
       -- rays that end with no step
       r.1.foldl (fun s id => match Tbl.find s.walks id with
         | some k => if !k.rebuild && rayDead k.world then endWalk s id k .miss else s
         | none => s) s3)

def effRtrace (f : VFmt) (s : State) (x : Issue) : State :=
  let a := (match f.a with | .vreg n => n.toNat | _ => 0)
  let w := (x.uni 1 f.b).toNat
  match Tbl.find s.launches x.w.launch with
  | none => s
  | some L =>
    if x.w.top < f.d.toNat + 6 then x.trap s .regx 0
    else match (if w < L.lrec.walkn then L.walks.getD w none else none) with
      | none => x.trap s .ray 1
      | some p =>
        let park := !f.y.getLsbD 0
        x.launchWalks s f park fun acc _ l =>
          let k := x.newWalk acc (f.x.toNat % 16) f.d.toNat park (f.y.getLsbD 1) (selInt x.w x.fid x.f 2 f.c l).toNat w l
          { k with world := (List.range 8).map fun i => x.w.vreg (a + i) l, n := p.root }

def Machine.execRtrace (f : VFmt) (s : State) : Host.Outcome State Fault Refusal := issue (.rtrace f) false (effRtrace f) s

/-- Until it has read its record a walk has no world ray; what t would be is open. -/
def effRresume (f : VFmt) (s : State) (x : Issue) : State :=
  if x.w.top < f.d.toNat + 6 then x.trap s .regx 0
  else
    let park := !f.y.getLsbD 0
    x.launchWalks s f park fun acc free l =>
      let k := x.newWalk acc (f.x.toNat % 16) f.d.toNat park false (selInt x.w x.fid x.f 2 f.c l).toNat 0 l
      { k with world := (List.range 8).map fun i => Config.freeWord (free + i), rebuild := true }

def Machine.execRresume (f : VFmt) (s : State) : Host.Outcome State Fault Refusal := issue (.rresume f) false (effRresume f) s

/-! ## Rebuilding (R252) -/

/-- A walk with the fields of its record, before its levels and buffer. -/
def Machine.Walk.ofRecord (k : Walk) (bs : List Byte) : Walk :=
  let w (o : Nat) : Word := BitVec.ofNat 32 (natAt bs o 4)
  let dw (o : Nat) : DWord := BitVec.ofNat 64 (natAt bs o 8)
  let c := natAt bs 52 4
  { k with
    world := (List.range 8).map (fun i => w (4 * i)), u := w 32, v := w 36, prim := w 40, inst := w 44, hitv := c / 2 ^ 30 % 2 == 1,
    first := c / 2 ^ 29 % 2 == 1, spl := c / 2 ^ 23 % 16, prog := c / 2 ^ 12 % 16, upc := c % 256,
    g := (List.range 8).foldl (fun t i => Tbl.write 0 t i (w (56 + 4 * i))) [], n := dw 88, nb := false, buf := [],
    stk := (List.range (min 16 (c / 2 ^ 18 % 32))).map (fun i => dw (128 + 8 * i)), levels := [], taddr := [] }

/-- The record is bad. -/
def badRecord (s : State) (k : Walk) (bs : List Byte) : Bool :=
  let c := natAt bs 52 4
  let p := progOf s k
  c / 2 ^ 31 == 0 || p.code.isEmpty || p.sign.toNat != natAt bs 48 4 || decide (p.code.length ≤ k.upc) || decide (16 < c / 2 ^ 18 % 32) ||
  decide (8 < k.spl) || (List.range (c / 2 ^ 16 % 4)).any fun i => natAt bs (104 + 8 * i) 8 == 0

/-- Enter levels again from their instance records. -/
def rebuildLevels (s : State) : List DWord → Walk → Except WFault Walk
  | [], k => .ok k
  | a :: as, k => (walkRead s k true a 64).bind fun bs => rebuildLevels s as (k.enter a bs)

/-- The first step of a resumed walk: the walk as it stood, or how it ends. -/
def rebuild (s : State) (k : Walk) : WRes :=
  let from' : Except WFault (List Byte) := match k.aside with
    | some bs => .ok bs
    | none => walkRead s k false (saveSlot s k) 256
  from'.bind fun bs =>
    let r := k.ofRecord bs
    if badRecord s r bs then .ok (.ends r (.cancelled 0xFFFFFFF3))
    else
      let c := natAt bs 52 4
      let as := (List.range (c / 2 ^ 16 % 4)).map fun i => (BitVec.ofNat 64 (natAt bs (104 + 8 * i) 8) : DWord)
      (rebuildLevels s as r).bind fun r =>
        let r := { r with rebuild := false, aside := none }
        if c / 2 ^ 27 % 2 = 1 then
          (fetchNode s r (progOf s r)).map fun q => match q with
            | some r => .go r []
            | none => .ends r (.cancelled 0xFFFFFFF1)
        else .ok (.go r [])

/-- A walk may take a step: it is resident, nothing of it is with the pump house, its context runs and has STEPS left (R256, R293,
R319). -/
def walkMay (s : State) (k : Walk) : Bool :=
  k.resid == .resident && k.pend.isNone && !ctxHalted s k.ctx 2100 && !budgetSpent s k.ctx k.cls 4

/-- The rebuilding step of a walk. -/
def rebuildStep (s : State) (id : Nat) (k : Walk) : State := walkApply s id k (rebuild s k)

/-! ## Pre-emption (R254) -/

/-- A walk stops at a step boundary and writes its record, or keeps it with its core's state. -/
def suspendWalk (s : State) (id : Nat) : State :=
  match Tbl.find s.walks id with
  | none => s
  | some k =>
    let saved : Walk := { k with pend := none, saving := none, resid := .saved }
    if k.rebuild then
      -- its record is as it stood, but for PRE, FCAUSE and FADDR
      match k.aside, recordOf s k with
      | none, some bs =>
        let bs' := bs.take 52 ++ leBytes 4 (natAt bs 52 4 ||| 2 ^ 28) ++ (bs.drop 56).take 40 ++ leBytes 8 0 ++ bs.drop 104
        (match walkWrite s k [(saveSlot s k, bs')] with
         | .ok s' => putWalk s' id saved
         | .error e =>
           ctxEvent (putWalk s id { saved with aside := some bs' }) k.ctx { kind := .walkRecordAside, a := k.warp, b := e.addr.toNat })
      | _, _ => putWalk s id saved
    else
      let bs := recordBytes (progOf s k) k true 0 0
      match walkWrite s k [(saveSlot s k, bs)] with
      | .ok s' => putWalk s' id { saved with rebuild := true }
      | .error e =>
        ctxEvent (putWalk s id { saved with rebuild := true, aside := some bs }) k.ctx
          { kind := .walkRecordAside, a := k.warp, b := e.addr.toNat }

/-- A saved walk is in flight again, on the core where its warp is now. -/
def restoreWalk (s : State) (id : Nat) (core : Nat) : State :=
  { s with walks := Tbl.modify s.walks id fun k => { k with core := core, resid := .resident } }

end Sys2Proof
end

