-- ==== Sys2Proof/Machine/Builds.lean ====
section
/-! DEFINITION. Acceleration-structure builds: `xbuild`, the build descriptor, and the stages of the build engine (R257, R258). -/

namespace Sys2Proof

open Machine

/-! ## The descriptor (Table 10.10) -/

/-- A build from the bytes of its descriptor. -/
def parseBuild (x : Issue) (tok order : Nat) (a : DWord) (bs : List Byte) : Build :=
  let d0 := natAt bs 0 4
  { warp := x.wid, ctx := x.w.ctx, cls := x.w.cls, tok := tok, half := halfOf x.w.ctl x.w.core, desc := a, kind := d0 % 16,
    radius := d0 / 2 ^ 16 % 256, scope := d0 / 2 ^ 6 % 8, rel := d0 / 2 ^ 5 % 2 == 1, acq := d0 / 2 ^ 4 % 2 == 1, count := natAt bs 4 4,
    prim := BitVec.ofNat 64 (natAt bs 8 8), ibase := BitVec.ofNat 64 (natAt bs 16 8), nodebase := BitVec.ofNat 64 (natAt bs 24 8),
    nodecap := natAt bs 32 8, scrbase := BitVec.ofNat 64 (natAt bs 40 8), scrcap := natAt bs 48 8, order := order, fault := none,
    refused := none, resid := .resident }

/-- Fields within Table 10.10; what the engine writes is not looked at. -/
def buildFieldsOk (b : Build) (bs : List Byte) : Bool :=
  natAt bs 0 4 / 2 ^ 24 == 0 && natAt bs 0 4 / 2 ^ 9 % 128 == 0 && decide (1 ≤ b.radius) && decide (b.radius ≤ 32) && decide (b.scope ≤ 4) &&
  decide (b.kind ≤ 2) && decide (b.count ≤ 2 ^ 26) && (b.kind != 2 || b.prim.toNat % 64 == 0) && (b.kind == 0 || b.ibase == 0) &&
  b.nodebase.toNat % 64 == 0 && b.scrbase.toNat % 64 == 0 && decide (48 * b.count + 4096 ≤ b.scrcap) && natAt bs 80 48 == 0

/-- Builds queued at the engine of a half. -/
def buildsOn (s : State) (half : Nat) : List (Nat × Build) := s.builds.filter fun p => p.2.half == half && p.2.resid == .resident

def effXbuild (f : VFmt) (s : State) (x : Issue) : State :=
  let a := selPair x.w f.a
  let tok := f.x.toNat % 16
  if (pathCheck a .ld).isSome || pathOf a != 0 then x.trapScalar s .path 0 a
  else if a.toNat % 128 != 0 then x.trapScalar s .align 0 a
  else match readVirt s { ctx := x.w.ctx, wg := none } a 128 with
    | .error (c, b) => x.trapScalar s c 0 (b &&& ~~~(3 : DWord))
    | .ok bs =>
      let b := parseBuild x tok s.freshId a bs
      if !buildFieldsOk b bs then x.trapScalar s .ill 1 0
      else x.onTok s tok
        (if 32 ≤ (buildsOn s b.half).length then x.block s .stalled .buildQueue 0 id
         else
           let q := fresh s
           x.done (modWarp { q.2 with builds := Tbl.put q.2.builds q.1 b } x.wid fun w => w.tokAdd tok))

def Machine.execXbuild (f : VFmt) (s : State) : Host.Outcome State Fault Refusal := issue (.xbuild f) false (effXbuild f) s

/-! ## Bounds (Table 10.11) -/

/-- A box of f32 encodings. -/
structure Box where
  lo : List Nat
  hi : List Nat
  deriving DecidableEq, Repr

def f32Less (a b : Nat) : Bool := (FF.f32.dec a).ltNum (FF.f32.dec b)

/-- Per-axis min and max; the first of equals stays. -/
def Box.union (a b : Box) : Box :=
  { lo := (a.lo.zip b.lo).map fun p => if f32Less p.2 p.1 then p.2 else p.1,
    hi := (a.hi.zip b.hi).map fun p => if f32Less p.1 p.2 then p.2 else p.1 }

/-- A primitive: index, place in sorted order, box, and what a leaf holds of it: nine vertex words. -/
structure Prim where
  idx : Nat
  pos : Nat
  box : Box
  vs  : List Nat
  deriving DecidableEq, Repr

/-- Box of three vertices. -/
def triBox (vs : List Nat) : Box :=
  let p (i : Nat) : Box := { lo := (vs.drop (3 * i)).take 3, hi := (vs.drop (3 * i)).take 3 }
  ((p 0).union (p 1)).union (p 2)

def buildWho (b : Build) : Who := { ctx := b.ctx, wg := none }

/-- An address of the build: path 0x0. -/
def buildRead (s : State) (b : Build) (a : DWord) (n : Nat) : Except WFault (List Byte) :=
  if pathOf a != 0 then .error { cause := .path, addr := a, kind := .ld }
  else match readVirt s (buildWho b) a n with
    | .ok bs => .ok bs
    | .error e => .error { cause := e.1, addr := e.2, kind := .ld }

/-- Primitive i as read; none when a value is not finite. -/
def readPrim (s : State) (b : Build) (i : Nat) : Except WFault (Option Prim) :=
  let ok (box : Box) (vs : List Nat) : Option Prim :=
    if (box.lo ++ box.hi ++ vs).any fun w => FF.f32.isNan w || FF.f32.isInf w then none else some { idx := i, pos := 0, box := box, vs := vs }
  match b.kind with
  | 0 =>
    (buildRead s b (b.ibase + BitVec.ofNat 64 (12 * i)) 12).bind fun ix =>
      let vertex (q : Nat) := buildRead s b (b.prim + BitVec.ofNat 64 (12 * (natWords 3 ix).getD q 0)) 12
      (vertex 0).bind fun v0 => (vertex 1).bind fun v1 => (vertex 2).map fun v2 =>
        let vs := natWords 3 v0 ++ natWords 3 v1 ++ natWords 3 v2
        ok (triBox vs) vs
  | 1 => (buildRead s b (b.prim + BitVec.ofNat 64 (36 * i)) 36).map fun bs => ok (triBox (natWords 9 bs)) (natWords 9 bs)
  | _ => (buildRead s b (b.prim + BitVec.ofNat 64 (128 * i + 64)) 24).map fun bs =>
      ok { lo := natWords 3 bs, hi := (natWords 6 bs).drop 3 } []

/-- The primitives from i on, those left out dropped. -/
def readPrims (s : State) (b : Build) : Nat → Nat → Except WFault (List Prim)
  | 0, _ => .ok []
  | n + 1, i => (readPrim s b i).bind fun p => (readPrims s b n (i + 1)).map fun ps => p.toList ++ ps

/-! ## Morton codes -/

def ratOf (w : Nat) : Rat := (FF.f32.dec w).rat

/-- RoundTo(min/2 + max/2) per axis. -/
def Box.centroid (b : Box) : List Nat := (b.lo.zip b.hi).map fun p => (roundRat .rne (ratOf p.1 / 2 + ratOf p.2 / 2)).toNat

/-- q_a of a centroid. -/
def quant (l h c : Rat) : Nat := if h = l then 0 else min 1023 (1024 * (c - l) / (h - l)).floor.toNat

/-- Ten bits spread to every third place. -/
def spread (q : Nat) : Nat := (List.range 10).foldl (fun n i => n + q / 2 ^ i % 2 * 8 ^ i) 0

def insertKey {α : Type} (k : Nat) (a : α) : List (Nat × α) → List (Nat × α)
  | [] => [(k, a)]
  | p :: ps => if k < p.1 then (k, a) :: p :: ps else p :: insertKey k a ps

/-- The primitives sorted by code and index. -/
def mortonSort (ps : List Prim) : List Prim :=
  let cs := ps.map fun p => p.box.centroid.map ratOf
  let ends (a : Nat) : Rat × Rat :=
    let v := cs.map fun c => c.getD a 0
    (v.foldl min (v.headD 0), v.foldl max (v.headD 0))
  let b := [ends 0, ends 1, ends 2]
  let code (c : List Rat) : Nat :=
    let q (a : Nat) := spread (quant (b.getD a (0, 0)).1 (b.getD a (0, 0)).2 (c.getD a 0))
    4 * q 0 + 2 * q 1 + q 2
  ((ps.zip cs).foldl (fun l p => insertKey (code p.2) p.1 l) []).zipIdx.map fun p => { p.1.2 with pos := p.2 }

/-! ## Clustering -/

/-- The binary tree of clusters. -/
inductive Cluster where
  | prim (p : Prim)
  | pair (l r : Cluster) (box : Box) (size : Nat)
  deriving DecidableEq, Repr

def Cluster.box : Cluster → Box
  | .prim p => p.box
  | .pair _ _ b _ => b

def Cluster.size : Cluster → Nat
  | .prim _ => 1
  | .pair _ _ _ n => n

/-- Primitives in order. -/
def Cluster.prims : Cluster → List Prim
  | .prim p => [p]
  | .pair l r _ _ => l.prims ++ r.prims

def Cluster.join (a b : Cluster) : Cluster := .pair a b (a.box.union b.box) (a.size + b.size)

def plainEnv : FEnv := { rm := .rne, sat := false, ftz32 := false, ftz16 := false, ntag := false, pc := 0 }

/-- SA of a box, each product and sum rounded in order. -/
def Box.area (b : Box) : Nat :=
  let d (i : Nat) := FF.f32.sub plainEnv 0 (b.hi.getD i 0) (b.lo.getD i 0)
  let m := FF.f32.mul plainEnv 0
  let a := FF.f32.add plainEnv 0
  m 0x40000000 (a (a (m (d 0) (d 1)) (m (d 1) (d 2))) (m (d 2) (d 0)))

/-- Order of areas; a NaN is above every number. -/
def areaLess (a b : Nat) : Bool := !FF.f32.isNan a && (FF.f32.isNan b || f32Less a b)

/-- Neighbour of cluster i: the least area of the union, the lower index on a tie. -/
def neighbour (cs : List Cluster) (radius i : Nat) : Nat :=
  match cs[i]? with
  | none => i
  | some c =>
    ((List.range (2 * radius + 1)).foldl (fun (best : Option (Nat × Nat)) k =>
      let j := i + k - radius
      if i + k < radius || j = i then best
      else match cs[j]? with
        | none => best
        | some d =>
          let a := (c.box.union d.box).area
          match best with
          | none => some (j, a)
          | some (_, m) => if areaLess a m then some (j, a) else best) none).elim i (·.1)

/-- One round: mutual pairs merge at the lower position. -/
def mergeRound (cs : List Cluster) (radius : Nat) : List Cluster :=
  let ns := (List.range cs.length).map (neighbour cs radius)
  let n (i : Nat) := ns.getD i i
  cs.zipIdx.filterMap fun p =>
    let j := n p.2
    if j ≠ p.2 && n j = p.2 then
      (if p.2 < j then (match cs[j]? with | some d => some (p.1.join d) | none => some p.1) else none)
    else some p.1

/-- Rounds until one cluster remains. -/
def clusterAll (radius : Nat) : Nat → List Cluster → List Cluster
  | 0, cs => cs
  | n + 1, cs => if cs.length ≤ 1 then cs else clusterAll radius n (mergeRound cs radius)

/-! ## Collapse -/

/-- Primitives that a subtree must exceed to stay interior: 4, or 1 for instances, which stand alone. -/
def Machine.Build.leafMax (b : Build) : Nat := if b.kind = 2 then 1 else 4

/-- The interior child of largest area, the first on a tie. -/
def largest (leafMax : Nat) (cs : List Cluster) : Option Nat :=
  (cs.zipIdx.foldl (fun (best : Option (Nat × Nat)) p =>
    if p.1.size ≤ leafMax then best
    else match best with
      | none => some (p.2, p.1.box.area)
      | some (_, m) => if areaLess m p.1.box.area then some (p.2, p.1.box.area) else best) none).map (·.1)

/-- A child replaced by its two children. -/
def openChild (cs : List Cluster) (i : Nat) : List Cluster :=
  match cs[i]? with
  | some (.pair l r _ _) => cs.take i ++ [l, r] ++ cs.drop (i + 1)
  | _ => cs

/-- Replace until there are 8 or none is left. -/
def collapse (leafMax : Nat) : Nat → List Cluster → List Cluster
  | 0, cs => cs
  | n + 1, cs =>
    if 8 ≤ cs.length then cs
    else match largest leafMax cs with
      | some i => collapse leafMax n (openChild cs i)
      | none => cs

/-! ## Emit -/

/-- A node to emit: a leaf of primitives, or an interior node with its children. -/
inductive Emit where
  | leaf (ps : List Prim)
  | inner (box : Box) (cs : List Cluster)
  deriving DecidableEq, Repr

/-- A cluster as a node. -/
def Cluster.emit (leafMax : Nat) (c : Cluster) : Emit :=
  match c with
  | .prim p => .leaf [p]
  | .pair l r b n => if n ≤ leafMax then .leaf (((l.prims ++ r.prims).foldl (fun t p => insertKey p.pos p t) []).map (·.2)) else .inner b (collapse leafMax 6 [l, r])

/-- The root: a node of its two binary children, opened on, however few primitives there are; one primitive is a leaf. -/
def Cluster.root (leafMax : Nat) (c : Cluster) : Emit :=
  match c with
  | .prim p => .leaf [p]
  | .pair l r b _ => .inner b (collapse leafMax 6 [l, r])

/-- Bytes a node takes. -/
def Emit.slot : Emit → Nat
  | .leaf ps => (16 + 40 * ps.length + 63) / 64 * 64
  | .inner _ _ => 128

def Emit.kind : Emit → Nat
  | .leaf _ => 1
  | .inner _ _ => 0

/-- e_a: the least exponent whose 255 steps reach. -/
def leastExp (o h : Rat) : Int :=
  ((List.range 256).find? fun (i : Nat) => decide (h ≤ o + 255 * pow2 ((i : Int) - 128))).elim 127 (fun (i : Nat) => (i : Int) - 128)

/-- Bytes that the spec leaves unused. -/
def pads (o n : Nat) : List Byte := (List.range n).map fun i => Config.padByte (o + i)

/-- An interior node: origin, exponents, count, codes and pointer words, given where each child lies and its kind. -/
def innerBytes (base : DWord) (box : Box) (cs : List (Cluster × DWord × Nat)) : List Byte :=
  let o := box.lo.map ratOf
  let es := (o.zip (box.hi.map ratOf)).map fun p => leastExp p.1 p.2
  let code (up : Bool) (v : Nat) (a : Nat) : Byte :=
    let t := (ratOf v - o.getD a 0) / pow2 (es.getD a 0)
    BitVec.ofInt 8 (if up then t.ceil else t.floor)
  let codes (c : Cluster) : List Byte :=
    (List.range 3).map (fun a => code false (c.box.lo.getD a 0) a) ++ (List.range 3).map fun a => code true (c.box.hi.getD a 0) a
  let ptr (p : Cluster × DWord × Nat) : Nat := wrapI 32 (((p.2.1.toNat : Int) - base.toNat) / 64 * 4) + p.2.2
  let n := cs.length
  box.lo.flatMap (leBytes 4) ++ es.map (fun e => (BitVec.ofInt 8 e : Byte)) ++ [(BitVec.ofNat 8 n : Byte)] ++
  cs.flatMap (fun p => codes p.1) ++ pads (16 + 6 * n) (48 - 6 * n) ++ cs.flatMap (fun p => leBytes 4 (ptr p)) ++ pads (64 + 4 * n) (64 - 4 * n)

def leafBytes (ps : List Prim) : List Byte :=
  let n := ps.length
  let bs := pads 0 15 ++ [(BitVec.ofNat 8 n : Byte)] ++ ps.flatMap fun p => p.vs.flatMap (leBytes 4) ++ leBytes 4 p.idx
  bs ++ pads bs.length ((Emit.leaf ps).slot - bs.length)

/-- Where the children of a node lie, given the next free address; the nodes they add to the queue. -/
def placeChildren (b : Build) (next : Nat) : List Cluster → List (Cluster × DWord × Nat) × List (DWord × Emit) × Nat
  | [] => ([], [], next)
  | c :: cs =>
    match b.kind, c with
    | 2, .prim p =>
      let r := placeChildren b next cs
      ((c, b.prim + BitVec.ofNat 64 (128 * p.idx), 2) :: r.1, r.2)
    | _, c =>
      let e := c.emit b.leafMax
      let a : DWord := BitVec.ofNat 64 next
      let r := placeChildren b (next + e.slot) cs
      ((c, a, e.kind) :: r.1, (a, e) :: r.2.1, r.2.2)

/-- Emit breadth first: the writes, how many nodes, and whether the area was large enough. -/
def emitAll (b : Build) : Nat → Nat → List (DWord × Emit) → List (DWord × List Byte) × Nat × Bool
  | 0, _, _ => ([], 0, true)
  | _ + 1, _, [] => ([], 0, true)
  | n + 1, next, (a, e) :: q =>
    if b.nodebase.toNat + b.nodecap < a.toNat + e.slot then ([], 0, false)
    else match e with
      | .leaf ps =>
        let r := emitAll b n next q
        ((a, leafBytes ps) :: r.1, r.2.1 + 1, r.2.2)
      | .inner box cs =>
        let c := placeChildren b next cs
        let r := emitAll b n c.2.2 (q ++ c.2.1)
        ((a, innerBytes a box c.1) :: r.1, r.2.1 + 1, r.2.2)

/-- What a build writes: node writes, ROOT, NODES, EXCL, STATUS. -/
structure Built where
  writes : List (DWord × List Byte)
  root   : Option DWord
  nodes  : Nat
  excl   : Nat
  status : Nat
  deriving DecidableEq, Repr

/-- The stages, from the primitives that are not left out. -/
def buildFrom (b : Build) (ps : List Prim) : Built :=
  let excl := min 65535 (b.count - ps.length)
  let top : Option Cluster := (clusterAll b.radius ps.length ((mortonSort ps).map .prim)).head?
  let one (e : Emit) : Built :=
    let r := emitAll b (2 * b.count + 2) (b.nodebase.toNat + e.slot) [(b.nodebase, e)]
    { writes := r.1, root := if r.2.2 then some (b.nodebase ||| BitVec.ofNat 64 e.kind) else none, nodes := r.2.1, excl := excl,
      status := if r.2.2 then 0 else 1 }
  match b.kind, top with
  | _, none => one (.leaf [])
  | 2, some (.prim p) => { writes := [], root := some ((b.prim + BitVec.ofNat 64 (128 * p.idx)) ||| 2), nodes := 0, excl := excl, status := 0 }
  | _, some c => one (c.root b.leafMax)

/-! ## The engine (R257, R258) -/

/-- Bytes of the work area that a build uses; what they hold after is left open. -/
def workBytes (s : State) (b : Build) : List Byte := (List.range (48 * b.count + 4096)).map fun i => Config.saveByte s.freeCtr i

/-- STATUS, EXCL and NODES as written at +56. -/
def statusBytes (status excl nodes : Nat) : List Byte := leBytes 4 nodes ++ leBytes 2 excl ++ leBytes 2 status

/-- Everything a completed build stores. -/
def Built.stores (s : State) (b : Build) (r : Built) : List (DWord × List Byte) :=
  (b.scrbase, workBytes s b) :: r.writes ++ [(b.desc + 56, statusBytes r.status r.excl r.nodes)] ++
  (match r.root with | some e => [(b.desc + 64, leBytes 8 e.toNat)] | none => [])

/-- Stores of the engine, whole or not at all. -/
def buildWrite (s : State) (b : Build) (ws : List (DWord × List Byte)) : Except WFault State :=
  match ws.find? fun w => pathOf w.1 != 0 with
  | some w => .error { cause := .path, addr := w.1, kind := .st }
  | none =>
    let rec go : List (DWord × List Byte) → Except WFault (List Loc)
      | [] => .ok []
      | (a, bs) :: t => match storeLocs s (buildWho b) a bs.length with
        | .error e => .error { cause := e.1, addr := e.2, kind := .st }
        | .ok ls => (go t).map fun r => ls ++ r
    (go ws).map fun ls => writeLocs s ls (ws.flatMap (·.2))

/-- Fragments of a half that stall for the build queue are ready, where it has room. -/
def wakeBuildQueue (s : State) (half : Nat) : State :=
  if 32 ≤ (buildsOn s half).length then s
  else
    { s with warps := Tbl.mapVals s.warps fun _ w =>
        if halfOf w.ctl w.core = half then
          { w with frags := Tbl.mapVals w.frags fun _ f =>
              if f.st == .stalled && f.wkind == .buildQueue then { f with st := .ready, wkind := .none, warg := 0 } else f }
        else w }

/-- A build is gone: its slot and its token are free, and the service cores are told (Table 17.2). -/
def endBuild (s : State) (id : Nat) (b : Build) : State :=
  setSig (wakeBuildQueue (freeTok { s with builds := Tbl.del s.builds id } b.warp b.tok) b.half) 3

/-- STATUS 2: the build stops with the address that failed. -/
def stopBuild (s : State) (id : Nat) (b : Build) (a : DWord) : State :=
  match buildWrite s b [(b.desc + 56, statusBytes 2 0 0), (b.desc + 72, leBytes 8 a.toNat)] with
  | .ok s' => endBuild s' id b
  | .error e => endBuild (ctxEvent s b.ctx { kind := .engineError, a := e.cause.code, b := e.addr.toNat }) id b

/-- A failed access of the engine. -/
def buildFault (s : State) (id : Nat) (b : Build) (e : WFault) : State :=
  if e.cause = .page || e.cause = .prot then setSig { s with builds := Tbl.put s.builds id { b with fault := some e.pending } } 2
  else stopBuild s id b e.addr

/-- Run a build. -/
def runBuild (s : State) (id : Nat) (b : Build) : State :=
  match b.refused with
  | some a => stopBuild s id b a
  | none =>
    match readPrims s b b.count 0 with
    | .error e => buildFault s id b e
    | .ok ps =>
      match buildWrite s b ((buildFrom b ps).stores s b) with
      | .error e => buildFault s id b e
      | .ok s' => endBuild { s' with freeCtr := s'.freeCtr + 1 } id b

/-- At a pre-emption of a context the engine of a half stops: the build in progress leaves a checkpoint in its work area, and the builds of the
context leave the queue (R258, R298). A work area that cannot be written keeps what it holds. -/
def suspendBuilds (s : State) (ctx half : Nat) : State :=
  let s' := match buildsOn s half with
    | (_, b) :: _ =>
      if b.ctx != ctx then s
      else (match buildWrite s b [(b.scrbase, workBytes s b)] with
        | .ok s' => { s' with freeCtr := s'.freeCtr + 1 }
        | .error _ => s)
    | [] => s
  wakeBuildQueue { s' with builds := Tbl.mapVals s'.builds fun _ b => if b.ctx == ctx && b.half == half then { b with resid := .saved } else b } half

/-- Builds of a context go on whose warp is restored, or had never left. -/
def resumeBuilds (s : State) (ctx : Nat) : State :=
  { s with builds := Tbl.mapVals s.builds fun _ b =>
      if b.ctx == ctx && (match Tbl.find s.warps b.warp with | some w => w.resid == .resident | none => true) then { b with resid := .resident } else b }

/-- The engine of half a runs its oldest command, unless a fault of it is with the pump house. -/
def Machine.execBuild (s : State) : Host.Outcome State Fault Refusal :=
  .next (match buildsOn s s.ev.a with
    | [] => s
    | (id, b) :: _ => if b.fault.isSome || ctxHalted s b.ctx 21000 then s else runBuild s id b)

end Sys2Proof
end

