-- ==== Sys2Proof/Machine/Crypto.lean ====
section
/-! DEFINITION. Checksums and cryptography that the spec names: CRC-32C (R235, R276, R363), SHA-256 and HMAC-SHA-256 (R287, R345 to
R354), RSA-3072 with PKCS #1 v1.5 padding (R345, R347, R354; log 14). -/

namespace Sys2Proof

/-! ## CRC-32C -/

/-- One bit of the reflected division by 0x1EDC6F41. -/
def crcBit (c : Nat) : Nat := if c % 2 = 1 then (c / 2) ^^^ 0x82F63B78 else c / 2

def crcByte (c : Nat) (b : Byte) : Nat := (List.range 8).foldl (fun c _ => crcBit c) (c ^^^ b.toNat)

/-- CRC-32C of a byte string. -/
def crc32c (bs : List Byte) : Word := BitVec.ofNat 32 (bs.foldl crcByte 0xFFFFFFFF ^^^ 0xFFFFFFFF)

/-! ## SHA-256 -/

/-- A number of 256 bits as eight words, the highest first. -/
def wordsOf256 (v : Nat) : List Word := (List.range 8).map fun i => BitVec.ofNat 32 (v >>> (32 * (7 - i)))

/-- Fractions of the cube roots of the first 64 primes, eight words to a number (Laws/Crypto.lean says so of each). -/
def shaRoots : List Nat :=
  [0x428a2f9871374491b5c0fbcfe9b5dba53956c25b59f111f1923f82a4ab1c5ed5,
   0xd807aa9812835b01243185be550c7dc372be5d7480deb1fe9bdc06a7c19bf174,
   0xe49b69c1efbe47860fc19dc6240ca1cc2de92c6f4a7484aa5cb0a9dc76f988da,
   0x983e5152a831c66db00327c8bf597fc7c6e00bf3d5a7914706ca635114292967,
   0x27b70a852e1b21384d2c6dfc53380d13650a7354766a0abb81c2c92e92722c85,
   0xa2bfe8a1a81a664bc24b8b70c76c51a3d192e819d6990624f40e3585106aa070,
   0x19a4c1161e376c082748774c34b0bcb5391c0cb34ed8aa4a5b9cca4f682e6ff3,
   0x748f82ee78a5636f84c878148cc7020890befffaa4506cebbef9a3f7c67178f2]

/-- The round constants. -/
def shaK : List Word := shaRoots.flatMap wordsOf256

/-- Fractions of the square roots of the first eight primes. -/
def shaInit : List Word := wordsOf256 0x6a09e667bb67ae853c6ef372a54ff53a510e527f9b05688c1f83d9ab5be0cd19

/-- Big-endian words of a block. -/
def beWords : Nat → List Byte → List Word
  | 0, _ => []
  | n + 1, bs => BitVec.ofNat 32 ((bs.take 4).foldl (fun a b => 256 * a + b.toNat) 0) :: beWords n (bs.drop 4)

/-- Message schedule, kept newest first. -/
def shaExtend : Nat → List Word → List Word
  | 0, w => w
  | n + 1, w =>
    let x15 := w.getD 14 0
    let x2 := w.getD 1 0
    let s0 := x15.rotateRight 7 ^^^ x15.rotateRight 18 ^^^ (x15 >>> 3)
    let s1 := x2.rotateRight 17 ^^^ x2.rotateRight 19 ^^^ (x2 >>> 10)
    shaExtend n ((w.getD 15 0 + s0 + w.getD 6 0 + s1) :: w)

/-- One round on a, b, c, d, e, f, g, h. -/
def shaRound (v : List Word) (kw : Word × Word) : List Word :=
  let x (i : Nat) := v.getD i 0
  let s1 := (x 4).rotateRight 6 ^^^ (x 4).rotateRight 11 ^^^ (x 4).rotateRight 25
  let ch := (x 4 &&& x 5) ^^^ (~~~(x 4) &&& x 6)
  let t1 := x 7 + s1 + ch + kw.1 + kw.2
  let s0 := (x 0).rotateRight 2 ^^^ (x 0).rotateRight 13 ^^^ (x 0).rotateRight 22
  let mj := (x 0 &&& x 1) ^^^ (x 0 &&& x 2) ^^^ (x 1 &&& x 2)
  [t1 + (s0 + mj), x 0, x 1, x 2, x 3 + t1, x 4, x 5, x 6]

def shaBlock (h : List Word) (bs : List Byte) : List Word :=
  let w := (shaExtend 48 (beWords 16 bs).reverse).reverse
  let v := (shaK.zip w).foldl shaRound h
  (h.zip v).map fun p => p.1 + p.2

def shaBlocks : Nat → List Word → List Byte → List Word
  | 0, h, _ => h
  | n + 1, h, bs => shaBlocks n (shaBlock h (bs.take 64)) (bs.drop 64)

/-- Big-endian bytes of a number. -/
def beBytes (n v : Nat) : List Byte := (leBytes n v).reverse

def beNat (bs : List Byte) : Nat := bs.foldl (fun a b => 256 * a + b.toNat) 0

/-- Padding to a multiple of 64 bytes. -/
def shaPad (bs : List Byte) : List Byte :=
  let n := bs.length
  bs ++ [(0x80 : Byte)] ++ List.replicate ((119 - n % 64) % 64) 0 ++ beBytes 8 (8 * n)

/-- SHA-256. -/
def sha256 (bs : List Byte) : List Byte :=
  let p := shaPad bs
  (shaBlocks (p.length / 64) shaInit p).flatMap fun w => beBytes 4 w.toNat

/-- HMAC-SHA-256. -/
def hmac (key bs : List Byte) : List Byte :=
  let k := if 64 < key.length then sha256 key else key
  let k := k ++ List.replicate (64 - k.length) (0 : Byte)
  sha256 (k.map (· ^^^ (0x5C : Byte)) ++ sha256 (k.map (· ^^^ (0x36 : Byte)) ++ bs))

/-! ## RSA (PKCS #1 v1.5) -/

/-- b^e mod m by bits of e. -/
def powMod (m : Nat) : Nat → Nat → Nat → Nat → Nat
  | 0, _, _, acc => acc
  | fuel + 1, b, e, acc => powMod m fuel (b * b % m) (e / 2) (if e % 2 = 1 then acc * b % m else acc)

/-- The DigestInfo of SHA-256. -/
def digestPrefix : List Byte := [0x30, 0x31, 0x30, 0x0d, 0x06, 0x09, 0x60, 0x86, 0x48, 0x01, 0x65, 0x03, 0x04, 0x02, 0x01, 0x05, 0x00, 0x04, 0x20]

/-- The padded message of 384 bytes. -/
def rsaEncode (bs : List Byte) : Nat :=
  beNat (([0, 1] : List Byte) ++ List.replicate 330 (0xFF : Byte) ++ ([0] : List Byte) ++ digestPrefix ++ sha256 bs)

/-- A signature over bytes verifies under a modulus and exponent 65537. -/
def rsaVerify (modulus : Nat) (bs sig : List Byte) : Bool := powMod modulus 17 (beNat sig) 65537 1 == rsaEncode bs

/-- A signature made with a private exponent. -/
def rsaSign (modulus d : Nat) (bs : List Byte) : List Byte := beBytes 384 (powMod modulus 3072 (rsaEncode bs) d 1)

/-! ## The device key (R353) -/

/-- The private exponent of 65537 under two primes: the least d with 65537 d = 1 modulo (p − 1)(q − 1). -/
def privateExponent (p q : Nat) : Nat :=
  let n := (p - 1) * (q - 1)
  match (List.range 65537).find? fun k => (1 + k * n) % 65537 == 0 with
  | some k => (1 + k * n) / 65537
  | none => 0

/-- Modulus, public key and private exponent of the device, from its seed. -/
def deviceModulus : Nat := (Config.keyPrimes Config.seed).1 * (Config.keyPrimes Config.seed).2

def devicePublic : List Byte := Config.keyBytes deviceModulus 65537

def devicePrivate : Nat := privateExponent (Config.keyPrimes Config.seed).1 (Config.keyPrimes Config.seed).2

end Sys2Proof
end

