-- ==== Sys2Proof/Machine/Neural.lean ====
section
/-! DEFINITION. Neural calls and the sluice (R82, R208 to R214), the weight cache (R215, R216), and the matrix array's arbitration among
warps, chained commands and sluice jobs (R198, R206, R207). -/

namespace Sys2Proof

open Machine

/-! ## Layers (R82, R209) -/

def Machine.WSet.layer (w : WSet) (k : Nat) : WLayer := w.layers.getD k { act := 0, nout := 0, scale := 0, woff := 0, boff := 0, xoff := 0 }

def Machine.WSet.nIn (w : WSet) (k : Nat) : Nat := if k = 0 then w.nin else (w.layer (k - 1)).nout

/-- Block and element width of the weight format. -/
def Machine.WSet.block (w : WSet) : Nat := if w.mxfp4 then 32 else 8

def Machine.WSet.ew (w : WSet) : Nat := if w.mxfp4 then 4 else 8

def Machine.WSet.ff (w : WSet) : FF := if w.mxfp4 then .e2m1 else .e4m3

/-- Kp: the inputs padded to a multiple of the block. -/
def Machine.WSet.kp (w : WSet) (k : Nat) : Nat := (w.nIn k + w.block - 1) / w.block * w.block

/-- Outputs of the last layer. -/
def Machine.WSet.outs (w : WSet) : Nat := (w.layer (w.layers.length - 1)).nout

/-- Bytes of the weights, scales and biases of a set, rounded to lines. -/
def Machine.WSet.bytes (w : WSet) : Nat :=
  ((List.range w.layers.length).foldl (fun n k =>
    n + (w.layer k).nout * (w.kp k * w.ew / 8 + 2 + (if w.mxfp4 then w.kp k / 32 else 0))) 0 + 127) / 128 * 128

/-- One row of weights as elements, padded with zeros. -/
def unpackRow (ew n kp : Nat) (bs : List Byte) : List Nat :=
  (List.range kp).map fun k => if k < n then (bs.getD (k * ew / 8) 0).toNat / 2 ^ (ew * k % 8) % 2 ^ ew else 0

/-- What one output of a layer needs: weights, block scales, bias. -/
structure LRow where
  w     : List Nat
  scale : List Nat
  bias  : Nat
  deriving DecidableEq, Repr

/-- Bytes of a weight set: a word written since the launch that names it began is old or new (R209, R221). -/
def readWeights (s : State) (ctx start : Nat) : DWord → Nat → Except (Cause × DWord) (List Byte)
  | _, 0 => .ok []
  | a, n + 1 =>
    match pathCheck a .ld with
    | some c => .error (c, a)
    | none => match resolve s { ctx := ctx, wg := none } a 1 .ld with
      | .error c => .error (c, a)
      | .ok l => (readWeights s ctx start (a + 1) n).map fun bs => agedLoc s start 0 l 1 ++ bs

/-- Read output j of a layer (R209). -/
def readRow (s : State) (ctx start : Nat) (w : WSet) (k j : Nat) : Except (Cause × DWord) LRow :=
  let l := w.layer k
  let at' (o : Nat) : DWord := w.wbase + BitVec.ofNat 64 o
  (readWeights s ctx start (at' (l.woff + j * w.kp k * w.ew / 8)) ((w.nIn k * w.ew + 7) / 8)).bind fun ws =>
  (readWeights s ctx start (at' (l.xoff + j * w.kp k / 32)) (if w.mxfp4 then w.kp k / 32 else 0)).bind fun xs =>
  (readWeights s ctx start (at' (l.boff + 2 * j)) 2).map fun b =>
    { w := unpackRow w.ew (w.nIn k) (w.kp k) ws, scale := xs.map (·.toNat), bias := leNat b }

def readRows (s : State) (ctx start : Nat) (w : WSet) (k : Nat) : List Nat → Except (Cause × DWord) (List LRow)
  | [] => .ok []
  | j :: js => (readRow s ctx start w k j).bind fun r => (readRows s ctx start w k js).map (r :: ·)

/-- Data of a layer, or the first failure, for rows of a launch. -/
def readLayer (s : State) (ctx lid : Nat) (w : WSet) (k : Nat) : Except (Cause × DWord) (List LRow) :=
  readRows s ctx (launchStart s lid) w k (List.range (w.layer k).nout)

/-- A product or sum of f32 in which a NaN is canonical. -/
def mulCanon (a b : Nat) : Nat :=
  if FF.f32.isNan a || FF.f32.isNan b then mnan
  else match (FF.f32.dec a).mul (FF.f32.dec b) with
    | some v => FF.f32.round .rne false false v
    | none => mnan

def addCanon (a b : Nat) : Nat := if FF.f32.isNan a || FF.f32.isNan b then mnan else addPlain a b

/-- act(L, y). -/
def layerAct (p : Tbl Word) (act y : Nat) : Nat :=
  if act = 1 then relu y else if 0x80 ≤ act then profAct p (act - 0x80) y else y

/-- One output in f32. -/
def layerOut (w : WSet) (l : WLayer) (p : Tbl Word) (h : List Nat) (r : LRow) : Nat :=
  let n := h.length / w.block
  let acc := ((blocks w.block n h).zip (blocks w.block n r.w)).zipIdx.foldl (fun acc q =>
    accBlock acc .f16 w.ff q.1.1 q.1.2 (if w.mxfp4 then e8m0 (r.scale.getD q.2 255) else some 0)) 0
  let y := mulCanon acc l.scale.toNat
  let y := addCanon y (FF.conv .f16 .f32 .atomic r.bias)
  layerAct p l.act y

/-- Inputs padded with +0. -/
def padTo (n : Nat) (h : List Nat) : List Nat := h ++ List.replicate (n - h.length) 0

/-- The outputs of a layer for one row, in f32. -/
def layerRow (w : WSet) (k : Nat) (p : Tbl Word) (h : List Nat) (rs : List LRow) : List Nat :=
  rs.map (layerOut w (w.layer k) p (padTo (w.kp k) h))

/-! ## ncall (R210) -/

/-- The bin of a cluster that holds the oldest row, the lowest bin on a tie. -/
def oldestBin (s : State) (cluster : Nat) : Option Nat :=
  (List.range 16).foldl (fun (best : Option (Nat × Nat)) b =>
    match (Tbl.find s.bins (16 * cluster + b)).bind fun x => x.rows.head? with
    | none => best
    | some r => match best with
      | none => some (r.entered, 16 * cluster + b)
      | some (e, _) => if r.entered < e then some (r.entered, 16 * cluster + b) else best) none |>.map (·.2)

/-- The bin a row goes to (R212); `emptied` is the bin that the same call has just brought to 128 rows (R213). DESIGN CHOICE (log 34): of
the free bins, a row takes the lowest. -/
def binFor (s : State) (cluster ctx h : Nat) (emptied : Option Nat) : Nat × State :=
  match (List.range 16).find? fun b => (match Tbl.find s.bins (16 * cluster + b) with | some x => x.ctx == ctx && x.h == h | none => false) with
  | some b => (16 * cluster + b, s)
  | none =>
    match (emptied.toList ++ List.range 16).find? fun b => (Tbl.find s.bins (16 * cluster + b)).isNone with
    | some b => (16 * cluster + b, s)
    | none =>
      match oldestBin s cluster with
      | some k => (k, flushBin s k)
      | none => (16 * cluster, s)

/-- A row enters; 128 rows flush, and the bin is kept for the rows of the call that follow (R213). -/
def enterRow (cluster ctx h : Nat) (acc : State × Option Nat) (r : Row) : State × Option Nat :=
  let q := binFor acc.1 cluster ctx h acc.2
  let b := (Tbl.find q.2.bins q.1).getD { ctx := ctx, h := h, rows := [] }
  let s := { q.2 with bins := Tbl.put q.2.bins q.1 { b with rows := b.rows ++ [r] } }
  if 128 ≤ b.rows.length + 1 then (flushBin s q.1, some (q.1 % 16)) else (s, acc.2)

/-- The rows of a call enter, in ascending order of their lanes. -/
def enterRows (s : State) (cluster ctx h : Nat) (rs : List Row) : State := (rs.foldl (enterRow cluster ctx h) (s, none)).1

/-- Inputs of a lane, raw. -/
def rowInputs (w : Warp) (a nin l : Nat) : List Nat := (List.range nin).map fun k => (w.vreg (a + k / 2) l).toNat / 2 ^ (16 * (k % 2)) % 65536

/-- A call of a higher core, or a higher quarter of the core, has entered its rows in this cycle: those of this one follow in the next (R279). -/
def Issue.rowsWait (x : Issue) (s : State) : Bool :=
  match Tbl.find s.rowsAt (clusterOf x.w.core) with
  | some (t, k) => t == clkNat s && decide (4 * x.w.core + x.w.quarter < k)
  | none => false

def effNcall (f : VFmt) (s : State) (x : Issue) : State :=
  let h := (x.uni 1 f.b).toNat
  let a := (match f.a with | .vreg n => n.toNat | _ => 0)
  let d := f.d.toNat
  let tok := f.x.toNat % 16
  match wsetOf s x.w.launch h with
  | none => x.trap s .disp 2
  | some ws =>
    let na := (ws.nin + 1) / 2
    let no := ws.outs
    if x.w.top < a + na || x.w.top < d + no then x.trap s .regx 0
    else
      x.onRows s x.act [(a, na), (d, no)] <| x.onTok s tok <| if x.rowsWait s then x.stall s 0 else
        (let q := fresh s
         let acc : Access :=
           { Machine.Access.plain x.fid x.f.lanes with
             tok := some tok, vdst := listTbl (x.lanes.flatMap fun l => (List.range no).map fun j => (vkey (d + j) l, (0 : Word))) }
         let s1 := modWarp q.2 x.wid fun w => { w.tokAdd tok with access := Tbl.put w.access q.1 acc }
         let row (l : Nat) : Row :=
           { warp := x.wid, launch := x.w.launch, access := q.1, lane := l, d := d, tok := tok, input := rowInputs x.w a ws.nin l, prof := x.w.prof,
             nflush := x.w.pcr.nflush.toNat, entered := clkNat s, cls := x.w.cls }
         let s2 := enterRows { s1 with rowsAt := Tbl.put s1.rowsAt (clusterOf x.w.core) (clkNat s, 4 * x.w.core + x.w.quarter) }
           (clusterOf x.w.core) x.w.ctx h (x.lanes.map row)
         x.done (chargeBudget s2 x.w.ctx x.w.cls 3 x.lanes.length))

def Machine.execNcall (f : VFmt) (s : State) : Host.Outcome State Fault Refusal := issue (.ncall f) false (effNcall f) s

/-! ## Groups on the arrays -/

/-- The weight set of a group's rows. -/
def groupSet (s : State) (j : Job) (g : Group) : Option WSet := g.rows.head?.bind fun r => wsetOf s r.launch j.h

/-- Charge of a group's next layer (R206). -/
def groupCharge (w : WSet) (g : Group) (rs : List LRow) : Nat :=
  let kp := w.kp g.layer
  let h := (g.h.foldl (fun n r => n + onesIn 16 r) 0) + (rs.foldl (fun n r => n + onesIn w.ew r.w) 0)
  chargeOf h (g.h.length * kp * 16 + rs.length * kp * w.ew) kp

/-- The layer of a group has been computed: the next layer waits, or the group is done. -/
def groupStep (s : State) (cluster : Nat) (w : WSet) (rs : List LRow) (g : Group) : Group × State :=
  let ys := (g.rows.zip g.h).map fun p => layerRow w g.layer p.1.prof p.2 rs
  if g.layer + 1 < w.layers.length then
    let q := fresh s
    ({ g with layer := g.layer + 1, h := ys.map fun y => y.map (FF.conv .f32 .f16 .atomic), core := pickCore s cluster, order := q.1,
              queued := clkNat s, running := false }, q.2)
  else ({ g with out := some ys, running := false }, s)

/-- Apply to the group with an order number. -/
def modGroup (s : State) (job order : Nat) (g : Group → Group) : State :=
  { s with jobs := Tbl.modify s.jobs job fun j => { j with groups := j.groups.map fun x => if x.order = order then g x else x } }

/-- A read of a weight set has failed: a translation or rights failure goes to the pump house first (R211, R333). -/
def groupFault (s : State) (job order : Nat) (e : Cause × DWord) : State :=
  if e.1 = .page || e.1 = .prot then
    setSig (modGroup s job order fun g =>
      { g with running := false, fault := some { cause := e.1, addr := e.2, kind := .ld, msg := none } }) 2
  else modGroup s job order fun g => { g with running := false, err := some e }

/-- Groups that could use a core's array: job, group. -/
def groupsOn (s : State) (core : Nat) : List (Nat × Job × Group) :=
  s.jobs.flatMap fun p => p.2.groups.filterMap fun g =>
    if g.core = core && g.out.isNone && g.err.isNone && g.fault.isNone then some (p.1, p.2, g) else none

def mopsOn (s : State) (core : Nat) : List (Nat × MOp) := s.mops.filter fun p => p.2.core = core

/-- The array of a core is free. -/
def arrayFree (s : State) (core : Nat) : Bool :=
  !((mopsOn s core).any fun p => p.2.running) && !((groupsOn s core).any fun g => g.2.2.running)

/-- Main-array cores of a context's partition. -/
def partCores (s : State) (ctx : Nat) : Nat :=
  match (Tbl.find s.ctxs ctx).bind fun c => Tbl.find s.parts c.desc.part with
  | some p => 8 * popcount 12 p.clmask.toNat
  | none => 96

/-- A context and class may start an operation on a core in this period (R293). -/
def underCap (s : State) (core ctx : Nat) (cls : Cls) : Bool :=
  match Tbl.find s.ctxs ctx with
  | none => true
  | some c =>
    let lim := Tbl.read 0 c.desc.budget (8 * cls.index + 2)
    cls == .h || lim == 0xFFFFFFFF ||
      decide (Tbl.read 0 s.mbuCap (capKeyOf core ctx cls.index) < (lim + 1000 * partCores s ctx - 1) / (1000 * partCores s ctx))

/-- Class of a group: its rows are of one launch (R290). -/
def Machine.Group.cls (g : Group) : Cls := (g.rows.head?.map (·.cls)).getD .b

/-- Launch of a group's rows. -/
def Machine.Group.launch (g : Group) : Nat := (g.rows.head?.map (·.launch)).getD 0

/-- A waiting operation: an entry of the array's queue or a group, with what R207 compares. -/
structure Cand where
  mop    : Option Nat
  job    : Nat
  group  : Nat
  req    : Nat
  order  : Nat
  queued : Nat
  ctx    : Nat
  cls    : Cls
  deriving DecidableEq, Repr

/-- An entry of the array's queue, and a group, as operations. -/
def Cand.ofMop (core : Nat) (p : Nat × MOp) : Cand :=
  { mop := some p.1, job := 0, group := 0, req := reqWarp core p.2.warp, order := p.2.order, queued := p.2.queued, ctx := p.2.ctx,
    cls := p.2.cls }

def Cand.ofGroup (core : Nat) (g : Nat × Job × Group) : Cand :=
  { mop := none, job := g.1, group := g.2.2.order, req := reqSluice core g.2.1.ctx, order := g.2.2.order, queued := g.2.2.queued,
    ctx := g.2.1.ctx, cls := g.2.2.cls }

/-- Operations that wait for a core's array: of each requester the first in order of issue (R198). Those of a warp that is being saved out
wait until it is back. -/
def candidates (s : State) (core : Nat) : List Cand :=
  let all := ((mopsOn s core).filterMap fun p =>
      if !p.2.running && (match Tbl.find s.warps p.2.warp with | some w => w.resid == .resident | none => false) then some (Cand.ofMop core p)
      else none) ++
    (groupsOn s core).filterMap fun g => if !g.2.2.running then some (Cand.ofGroup core g) else none
  all.filter fun c => !all.any fun d => d.req == c.req && decide (d.order < c.order)

/-- One candidate stands before another (R207). -/
def Cand.before (s : State) (a b : Cand) : Bool :=
  let old (c : Cand) : Bool := decide (c.queued < 2100 * mbuNow s)
  let n (c : Cand) : Nat := Tbl.read 0 s.mbuReq c.req
  if old a != old b then old a
  else if old a then decide (a.order < b.order)
  else decide (n a < n b) || (n a == n b && decide (a.order < b.order))

def pickCand (s : State) : List Cand → Option Cand
  | [] => none
  | c :: cs => match pickCand s cs with
    | none => some c
    | some d => if c.before s d then some c else some d

/-- Units charged when an operation starts. -/
def chargeStart (s : State) (core req ctx : Nat) (cls : Cls) (n : Nat) : State :=
  let s := { s with mbuReq := Tbl.write 0 s.mbuReq req (Tbl.read 0 s.mbuReq req + n),
                    mbuCap := Tbl.write 0 s.mbuCap (capKeyOf core ctx cls.index) (Tbl.read 0 s.mbuCap (capKeyOf core ctx cls.index) + n) }
  chargeBudget s ctx cls 2 n

/-- A read of layer k touches the weight store while a refresh window of the half that holds the bytes is open (R53): an array of a layer
lies in one half, or ends in the other. -/
def layerRefresh (s : State) (w : WSet) (k : Nat) : Bool :=
  let l := w.layer k
  let at' (o : Nat) : DWord := w.wbase + BitVec.ofNat 64 o
  let run (o n : Nat) : Bool := n != 0 && (inRefresh s (at' o) || inRefresh s (at' (o + n - 1)))
  run l.woff (l.nout * (w.kp k * w.ew / 8)) || run l.boff (2 * l.nout) || (w.mxfp4 && run l.xoff (l.nout * (w.kp k / 32)))

/-- The operation chosen starts. -/
def startCand (s : State) (core : Nat) (c : Cand) : State :=
  match c.mop with
  | some id =>
    (match Tbl.find s.mops id with
     | none => s
     | some m =>
       match Tbl.find s.warps m.warp with
       | none => s
       | some w =>
         let u := mopCharge w m
         let s := chargeStart s core c.req m.ctx m.cls u
         let s := modWarp s m.warp fun w => { w with pcr := { w.pcr with mbu := w.pcr.mbu + BitVec.ofNat 32 u } }
         { s with mops := Tbl.put s.mops id { m with running := true } })
  | none =>
    (match (groupsOn s core).find? fun g => g.1 == c.job && g.2.2.order == c.group with
     | none => s
     | some (_, j, g) =>
       match groupSet s j g with
       | none => s
       | some w =>
         match readLayer s j.ctx g.launch w g.layer with
         | .error e =>
           groupFault s c.job c.group e
         | .ok rs => modGroup (chargeStart s core c.req j.ctx g.cls (groupCharge w g rs)) c.job c.group fun g => { g with running := true })

/-- A candidate can start now: its context runs and is below its cap, and a layer in the weight store waits out a refresh window. -/
def candReady (s : State) (core : Nat) (c : Cand) : Bool :=
  !ctxHalted s c.ctx (if c.mop.isSome then 1024 else 2100) && underCap s core c.ctx c.cls &&
  match c.mop with
  | some _ => true
  | none => match (Tbl.find s.jobs c.job).bind fun j => (j.groups.find? fun g => g.order == c.group).bind fun g =>
      (groupSet s j g).map fun w => (w, g.layer) with
    | some (w, k) => !layerRefresh s w k
    | none => true

/-- The array of core a starts an operation (R207). -/
def Machine.execMatrixOpStart (s : State) : Host.Outcome State Fault Refusal :=
  let s1 := mbuRoll s
  .next (if !arrayFree s1 s.ev.a then s
    else match pickCand s1 ((candidates s1 s.ev.a).filter (candReady s1 s.ev.a)) with
      | none => s1
      | some c => startCand s1 s.ev.a c)

/-- The running operation of core a takes effect. -/
def finishGroup (s : State) (core : Nat) : State :=
  match (groupsOn s core).find? fun g => g.2.2.running with
  | none => s
  | some (id, j, g) =>
    match groupSet s j g with
    | none => s
    | some w =>
      match readLayer s j.ctx g.launch w g.layer with
      | .error e => groupFault s id g.order e
      | .ok rs =>
        let r := groupStep s j.cluster w rs g
        modGroup r.2 id g.order fun _ => r.1

def Machine.execMatrixOpComplete (s : State) : Host.Outcome State Fault Refusal :=
  .next (match (mopsOn s s.ev.a).find? fun p => p.2.running with
    | some (id, m) => if ctxHalted s m.ctx 1024 then s else modWarp { s with mops := Tbl.del s.mops id } m.warp fun w => mopApply w m
    | none => finishGroup s s.ev.a)

/-- A matrix period ends (R207). -/
def Machine.execMbuPeriod (s : State) : Host.Outcome State Fault Refusal := .next (mbuRoll s)

/-- A row of bin b of cluster a has waited NFLUSH cycles (R213). -/
def Machine.execBinAgeFlush (s : State) : Host.Outcome State Fault Refusal :=
  let k := 16 * s.ev.a + s.ev.b
  .next (match Tbl.find s.bins k with
    | some b => if b.rows.any fun r => decide (r.entered + r.nflush ≤ clkNat s) then flushBin s k else s
    | none => s)

/-! ## Results -/

/-- One row's outputs reach its registers; its access ends with its last row. -/
def landRow (s : State) (r : Row) (ys : List Nat) : State :=
  match Tbl.find s.warps r.warp with
  | none => s
  | some w =>
    match Tbl.find w.access r.access with
    | none => s
    | some a =>
      let w := ys.zipIdx.foldl (fun w p => w.setV (r.d + p.2) r.lane (BitVec.ofNat 32 p.1)) w
      let v := ys.zipIdx.foldl (fun t p => Tbl.del t (vkey (r.d + p.2) r.lane)) a.vdst
      if v.isEmpty then freeTok (putWarp s r.warp { w with access := Tbl.del w.access r.access }) r.warp r.tok
      else putWarp s r.warp { w with access := Tbl.put w.access r.access { a with vdst := v } }

/-- An error is held against the token of a row, once for the rows of one call in a group. -/
def holdError (s : State) (r : Row) (n : Nat) (c : Cause) (a : DWord) : State :=
  modWarp s r.warp fun w =>
    let same (e : TokErr) : Bool := e.tok == r.tok && e.d == r.d && e.n == n && e.addr == a && e.obj.isNone
    if w.errs.any same then { w with errs := w.errs.map fun e => if same e then { e with lanes := e.lanes ||| laneBit r.lane } else e }
    else { w with errs := w.errs ++ [{ tok := r.tok, obj := none, lanes := laneBit r.lane, d := r.d, n := n, cause := c, sub := 2, addr := a, detail := 0 }] }

/-- The failed read that ended a group of a job. -/
def Machine.Job.err (j : Job) : Option (Cause × DWord) := j.groups.findSome? (·.err)

/-- Every row of a group is written; where a read of the job has failed, every row of the job has each output 0x7FC00000 (R211). -/
def landGroup (s : State) (n : Nat) (err : Option (Cause × DWord)) (g : Group) : State :=
  match err, g.out with
  | some (c, a), _ => g.rows.foldl (fun s r => landRow (holdError s r n c a) r (List.replicate n mnan)) s
  | none, some ys => (g.rows.zip ys).foldl (fun s p => landRow s p.1 p.2) s
  | none, none => s

/-- Job a is complete: its rows are written. -/
def Machine.execSluiceJobComplete (s : State) : Host.Outcome State Fault Refusal :=
  .next (match Tbl.find s.jobs s.ev.a with
    | none => s
    | some j =>
      if !ctxHalted s j.ctx 2100 && j.groups.all fun g => g.out.isSome || g.err.isSome then
        j.groups.foldl (fun s g => landGroup s (match groupSet s j g with | some w => w.outs | none => 0) j.err g)
          { s with jobs := Tbl.del s.jobs s.ev.a }
      else s)

/-! ## The weight cache (R215, R216) -/

/-- Launches of a context that hold pins under a key (4096 cluster + h); together they make its pin count (R216). -/
def pinHolders (s : State) (ctx key : Nat) : List (Nat × Launch) :=
  s.launches.filter fun p => p.2.ctx == ctx && Tbl.read 0 p.2.pins key != 0

def pinCount (s : State) (ctx key : Nat) : Nat := (pinHolders s ctx key).foldl (fun n p => n + Tbl.read 0 p.2.pins key) 0

/-- Pinned bytes in a cluster, of one context or of all; a set that several launches of a context pin under one handle counts once. -/
def pinnedIn (s : State) (cluster : Nat) (ctx : Option Nat) : Nat :=
  s.launches.foldl (fun n L =>
    if (match ctx with | some c => L.2.ctx == c | none => true) then
      L.2.pins.foldl (fun n p =>
        if p.1 / 4096 = cluster && p.2 != 0 && ((pinHolders s L.2.ctx p.1).head?.map (·.1)) == some L.1 then
          n + (match L.2.wsets[p.1 % 4096]? with | some w => w.bytes | none => 0)
        else n) n
    else n) 0

/-- One pin of a context is given back: the launch's own, or where it has none another's. -/
def unpin (s : State) (lid ctx key : Nat) : State :=
  let own := (pinHolders s ctx key).map (·.1)
  match if own.contains lid then some lid else own.head? with
  | some k => modLaunch s k fun L => { L with pins := Tbl.write 0 L.pins key (Tbl.read 0 L.pins key - 1) }
  | none => s

/-- The handle operand. -/
def Issue.handle (x : Issue) (f : SFmt) : Nat := f.count x.w

def effWpin (f : SFmt) (s : State) (x : Issue) : State :=
  let h := x.handle f
  let put (s : State) (v : Nat) : State := x.finish s (x.w.setSreg x.f.lanes f.d.toNat (BitVec.ofNat 32 v))
  match Tbl.find s.launches x.w.launch with
  | none => x.trap s .disp 2
  | some L =>
    match L.wsets[h]? with
    | none => x.trap s .disp 2
    | some w =>
      let cl := clusterOf x.w.core
      let n := pinCount s x.w.ctx (4096 * cl + h)
      let past := n = 0 && (6 * 2 ^ 20 < pinnedIn s cl none + w.bytes || L.lrec.pincap * 131072 < pinnedIn s cl (some x.w.ctx) + w.bytes)
      if past then put s 0xFFFFFFFF
      else put (modLaunch s x.w.launch fun L =>
        { L with pins := Tbl.write 0 L.pins (4096 * cl + h) (Tbl.read 0 L.pins (4096 * cl + h) + 1) }) w.bytes

def Machine.execWpin (f : SFmt) (s : State) : Host.Outcome State Fault Refusal := issue (.wpin f) false (effWpin f) s

def effWunpin (f : SFmt) (s : State) (x : Issue) : State :=
  let h := x.handle f
  let put (s : State) (v : Nat) : State := x.finish s (x.w.setSreg x.f.lanes f.d.toNat (BitVec.ofNat 32 v))
  match Tbl.find s.launches x.w.launch with
  | none => x.trap s .disp 2
  | some L =>
    if (L.wsets[h]?).isNone then x.trap s .disp 2
    else
      let k := 4096 * clusterOf x.w.core + h
      let n := pinCount s x.w.ctx k
      if n = 0 then put s 0xFFFFFFFF else put (unpin s x.w.launch x.w.ctx k) (n - 1)

def Machine.execWunpin (f : SFmt) (s : State) : Host.Outcome State Fault Refusal := issue (.wunpin f) false (effWunpin f) s

/-- A prefetch changes nothing that a program observes. -/
def effWpref (f : SFmt) (s : State) (x : Issue) : State :=
  if (wsetOf s x.w.launch (x.handle f)).isNone then x.trap s .disp 2 else x.done s

def Machine.execWpref (f : SFmt) (s : State) : Host.Outcome State Fault Refusal := issue (.wpref f) false (effWpref f) s

end Sys2Proof
end

