-- ==== Sys2Proof/Machine/Graphs.lean ====
section
/-! DEFINITION. Work graphs: the catchment, basins and consumer launches (R259 to R262), the record instructions (R263 to R266), and
the coarse rasteriser (R267 to R270). -/

namespace Sys2Proof

open Machine

/-! ## Basins and consumer launches (R261, R296) -/

/-- Clusters of a partition, lowest first. -/
def partClusters (s : State) (part : Nat) : List Nat :=
  match Tbl.find s.parts part with
  | some p => (List.range 12).filter fun k => p.clmask.getLsbD k
  | none => []

/-- The cluster of a cell (R261). -/
def cellCluster (s : State) (ctx cx cy : Nat) : Option Nat :=
  let cs := (match Tbl.find s.ctxs ctx with | some c => partClusters s c.desc.part | none => [])
  if cs.isEmpty then none else cs[(cx + 3 * cy) % cs.length]?

/-- The record of a consumer launch: the node's own, with the graph's shared fields (R296). -/
def consumerRec (g k : LaunchRec) : LaunchRec :=
  { k with karg := g.karg, rttab := g.rttab, frame := g.frame, frames := g.frames, res := g.res, gx := 1, gy := 1, gz := 1, wx := 96, wy := 1,
           wz := 1, cgwg := 0, nnodes := 0, graph := 0, catbase := 0, catsize := 0, firstcnt := 0, firstnode := 0, firstsrc := 0 }

/-- A consumer launch of some records. -/
def consumer (s : State) (gl nid : Nat) (L : Launch) (n : Node) (ks : List Nat) : Launch :=
  let cell := (ks.head?.bind (Tbl.find L.slots)).bind (·.cell)
  { queue := none, ctx := L.ctx, cls := L.cls, level := .u, ctl := n.pool == 1, deadline := L.deadline, age := L.age,
    lrec := consumerRec L.lrec (n.lrec.getD L.lrec), wsets := n.wsets, walks := n.walks, prof := n.prof, targets := L.targets, pins := [],
    nextWg := 0, taken := [], graph := some gl, node := nid, seqno := n.seq, records := ks,
    cluster := if n.cell then cell.bind (fun c => cellCluster s L.ctx c.2.1 c.2.2.1) else none, nodes := [], slots := [], slotQ := 0,
    ticket := [], retired := [] }

/-- One consumer launch takes the oldest records out of a basin. -/
def formLaunch (s : State) (gl nid : Nat) : State :=
  match Tbl.find s.launches gl with
  | none => s
  | some L =>
    match Tbl.find L.nodes nid with
    | none => s
    | some n =>
      let ks := (n.basin.take n.batch).map (·.1)
      if ks.isEmpty || n.pool = 2 then s
      else
        let q := fresh s
        let c := consumer s gl nid L n ks
        let s := modLaunch q.2 gl fun L =>
          { L with nodes := Tbl.put L.nodes nid { n with basin := n.basin.drop n.batch, seq := n.seq + 1 },
                   slots := ks.foldl (fun t k => Tbl.modify t k fun x => { x with st := .delivered q.1 }) L.slots }
        { s with launches := Tbl.put s.launches q.1 c }

/-- A basin launches: it holds a batch, or its oldest record has waited its timeout. -/
def basinDue (s : State) (n : Node) : Bool :=
  n.pool != 2 &&
  match n.basin with
  | [] => false
  | b :: _ => decide (n.batch ≤ n.basin.length) || decide (b.2 + n.timeout ≤ clkNat s)

/-- Form every launch that is due. -/
def runBasin (s : State) (gl nid : Nat) : Nat → State
  | 0 => s
  | fuel + 1 =>
    match (Tbl.find s.launches gl).bind fun L => Tbl.find L.nodes nid with
    | none => s
    | some n => if basinDue s n then runBasin (formLaunch s gl nid) gl nid fuel else s

/-- Records enter the basin of their node, in order. -/
def enterBasin (s : State) (gl : Nat) (ks : List Nat) : State :=
  modLaunch s gl fun L => ks.foldl (fun L k =>
    match Tbl.find L.slots k with
    | none => L
    | some x =>
      { L with slots := Tbl.put L.slots k { x with st := .committed },
               nodes := Tbl.modify L.nodes x.node fun n => { n with basin := n.basin ++ [(k, clkNat s)] } }) L

/-- Commit records, and launch from every basin that is due. -/
def commitAll (s : State) (gl : Nat) (ks : List Nat) : State :=
  let s := enterBasin s gl ks
  (List.range 64).foldl (fun s n => runBasin s gl n 65536) s

/-- The timeout of a basin's oldest record: graph launch a, node b. -/
def Machine.execBasinTimeout (s : State) : Host.Outcome State Fault Refusal := .next (runBasin s s.ev.a s.ev.b 65536)

/-! ## Record instructions (R263 to R266) -/

/-- A node that warps may allocate records for. -/
def Machine.Launch.allocNode (L : Launch) (n : Nat) : Bool :=
  decide (n < 64) && match Tbl.find L.nodes n with
    | some x => !x.cell
    | none => false

def effRalloc (f : VFmt) (s : State) (x : Issue) : State :=
  let node := (x.uni 1 f.b).toNat
  match (graphOf s x.w).bind fun gl => (Tbl.find s.launches gl).map fun L => (gl, L) with
  | none => x.trap s .disp 3
  | some (gl, L) =>
    let n := x.lanes.length
    if !L.allocNode node then x.trap s .disp 3
    else if L.totalSlots < n then x.trap s .disp 4
    else
      let ks := L.freeSlots n
      let first := (match oldest (rallocWaiters s gl) with
        | some w => decide (x.f.wait.order != 0 && x.f.wait.order ≤ w.1)
        | none => true)
      if first && decide (n ≤ ks.length) then
        let s := giveSlots s gl x.wid f.d.toNat node (x.lanes.zip ks)
        catchSettle (x.goto s x.nextPc true) gl
      else
        catchSettle (modFrag (x.block s .waiting .ralloc node fun d => { d with arg := BitVec.ofNat 64 n }) x.wid x.fid fun f =>
          { f with reach := 0, latches := [] }) gl

def Machine.execRalloc (f : VFmt) (s : State) : Host.Outcome State Fault Refusal := issue (.ralloc f) false (effRalloc f) s

/-- The slot at an address. -/
def Machine.Launch.slotAt (L : Launch) (a : DWord) : Option Nat :=
  let o := (a - L.lrec.catbase).toNat
  if L.slotQ = 0 || o % L.slotQ != 0 || L.totalSlots ≤ o / L.slotQ then none else some (o / L.slotQ)

/-- The address of the record that a lane names. -/
def Issue.recordAddr (x : Issue) (f : VFmt) (l : Nat) : DWord :=
  match f.a with
  | .vreg n => x.w.vpair n.toNat l
  | _ => 0

/-- One lane after another: those whose record satisfies a test, and the faults of the others (R18). -/
def Issue.takeRecords (x : Issue) (f : VFmt) (ok : Slot → Bool) (L : Launch) : List (Nat × Nat) × List (Nat × Cause × Nat × DWord) :=
  x.lanes.foldl (fun acc l =>
    let a := x.recordAddr f l
    match L.slotAt a with
    | some k =>
      if (match Tbl.find L.slots k with | some y => ok y | none => false) && !(acc.1.any fun p => p.2 == k) then (acc.1 ++ [(l, k)], acc.2)
      else (acc.1, acc.2 ++ [(l, .prot, 3, a)])
    | none => (acc.1, acc.2 ++ [(l, .prot, 3, a)])) ([], [])

/-- The records of a warp that an instruction names; outside a graph launch every address is wrong. -/
def effRecords (f : VFmt) (ok : Issue → Slot → Bool) (act : State → Nat → List Nat → State) (s : State) (x : Issue) : State :=
  match (graphOf s x.w).bind fun gl => (Tbl.find s.launches gl).map fun L => (gl, L) with
  | none => x.conclude s s 0 (x.lanes.map fun l => (l, .prot, 3, x.recordAddr f l))
  | some (gl, L) =>
    let r := x.takeRecords f (ok x) L
    x.conclude s (act s gl (r.1.map (·.2))) (maskOfList (r.1.map (·.1))) r.2

/-- A record allocated by the issuing warp. -/
def ownAlloc (x : Issue) (y : Slot) : Bool :=
  match y.st with
  | .allocWarp k => k == x.wid
  | _ => false

def effRcommit (f : VFmt) : State → Issue → State := effRecords f ownAlloc commitAll

def Machine.execRcommit (f : VFmt) (s : State) : Host.Outcome State Fault Refusal := issue (.rcommit f) false (effRcommit f) s

/-- A record allocated by, or delivered to, the issuing warp. -/
def ownRecord (x : Issue) (y : Slot) : Bool :=
  match y.st with
  | .allocWarp k => k == x.wid
  | .delivered k => k == x.w.launch
  | _ => false

def effRfree (f : VFmt) (s : State) (x : Issue) : State :=
  effRecords f ownRecord (fun s gl ks => catchSettle (ks.foldl (fun s k => freeSlot s x.wid gl k) s) gl) s x

def Machine.execRfree (f : VFmt) (s : State) : Host.Outcome State Fault Refusal := issue (.rfree f) false (effRfree f) s

/-! ## The coarse rasteriser (R267 to R270) -/

/-- A triangle record (Table 11.4). -/
structure TriRec where
  x    : List Int
  y    : List Int
  z    : List Nat
  prim : Nat
  rt   : Nat
  deriving DecidableEq, Repr

def parseTri (bs : List Byte) : TriRec :=
  { x := (List.range 3).map (fun i => s32At bs (12 * i)), y := (List.range 3).map (fun i => s32At bs (12 * i + 4)),
    z := (List.range 3).map (fun i => natAt bs (12 * i + 8) 4), prim := natAt bs 36 4, rt := natAt bs 40 4 % 16 }

def TriRec.px (t : TriRec) (i : Nat) : Int := t.x.getD i 0
def TriRec.py (t : TriRec) (i : Nat) : Int := t.y.getD i 0

/-- The exact twice-area. -/
def TriRec.area (t : TriRec) : Int := (t.px 1 - t.px 0) * (t.py 2 - t.py 0) - (t.px 2 - t.px 0) * (t.py 1 - t.py 0)

/-- a and b of edge e, oriented (R268). -/
def TriRec.edge (t : TriRec) (e : Nat) : Int × Int :=
  let j := (e + 1) % 3
  let a := t.py e - t.py j
  let b := t.px j - t.px e
  if t.area < 0 then (-a, -b) else (a, b)

def TriRec.dropped (t : TriRec) : Bool :=
  t.area == 0 || (List.range 3).any fun e => decide (2 ^ 18 ≤ (t.edge e).1.natAbs) || decide (2 ^ 18 ≤ (t.edge e).2.natAbs)

def topLeft (ab : Int × Int) : Bool := decide (0 < ab.1) || (ab.1 == 0 && decide (ab.2 < 0))

/-- The edge constant of a cell. -/
def TriRec.edgeC (t : TriRec) (cx cy e : Nat) : Int :=
  let ab := t.edge e
  let c := ab.1 * ((3072 * cx : Nat) - t.px e) + ab.2 * ((2048 * cy : Nat) - t.py e)
  clampI true 32 (if topLeft ab then c else c - 1)

/-- An edge is negative at all four corners of a cell. -/
def TriRec.outside (t : TriRec) (cx cy e : Nat) : Bool :=
  let ab := t.edge e
  let c := t.edgeC cx cy e
  [(0, 0), (3072, 0), (0, 2048), ((3072 : Int), (2048 : Int))].all fun d => decide (ab.1 * d.1 + ab.2 * d.2 + c < 0)

/-- First and last cell of a coordinate range, rounded out. -/
def cellRange (vs : List Int) (unit : Int) (limit : Nat) : List Nat :=
  let lo := vs.foldl min (vs.headD 0)
  let hi := vs.foldl max (vs.headD 0)
  let a := max 0 (lo / unit)
  let b := min (limit : Int) (-((-hi) / unit))
  (List.range (b - a).toNat).map fun i => a.toNat + i

/-- The cells to emit, in ascending CY and then CX. -/
def TriRec.cells (t : TriRec) (wcells hcells : Nat) : List (Nat × Nat) :=
  (cellRange t.y 2048 hcells).flatMap fun cy => (cellRange t.x 3072 wcells).filterMap fun cx =>
    if (List.range 3).any fun e => t.outside cx cy e then none else some (cx, cy)

/-- Bytes at a path-0x0 address of a context, as a unit of the part reads them. -/
def unitRead (s : State) (ctx : Nat) (a : DWord) (n : Nat) : Option (List Byte) :=
  match readVirt s { ctx := ctx, wg := none } a n with
  | .ok bs => some bs
  | .error _ => none

/-- The render target of an index, when it has one. -/
def Machine.Launch.target (L : Launch) (rt : Nat) : Option Target :=
  match L.targets.getD rt none with
  | some t => if t.cbase = 0 then none else some t
  | none => none

/-- The rasteriser frees a slot of its own. -/
def rasterFree (s : State) (gl slot : Nat) : State := catchSettle (modLaunch s gl fun L => { L with slots := Tbl.del L.slots slot }) gl

/-- A raster node takes the next triangle of its basin: graph launch a, node b. A record that cannot be read is waited for. -/
def Machine.execRasterise (s : State) : Host.Outcome State Fault Refusal :=
  .next (match (Tbl.find s.launches s.ev.a).bind fun L => (Tbl.find L.nodes s.ev.b).map fun n => (L, n) with
    | none => s
    | some (L, n) =>
      if n.pool != 2 || n.tri.isSome || ctxHalted s L.ctx 0 then s
      else match n.basin with
        | [] => s
        | (k, _) :: rest =>
          match unitRead s L.ctx (L.slotAddr k) 64 with
          | none => s
          | some bs =>
            let t := parseTri bs
            let s := modLaunch s s.ev.a fun L =>
              { L with nodes := Tbl.put L.nodes s.ev.b { n with basin := rest },
                       slots := Tbl.modify L.slots k fun x => { x with st := .allocRaster } }
            if t.dropped then rasterFree (modCtx s L.ctx fun c => { c with drops := c.drops + 1 }) s.ev.a k
            else
              match (match L.target t.rt with | some y => t.cells y.wcells y.hcells | none => []) with
              | [] => rasterFree s s.ev.a k
              | cs => catchSettle (modLaunch s s.ev.a fun L =>
                  { L with nodes := Tbl.modify L.nodes s.ev.b fun n => { n with tri := some { slot := k, data := bs, cells := cs } } }) s.ev.a)

/-- ZC, ZX and ZY of a cell; open when a vertex has no finite depth (R269). -/
def TriRec.depths (t : TriRec) (free cx cy : Nat) : List Word :=
  match allSome (t.z.map f32Rat) with
  | some [z0, z1, z2] =>
    let q (i : Int) : Rat := (i : Rat)
    let d := q t.area
    let zx := ((z1 - z0) * q (t.py 2 - t.py 0) - (z2 - z0) * q (t.py 1 - t.py 0)) / d
    let zy := ((z2 - z0) * q (t.px 1 - t.px 0) - (z1 - z0) * q (t.px 2 - t.px 0)) / d
    let zc := z0 + zx * q ((3072 * cx + 128 : Nat) - t.px 0) + zy * q ((2048 * cy + 128 : Nat) - t.py 0)
    [roundRat .rne zc, roundRat .rne (256 * zx), roundRat .rne (256 * zy)]
  | _ => [Config.freeWord free, Config.freeWord (free + 1), Config.freeWord (free + 2)]

/-- Key of a cell in the counters of a graph launch. -/
def cellKey (rt cx cy : Nat) : Nat := 2 ^ 36 * rt + 2 ^ 18 * cx + cy

/-- A cell record (Table 11.5). -/
def TriRec.cellBytes (t : TriRec) (ticket free cx cy : Nat) : List Byte :=
  leBytes 4 (cy * 65536 + cx) ++ leBytes 4 ticket ++ leBytes 4 t.prim ++ leBytes 4 t.rt ++
  ((List.range 3).flatMap fun e =>
    leBytes 4 (wrapI 32 (t.edge e).1) ++ leBytes 4 (wrapI 32 (t.edge e).2) ++ leBytes 4 (wrapI 32 (t.edgeC cx cy e))) ++
  (t.depths free cx cy).flatMap wordBytes

/-- One cell is emitted once a slot is free: graph launch a, raster node b. -/
def Machine.execCellEmit (s : State) : Host.Outcome State Fault Refusal :=
  .next (match (Tbl.find s.launches s.ev.a).bind fun L => (Tbl.find L.nodes s.ev.b).map fun n => (L, n) with
    | none => s
    | some (L, n) =>
      if ctxHalted s L.ctx 0 then s
      else match n.tri with
        | none => s
        | some y =>
          match y.cells, L.freeSlots 1 with
          | (cx, cy) :: rest, k :: _ =>
            let t := parseTri y.data
            let key := cellKey t.rt cx cy
            let tk := Tbl.read 0 L.ticket key
            (match writeVirt s { ctx := L.ctx, wg := none } (L.slotAddr k) (t.cellBytes tk s.freeCtr cx cy) with
             | .error _ => s
             | .ok s' =>
               let s1 := modLaunch { s' with freeCtr := s'.freeCtr + 3 } s.ev.a fun L =>
                 { L with ticket := Tbl.write 0 L.ticket key (tk + 1),
                          slots := Tbl.put L.slots k { st := .allocRaster, node := n.next, cell := some (t.rt, cx, cy, tk) },
                          nodes := Tbl.modify L.nodes s.ev.b fun n => { n with tri := if rest.isEmpty then none else some { y with cells := rest } } }
               let s2 := commitAll s1 s.ev.a [k]
               if rest.isEmpty then rasterFree s2 s.ev.a y.slot else s2)
          | _, _ => s)

end Sys2Proof
end

