-- ==== Sys2Proof/Machine/Pixels.lean ====
section
/-! DEFINITION. Pixel instructions and the blend unit (R271 to R275, R379), and cell signatures (R276). -/

namespace Sys2Proof

open Machine

/-! ## Issue (R271, R273) -/

/-- The blend unit's cluster for a warp's cells: the cell's own, else that of its core, or the lowest of a control core's half. -/
def blendCluster (s : State) (w : Warp) : Nat :=
  match (Tbl.find s.launches w.launch).bind (·.cluster) with
  | some c => c
  | none => if w.ctl then 6 * (w.core / 16) else clusterOf w.core

/-- An operation of a fragment on the cell that a handle names. -/
def Issue.pixOp (x : Issue) (s : State) (f : VFmt) (kind : Nat) (vals : List (Nat × Word)) (tok access : Nat) : PixOp :=
  let h := selPair x.w f.b
  { warp := x.wid, ctx := x.w.ctx, cls := x.w.cls, launch := x.w.launch, graph := graphOf s x.w, cluster := blendCluster s x.w, kind := kind,
    rt := f.y.toNat % 16, cx := h.toNat % 65536, cy := h.toNat / 65536 % 65536, ticket := h.toNat / 2 ^ 32, lanes := x.act,
    vals := vals.foldl (fun t p => Tbl.write 0 t p.1 p.2) [], d := f.d.toNat, tok := tok, access := access, frag := x.fid, fault := none,
    bad := 0 }

def addPix (s : State) (op : PixOp) : State := let q := fresh s; { q.2 with pix := Tbl.put q.2.pix q.1 op }

/-- `pzt` and `pwr`: the values are read, the token is busy, and D of `pzt` is pending. -/
def effPixel (f : VFmt) (kind : Nat) (s : State) (x : Issue) : State :=
  let tok := f.x.toNat % 16
  x.onTok s tok
    (let q := fresh s
     let acc : Access :=
       { Machine.Access.plain x.fid x.f.lanes with
         tok := some tok, vdst := if kind = 0 then listTbl (x.lanes.map fun l => (vkey f.d.toNat l, (0 : Word))) else [] }
     let s1 := modWarp q.2 x.wid fun w => { w.tokAdd tok with access := Tbl.put w.access q.1 acc }
     let vals := x.lanes.map fun l => (l, (selVal x.w x.fid x.f f.ty 0 f.a l).setWidth 32)
     x.done (addPix s1 (x.pixOp s f kind vals tok q.1)))

def Machine.execPzt (f : VFmt) (s : State) : Host.Outcome State Fault Refusal := issue (.pzt f) false (effPixel f 0) s
def Machine.execPwr (f : VFmt) (s : State) : Host.Outcome State Fault Refusal := issue (.pwr f) false (effPixel f 1) s

/-- `pdone`: queued behind the earlier operations; nothing in a grid launch (R275, R379). -/
def effPdone (f : VFmt) (s : State) (x : Issue) : State :=
  x.done (if (graphOf s x.w).isSome then addPix s (x.pixOp s f 2 [] 0 0) else s)

def Machine.execPdone (f : VFmt) (s : State) : Host.Outcome State Fault Refusal := issue (.pdone f) false (effPdone f) s

/-! ## One pixel (R273) -/

/-- pass of a depth test. -/
def depthPass (zfn z old : Nat) : Bool :=
  zfn == 3 || match f32Val z, f32Val old with
    | some a, some b => (match zfn with
      | 0 => a.ltNum b
      | 1 => a.leNum b
      | _ => b.ltNum a)
    | _, _ => false

/-- Byte i of a word. -/
def byteOf (v i : Nat) : Nat := v / 256 ^ i % 256

/-- A colour blended into an old one. -/
def blendWord (blend cfmt s d : Nat) : Nat :=
  let a := byteOf s 3
  let bytes (g : Nat → Nat) := g 0 + 256 * g 1 + 65536 * g 2 + 16777216 * g 3
  match blend, cfmt with
  | 0, _ => s
  | 1, _ => bytes fun i => if i < 3 then (byteOf s i * a + byteOf d i * (255 - a) + 127) / 255 else a + (byteOf d 3 * (255 - a) + 127) / 255
  | _, 0 => bytes fun i => min 255 (byteOf s i + byteOf d i)
  | _, _ => FF.f32.add plainEnv 0 s d

/-! ## The blend unit (R274, R275) -/

/-- An operation that must be performed before another: an older one of the same fragment's cell and ticket, or of a grid launch's
fragment. -/
def pixBefore (a b : PixOp) : Bool :=
  a.graph == b.graph &&
  (if a.graph.isSome then a.rt == b.rt && a.cx == b.cx && a.cy == b.cy && a.ticket == b.ticket
   else a.warp == b.warp && a.frag == b.frag)

/-- The retired count that an operation meets. -/
def retiredOf (s : State) (op : PixOp) : Nat :=
  match op.graph.bind (Tbl.find s.launches) with
  | some L => Tbl.read 0 L.retired (cellKey op.rt op.cx op.cy)
  | none => 0

/-- The target that an operation acts on, when the cell lies in it. -/
def pixTarget (s : State) (op : PixOp) : Option Target :=
  ((Tbl.find s.launches op.launch).bind fun L => L.target op.rt).bind fun t =>
    if op.cx < t.wcells && op.cy < t.hcells then some t else none

def pixWho (op : PixOp) : Who := { ctx := op.ctx, wg := none }

/-- Physical address of a word for a kind of access. -/
def pixPlace (s : State) (op : PixOp) (a : DWord) (k : Kind) : Except WFault Nat :=
  match pathCheck a k with
  | some c => .error { cause := c, addr := a, kind := k }
  | none =>
    if 2 ≤ pathOf a then .error { cause := .path, addr := a, kind := k }
    else match translate s op.ctx (offOf a) k false false with
      | .ok pa => .ok pa
      | .error c => .error { cause := c, addr := a, kind := k }

/-- Places of the words of the lanes, each checked for the access kinds given. -/
def pixPlaces (s : State) (op : PixOp) (base : DWord) (ks : List Kind) : List Nat → Except WFault (List (Nat × Nat))
  | [] => .ok []
  | l :: ls =>
    let a := base + BitVec.ofNat 64 (4 * l)
    (ks.foldl (fun (r : Except WFault Nat) k => r.bind fun _ => pixPlace s op a k) (.ok 0)).bind fun pa =>
      (pixPlaces s op base ks ls).map fun t => (l, pa) :: t

/-- The depth test of a lane, whose old value lies at a physical address. -/
def depthOk (s : State) (t : Target) (op : PixOp) (p : Nat × Nat) : Bool :=
  depthPass t.zfn (Tbl.read 0 op.vals p.1).toNat (Memory.le s.hbm p.2 4)

/-- Depth test of one lane: pass, and memory after. -/
def depthLane (t : Target) (op : PixOp) (acc : State × List (Nat × Word)) (p : Nat × Nat) : State × List (Nat × Word) :=
  let z := (Tbl.read 0 op.vals p.1).toNat
  let pass := depthOk acc.1 t op p
  (if pass && t.zwr then storeHbm acc.1 p.2 (leBytes 4 z) else acc.1, acc.2 ++ [(p.1, if pass then 1 else 0)])

/-- The colour write of one lane leaves the signature `own` of its cell alone, and no other that stands for these bytes. -/
def colourLane (t : Target) (op : PixOp) (own : Option Nat) (s : State) (p : Nat × Nat) : State :=
  let v := blendWord t.blend t.cfmt (Tbl.read 0 op.vals p.1).toNat (Memory.le s.hbm p.2 4)
  let met := (sigsMet s p.2 4).filter fun q => some q.2.1 != own
  let s := noteOld s (.hbm p.2) 4
  { s with hbm := clearSigs (Memory.setLe s.hbm p.2 4 v) met, sigs := Tbl.keep s.sigs fun k _ => !(met.any fun q => q.1 == k) }

/-- Physical addresses of the lines of a cell and of its signature entry. -/
def cellPlace (s : State) (op : PixOp) (t : Target) (base : DWord) : Option (List Nat × Nat) :=
  if t.sig = 0 then none
  else match pixPlace s op base .st, pixPlace s op (base + 128) .st, pixPlace s op (base + 256) .st,
      pixPlace s op (t.sig + BitVec.ofNat 64 (8 * (op.cy * t.wcells + op.cx))) .st with
    | .ok a, .ok b, .ok c, .ok q => some ([a, b, c], q)
    | _, _, _, _ => none

/-- Bytes of lines of HBM. -/
def lineBytes (s : State) (ls : List Nat) : List Byte := ls.flatMap fun l => Memory.bytes s.hbm l 128

/-- The cell becomes dirty in L2: what memory holds is kept until its write-back (R276). -/
def dirtyCell (s : State) (place : Option (List Nat × Nat)) : State :=
  match place with
  | some (ls, q) =>
    if (Tbl.find s.cells (ls.headD 0)).isSome then s
    else { s with cells := Tbl.put s.cells (ls.headD 0) { sig := q, lines := ls, old := lineBytes s ls } }
  | none => s

/-- Perform an operation: the values of D by lane, or a fault. -/
def pixPerform (s : State) (op : PixOp) : Except WFault (List (Nat × Word) × State) :=
  match pixTarget s op with
  | none => .ok ([], s)
  | some t =>
    let ls := lanesOf (op.lanes &&& ~~~op.bad)
    let off := BitVec.ofNat 64 (384 * (op.cy * t.wcells + op.cx))
    if op.kind = 0 then
      (if t.zbase = 0 then .ok (ls.map fun l => (l, 1), s)
       else (pixPlaces s op (t.zbase + off) [.ld] ls).bind fun ps =>
         -- only a lane that passes stores its depth
         (pixPlaces s op (t.zbase + off) [.ld, .st] (if t.zwr then (ps.filter (depthOk s t op)).map (·.1) else [])).map fun _ =>
           let r := ps.foldl (depthLane t op) (s, [])
           (r.2, r.1))
    else (pixPlaces s op (t.cbase + off) [.ld, .st] ls).map fun ps =>
      let cell := cellPlace s op t (t.cbase + off)
      ([], ps.foldl (colourLane t op (cell.map (·.2))) (dirtyCell s cell))

/-- An operation is over: D receives its values, 0 where none, and the token is released. -/
def pixEnd (s : State) (id : Nat) (op : PixOp) (vals : List (Nat × Word)) : State :=
  let s := { s with pix := Tbl.del s.pix id }
  if op.kind = 2 then s
  else
    let v (l : Nat) : Word := ((vals.find? fun p => p.1 == l).map (·.2)).getD 0
    let s := modWarp s op.warp fun w =>
      let w := if op.kind = 0 then (lanesOf op.lanes).foldl (fun w l => w.setV op.d l (v l)) w else w
      { w with access := Tbl.del w.access op.access }
    freeTok s op.warp op.tok

/-- A fault of the blend unit that the pump house has refused: the lanes that it concerns write 0, and the error waits (R273). -/
def pixRefused (s : State) (id : Nat) (op : PixOp) (c : Cause) (a : DWord) (bad : LaneMask) : State :=
  let e : TokErr :=
    { tok := op.tok, obj := none, lanes := bad, d := op.d, n := if op.kind = 0 then 1 else 0, cause := c, sub := 3, addr := a, detail := 0 }
  { (modWarp s op.warp fun w => { w with errs := w.errs ++ [e] }) with
    pix := Tbl.put s.pix id { op with fault := none, bad := op.bad ||| bad } }

/-- Lanes whose word lies in the 64-KiB page of an address. -/
def lanesOnPage (s : State) (op : PixOp) (a : DWord) : LaneMask :=
  match pixTarget s op with
  | none => 0
  | some t =>
    let base := (if op.kind = 0 then t.zbase else t.cbase) + BitVec.ofNat 64 (384 * (op.cy * t.wcells + op.cx))
    maskOf fun l => op.lanes.getLsbD l && (base + BitVec.ofNat 64 (4 * l)).toNat / 65536 == a.toNat / 65536

/-- What a performed operation does to its cell's retired count. -/
def retireCell (s : State) (op : PixOp) : State :=
  match op.graph with
  | none => s
  | some gl =>
    if retiredOf s op = op.ticket then
      modLaunch s gl fun L => { L with retired := Tbl.write 0 L.retired (cellKey op.rt op.cx op.cy) (op.ticket + 1) }
    else s

/-- An operation whose turn it is. -/
def pixDue (s : State) (id : Nat) (op : PixOp) : Bool :=
  op.fault.isNone && !(s.pix.any fun p => decide (p.1 < id) && pixBefore p.2 op) &&
  (op.graph.isNone || decide (op.ticket ≤ retiredOf s op))

/-- The unit performs an operation. -/
def pixStep (s : State) (id : Nat) (op : PixOp) : State :=
  if op.kind = 2 then pixEnd (retireCell s op) id op []
  else if op.graph.isSome && decide (op.ticket < retiredOf s op) then pixEnd s id op []
  else match pixPerform s op with
    | .ok r => pixEnd r.2 id op r.1
    | .error e =>
      if e.cause = .page || e.cause = .prot then setSig { s with pix := Tbl.put s.pix id { op with fault := some e.pending } } 2
      else pixRefused s id op e.cause e.addr (lanesOnPage s op e.addr)

/-- The operation that the event names. -/
def Machine.execPixelOperation (s : State) : Host.Outcome State Fault Refusal :=
  .next (match Tbl.find s.pix s.ev.a with
    | none => s
    | some op => if pixDue s s.ev.a op && !ctxHalted s op.ctx 2100 then pixStep s s.ev.a op else s)

/-! ## Cell signatures (R276) -/

/-- L2 writes back the dirty cell at a physical address. Until then every agent sees its new bytes; with a signature that stands for
them the write is skipped, and memory holds what it held. -/
def Machine.execCellWriteback (s : State) : Host.Outcome State Fault Refusal :=
  .next (match Tbl.find s.cells s.ev.a with
    | none => s
    | some d =>
      let pa := s.ev.a
      let crc := crc32c (lineBytes s d.lines)
      let s := { s with cells := Tbl.del s.cells pa }
      if Memory.byte s.hbm (d.sig + 4) &&& 1 = 1 && Memory.le s.hbm d.sig 4 = crc.toNat then
        { s with hbm := d.lines.zipIdx.foldl (fun m p => Memory.stores m p.1 ((d.old.drop (128 * p.2)).take 128)) s.hbm }
      else { s with hbm := Memory.setLe s.hbm d.sig 8 (crc.toNat + 2 ^ 32), sigs := Tbl.put s.sigs pa (d.sig, crc, d.lines) })

end Sys2Proof
end

