-- ==== Sys2Proof/Machine/Traps.lean ====
section
/-! DEFINITION. Encodings that trap (R98, R371), the TIMER trap (R51), handler instructions (R312 to R316, Table 15.5), parks that
wait for frames (R306), and the pump house's service of faults (R332, R333, R375). -/

namespace Sys2Proof

open Machine

/-! ## Words that are no instruction, and TIMER -/

/-- Act in the fragment in focus. -/
def inFrag (g : State → Nat → Nat → Warp → Frag → State) (s : State) : Host.Outcome State Fault Refusal :=
  match s.focus with
  | some (.frag wid fid) =>
    (match findFrag s wid fid with
     | some (w, f) => .next (g s wid fid w f)
     | none => .fault .noFocus)
  | _ => .fault .noFocus

/-- Cause of a decode failure at a level (R98 steps 1 to 7). -/
def failCause (why : DecodeFail) (level : Level) : Cause :=
  match why with
  | .fetchPage => .page
  | .fetchProt => .prot
  | .fetchPath => .path
  | .early | .late => .ill
  | .lateHandler => if level = .u then .priv else .ill

/-- A granule could not be fetched. -/
def DecodeFail.isFetch : DecodeFail → Bool
  | .fetchPage | .fetchProt | .fetchPath => true
  | _ => false

/-- The fragment parks whole: a fetch failure with the address of the granule that failed, else ILL or PRIV. -/
def effUnassigned (why : DecodeFail) (gs : List Word) (s : State) (wid fid : Nat) (w : Warp) (f : Frag) : State :=
  let i : Instr := .unassignedEncoding why gs
  let a := f.pc + BitVec.ofNat 64 (4 * gs.length)
  if why.isFetch then takeTrap s wid fid i (failCause why w.level) 0 (w.act f none) (noteAccess (wholeInfo a 0) 0 a .ex) a false
  else takeTrap s wid fid i (failCause why w.level) 0 (w.act f none) [] 0 false

def Machine.execUnassignedEncoding (why : DecodeFail) (gs : List Word) (s : State) : Host.Outcome State Fault Refusal :=
  inFrag (effUnassigned why gs) s

/-- The pending TIMER trap of the warp, taken by the fragment in focus at the start of a reach; with none pending nothing happens. -/
def Machine.execTimer (s : State) : Host.Outcome State Fault Refusal :=
  .next (match s.focus with
    | some (.frag wid fid) =>
      (match findFrag s wid fid with
       | none => s
       | some (w, f) =>
         if w.timer && f.due && f.st == .running then
           let i := fetchAt s w f.pc
           let s' := takeTrap s wid fid i .timer 0 (w.act f i.guard) [] 0 false
           match findFrag s' wid fid with
           | some (_, f') => if f'.st == .parked then modWarp s' wid fun w => { w with timer := false } else s'
           | none => s'
         else s)
    | _ => s)

/-! ## Handles (R312) -/

/-- The live fragment that a current handle names, among the warps of a context. -/
def handled (s : State) (ctx : Nat) (h : Word) : Option (Nat × Nat × Warp × Frag) :=
  if !h.getLsbD 31 then none
  else
    let fid := h.toNat % 8
    (s.warps.find? fun p => p.2.ctx == ctx && p.2.warpId.toNat == h.toNat / 16 % 2 ^ 20 && !p.2.ended).bind fun p =>
      (Tbl.find p.2.frags fid).bind fun f =>
        if (Tbl.read 0 p.2.gens fid).toNat = h.toNat / 2 ^ 24 % 128 then some (p.1, fid, p.2, f) else none

/-- LASTERR of the warp that executes. -/
def Issue.lasterr (x : Issue) (s : State) (n : Nat) : State := modWarp s x.wid fun w => { w with lasterr := BitVec.ofNat 32 n }

/-- The handle operand. -/
def Issue.target (x : Issue) (s : State) (f : SFmt) : Option (Nat × Nat × Warp × Frag) := handled s x.w.ctx (x.w.sreg f.aReg)

/-! ## What a frame holds (Table 15.2) -/

/-- A word of frame k of a parked fragment, as memory holds it; one that cannot be read is a free value (log 12). -/
def frameWord (s : State) (w : Warp) (f : Frag) (k o : Nat) : Word :=
  let q := 2048 * k + o
  match readVirt s { ctx := w.ctx, wg := none } (f.frame + BitVec.ofNat 64 q) 4 with
  | .ok bs => BitVec.ofNat 32 (leNat bs)
  | .error _ => Config.freeWord (s.freeCtr + q)

/-- LANES of the frame. -/
def frameLanes (s : State) (w : Warp) (f : Frag) : LaneMask := frameWord s w f 0 0x28 ++ frameWord s w f 0 0x24 ++ frameWord s w f 0 0x20

/-- The instruction as fetched at the park. -/
def frameInstr (s : State) (w : Warp) (f : Frag) : Instr :=
  let g (i : Nat) := frameWord s w f 0 (0x10 + 4 * i)
  match decodeGranules (g 0) (g 1) (g 2) with
  | .ok i => i
  | .error e => .unassignedEncoding e ((List.range (granulesOf (g 0))).map g)

/-- An operand area: word j of lane l, from frame j. -/
def frameArea (s : State) (w : Warp) (f : Frag) (o : Nat) (ls : List Nat) : Tbl Word :=
  ls.foldl (fun t l => (List.range (min f.fw 4)).foldl (fun t j => Tbl.write 0 t (96 * j + l) (frameWord s w f j (o + 4 * l))) t) []

/-! ## Resuming (R313, R314, R332) -/

/-- The fragment gives up its frames and is ready; its next instruction acquires at `dev`. -/
def backReady (s : State) (wid fid : Nat) (w : Warp) (f : Frag) (r : Option Replay) (pc : DWord) (pidx : Word) : State :=
  let s := releaseFrames s w f
  let s := modCtx s w.ctx fun c =>
    { c with tq := c.tq.filter (· != (wid, fid)), parks := c.parks.filter fun p => !(p.warp == wid && p.frag == fid) }
  modFrag { s with freeCtr := s.freeCtr + 8192 } wid fid fun f =>
    { f with st := .ready, cause := .none, sub := 0, fw := 0, frame := 0, wkind := .none, warg := 0, tokw := 0, pc := pc, pidx := pidx,
             latches := [], reach := 0, starve := 0, due := false, cont := false, skip := false, acq := true, replay := r, hidden := [],
             hidAct := 0, wait := .empty }

/-- Replay with a lane set added to that of the frame. -/
def resumeReplay (s : State) (wid fid : Nat) (w : Warp) (f : Frag) (extra : LaneMask) : State :=
  if f.fw = 0 then backReady s wid fid w f (some { lanes := f.lanes ||| extra, a := none, b := none, c := none }) f.pc f.pidx
  else
    let ls := frameLanes s w f
    let lat := frameWord s w f 0 0x2C
    let area (b o : Nat) : Option (Tbl Word) := if lat.getLsbD (8 + b) then some (frameArea s w f o (lanesOf ls)) else none
    let pidx := match frameInstr s w f with
      | .vgldl _ _ => f.pidx
      | _ => 0
    backReady s wid fid w f (some { lanes := ls ||| extra, a := area 0 0x80, b := area 1 0x200, c := area 2 0x380 }) f.pc pidx

/-- Scalar destination of an instruction: field and use. -/
def Instr.sDest (i : Instr) : Option (Nat × SUse) :=
  match i with
  | .btest f => some (f.d.toNat, .regs 1)
  | .sst _ => none
  | i => match i.sUses with
    | some (f, _, _, .regs n) => some (f.d.toNat, .regs n)
    | some (f, _, _, .triple) => some (f.d.toNat, .triple)
    | _ => none

/-- Triple that a V-format instruction writes lane by lane. -/
def Instr.maskDest (i : Instr) : Option Nat :=
  match i with
  | .vcmp _ f => if f.nw then none else some f.d.toNat
  | .vballot f => some f.d.toNat
  | _ => none

/-- Vector destination and its words; an encoding of LEN 10 that failed decode names G1[30:20] (R313). -/
def Instr.vDest (i : Instr) : Option (Nat × Nat) :=
  match i with
  | .unassignedEncoding _ gs => if gs.length = 3 then some ((field (gs.getD 1 0) 20 11).toNat, 1) else none
  | i => if i.nw then none else i.vDst.head?

/-- Results of more than four words per lane, which cannot be completed. -/
def Instr.tooWide (i : Instr) : Bool :=
  match i with
  | .vgldl _ _ | .ttov _ | .ctov _ | .ncall _ | .rtrace _ | .rresume _ => true
  | .vgld fn f => decide (4 < f.n * fn.regs)
  | _ => false

/-- Destination words of a completion, from RESULT. DEDUCED (log 23): a triple that each lane gives a bit takes bit 0 of its lane's word, and one
that an S-format instruction writes takes the words of lane 0. -/
def completed (s : State) (w : Warp) (f : Frag) (lanes : LaneMask) : Warp :=
  let i := frameInstr s w f
  let res (j l : Nat) : Word := frameWord s w f j (0x500 + 4 * l)
  match i.vDest, i.maskDest, i.sDest with
  | some (d, n), _, _ => (lanesOf lanes).foldl (fun w l => (List.range n).foldl (fun w j => w.setV (d + j) l (res j l)) w) w
  | none, some d, _ =>
    w.setTriple f.lanes d ((w.triple d &&& ~~~lanes) ||| maskOfList ((lanesOf lanes).filter fun l => (res 0 l).getLsbD 0))
  | none, none, some (d, u) => (u.refs d).foldl (fun w q => (List.range q.2).foldl (fun w j => w.setSreg f.lanes (q.1 + j) (res j 0)) w) w
  | none, none, none => w

/-- Lanes revived: alive, with D 0, in the fragment. -/
def Machine.Warp.revive (w : Warp) (fid : Nat) (v : LaneMask) : Warp :=
  let put (t : Tbl Word) (i : Nat) := Tbl.write 0 t i (Tbl.read 0 t i ||| maskWord v i)
  { w with
    sregs := put (put (put w.sregs 0) 1) 2, depth := (lanesOf v).foldl (fun t l => Tbl.del t l) w.depth,
    frags := Tbl.modify w.frags fid fun f => { f with lanes := f.lanes ||| v } }

/-- `fres` on a parked fragment: LASTERR, and the state after (R313). -/
def fresOn (s : State) (complete : Bool) (v : LaneMask) (wid fid : Nat) (w : Warp) (f : Frag) : Nat × State :=
  let i := frameInstr s w f
  if v &&& (w.alive ||| ~~~w.lanes0) != 0 then (3, s)
  else if complete && f.fw = 0 then (5, s)
  else if complete && i.tooWide then (4, s)
  else
    let w' := w.revive fid v
    if complete then
      let w' := completed s w' f (frameLanes s w f ||| v)
      (0, backReady (putWarp s wid w') wid fid w' f none (f.pc + BitVec.ofNat 64 (4 * i.size)) 0)
    else (0, resumeReplay (putWarp s wid w') wid fid w' { f with lanes := f.lanes ||| v } v)

/-! ## Handler instructions (Table 15.6) -/

/-- LANES of a fragment, or those of its frame: zero when it holds none. -/
def effFmask (f : SFmt) (s : State) (x : Issue) : State :=
  match x.target s f with
  | none => x.done (x.lasterr s 1)
  | some (_, _, w, g) =>
    let m := if f.z.toNat % 2 = 0 then g.lanes else if g.fw = 0 then 0 else frameLanes s w g
    x.finish s { (x.w.setTriple x.f.lanes f.d.toNat m) with lasterr := 0 }

def Machine.execFmask (f : SFmt) (s : State) : Host.Outcome State Fault Refusal := issue (.fmask f) false (effFmask f) s

/-- A word of an entry; 0 for a handle that is not current. -/
def effFstate (f : SFmt) (s : State) (x : Issue) : State :=
  match x.target s f with
  | none => x.finish s { (x.w.setSreg x.f.lanes f.d.toNat 0) with lasterr := 1 }
  | some (_, fid, w, g) => x.finish s { (x.w.setSreg x.f.lanes f.d.toNat (entryWord w fid g f.imm14.toNat)) with lasterr := 0 }

def Machine.execFstate (f : SFmt) (s : State) : Host.Outcome State Fault Refusal := issue (.fstate f) false (effFstate f) s

/-- Lanes to revive. -/
def Issue.revived (x : Issue) (f : SFmt) : LaneMask := if f.z.toNat / 2 % 2 = 1 then x.w.triple f.bReg else 0

def effFres (f : SFmt) (complete : Bool) (s : State) (x : Issue) : State :=
  match x.target s f with
  | none => x.done (x.lasterr s 1)
  | some (wid, fid, w, g) =>
    if g.st != .parked then x.done (x.lasterr s 2)
    else
      let r := fresOn s complete (x.revived f) wid fid w g
      x.done (x.lasterr (if r.1 = 0 then settle r.2 wid else r.2) r.1)

def Machine.execFresReplay (f : SFmt) (s : State) : Host.Outcome State Fault Refusal := issue (.fresReplay f) false (effFres f false) s
def Machine.execFresComplete (f : SFmt) (s : State) : Host.Outcome State Fault Refusal := issue (.fresComplete f) false (effFres f true) s

/-- A fragment that stops being ready holds no `yield` back any longer (R123). -/
def unyield (s : State) (wid fid : Nat) : State :=
  { s with warps := Tbl.mapVals s.warps fun _ w =>
      { w with frags := Tbl.mapVals w.frags fun _ f => { f with yield := f.yield.filter (· != (wid, fid)) } } }

/-- Every lane of a fragment ends, as by `exit` (R315). -/
def killFrag (s : State) (wid fid : Nat) (m : LaneMask) : State := settle (freeFrag (modWarp s wid fun w => w.kill m) wid fid) wid

def effFkill (f : SFmt) (s : State) (x : Issue) : State :=
  match x.target s f with
  | none => x.done (x.lasterr s 1)
  | some (wid, fid, _, g) => killFrag (unyield (x.done (x.lasterr s 0)) wid fid) wid fid g.lanes

def Machine.execFkill (f : SFmt) (s : State) : Host.Outcome State Fault Refusal := issue (.fkill f) false (effFkill f) s

/-- A fragment parks at its next instruction boundary (R316): at once, but for one whose accesses to peers or the host are under way. -/
def parkOrdered (s : State) (wid fid : Nat) (code : BitVec 14) : State :=
  match findFrag s wid fid with
  | none => s
  | some (_, f) =>
    if f.st == .running && f.wkind == .peer then modFrag s wid fid fun f => { f with brk := some code }
    else settle (parkBrk (unyield s wid fid) wid fid code) wid

/-- A park that already waits for frames stays as it is. -/
def effFpark (f : SFmt) (s : State) (x : Issue) : State :=
  match x.target s f with
  | none => x.done (x.lasterr s 1)
  | some (wid, fid, _, g) =>
    if g.st == .parked then x.done (x.lasterr s 2)
    else
      let s := x.done (x.lasterr s 0)
      if g.wait.pend.isSome then s else parkOrdered s wid fid f.imm14

def Machine.execFpark (f : SFmt) (s : State) : Host.Outcome State Fault Refusal := issue (.fpark f) false (effFpark f) s

/-! ### Handler control registers (Table 15.5) -/

/-- Frames that are free in the frame area of a launch. -/
def freeFrames (L : Launch) : Nat := L.lrec.frames - L.taken.length

/-- FREEFR; the launch may have ended since, and then the spec gives no value. -/
def freefr (s : State) (w : Warp) : Word :=
  match w.tqLast with
  | none => 0
  | some k => match Tbl.find s.launches k with
    | some L => BitVec.ofNat 32 (freeFrames L)
    | none => Config.freeWord s.freeCtr

/-- A register other than TQ. -/
def hcrValue (s : State) (w : Warp) (c : Ctx) (n : Nat) : Word :=
  match n with
  | 1 => BitVec.ofNat 32 c.tq.length
  | 2 => w.lasterr
  | 3 => BitVec.ofNat 32 w.ctx
  | 4 => c.events
  | 5 => freefr s w
  | 6 => c.tqmask
  | _ => 0

/-- Read TQ: the oldest handle leaves the queue. -/
def effTq (f : SFmt) (s : State) (x : Issue) (c : Ctx) : State :=
  match c.tq with
  | [] => if f.z.toNat % 2 = 1 then x.block s .stalled .hcrr 0 id else x.finish s (x.w.setSreg x.f.lanes f.d.toNat 0)
  | (wid, fid) :: t =>
    match Tbl.find s.warps wid with
    | none => x.finish (modCtx s x.w.ctx fun c => { c with tq := t }) (x.w.setSreg x.f.lanes f.d.toNat 0)
    | some w =>
      x.finish (modCtx s x.w.ctx fun c => { c with tq := t })
        { (x.w.setSreg x.f.lanes f.d.toNat (handleOf w fid)) with tqLast := some (frameLaunch s w) }

def effHcrr (f : SFmt) (s : State) (x : Issue) : State :=
  match Tbl.find s.ctxs x.w.ctx with
  | none => x.done s
  | some c =>
    if f.imm14 = 0 then effTq f s x c
    else x.finish { s with freeCtr := s.freeCtr + 1 } (x.w.setSreg x.f.lanes f.d.toNat (hcrValue s x.w c f.imm14.toNat))

def Machine.execHcrr (f : SFmt) (s : State) : Host.Outcome State Fault Refusal := issue (.hcrr f) false (effHcrr f) s

/-- Only TQMASK takes a write. -/
def effHcrw (f : SFmt) (s : State) (x : Issue) : State :=
  x.done (if f.imm14 = 6 then modCtx s x.w.ctx fun c => { c with tqmask := x.w.sreg f.aReg } else s)

def Machine.execHcrw (f : SFmt) (s : State) : Host.Outcome State Fault Refusal := issue (.hcrw f) false (effHcrw f) s

/-! ## Parks that wait for frames (R306) -/

/-- Fragment b of warp a takes its frames and parks, when they are free; one that stalls for frames without its slot is ready then. -/
def Machine.execPendingPark (s : State) : Host.Outcome State Fault Refusal :=
  .next (match findFrag s s.ev.a s.ev.b with
    | none => s
    | some (w, f) =>
      if w.resid != .resident || ctxHalted s w.ctx 400 then s
      else match f.wait.pend with
        | some p => (tryPark s s.ev.a s.ev.b p).getD s
        | none =>
          if f.st == .stalled && f.wkind == .frames && f.wait.slotless && framesFree s w f then
            modFrag s s.ev.a s.ev.b fun f => { f with st := .ready, wkind := .none, wait := { f.wait with slotless := false } }
          else s)

/-! ## Fault service (R332, R333, R375) -/

/-- Translated paths. -/
def translated (a : DWord) : Bool := pathOf a == 0 || pathOf a == 1 || pathOf a == 6 || pathOf a == 7

/-- A failed access succeeds when the tables are walked again. -/
def succeedsNow (s : State) (ctx : Nat) (p : DWord × Kind) : Bool :=
  translated p.1 && (pathCheck p.1 p.2).isNone &&
  match resolve s { ctx := ctx, wg := none } p.1 1 p.2 with
  | .ok _ => true
  | .error _ => false

/-- What the pump house makes of failed accesses. -/
inductive Served where
  | resume
  | waits (tags : List Nat)
  | refused
  deriving DecidableEq, Repr

/-- The fault message of a page and kind: one in flight, or a new one. -/
def messageFor (s : State) (ctx : Nat) (p : DWord × Kind) : Nat × State :=
  let m : FaultMsg := { ctx := ctx, page := offOf p.1 / 65536, kind := p.2.code }
  match Tbl.firstKey s.msgs fun _ q => q == m with
  | some t => (t, s)
  | none => let q := fresh s; (q.1, { q.2 with msgs := Tbl.put q.2.msgs q.1 m })

def messagesFor (s : State) (ctx : Nat) : List (DWord × Kind) → List Nat × State
  | [] => ([], s)
  | p :: ps =>
    let q := messageFor s ctx p
    let r := messagesFor q.2 ctx ps
    (if r.1.contains q.1 then r.1 else q.1 :: r.1, r.2)

/-- A walk has found a page mapped: where its locked entry was invalid, an ordinary entry serves the page from now on (R330). -/
def fillOrdinary (s : State) (ctx o : Nat) : State :=
  { s with wgs := Tbl.mapVals s.wgs fun _ g =>
      if g.ctx == ctx then
        { g with locks := g.locks.map fun r => { r with pages := r.pages.map fun q =>
            if q.1 ≤ o && o < q.1 + q.2.1 && q.2.2 == .invalid then (q.1, q.2.1, .ordinary) else q } }
      else g }

/-- Steps 1 and 2 of R332. -/
def serve (s : State) (ctx : Nat) (cause : Cause) (accs : List (DWord × Kind)) : Served × State :=
  let bad := accs.filter fun p => !succeedsNow s ctx p
  if bad.isEmpty then (.resume, accs.foldl (fun s p => fillOrdinary s ctx (offOf p.1)) s)
  else match Tbl.find s.ctxs ctx with
    | none => (.refused, s)
    | some c =>
      if c.paging && (cause == .page || c.protMsgs) && bad.all (fun p => translated p.1) then
        let r := messagesFor s ctx bad
        (.waits r.1, r.2)
      else (.refused, s)

/-- A parked fragment, its warp, and its entry with the pump house. -/
def phPark (s : State) (wid fid : Nat) : Option (Warp × Frag × PhPark) :=
  (findFrag s wid fid).bind fun q =>
    ((Tbl.find s.ctxs q.1.ctx).bind fun c => c.parks.find? fun p => p.warp == wid && p.frag == fid).map fun p => (q.1, q.2, p)

def dropPhPark (s : State) (ctx wid fid : Nat) : State :=
  modCtx s ctx fun c => { c with parks := c.parks.filter fun p => !(p.warp == wid && p.frag == fid) }

/-- The pump house has resolved a park: the frame is written and the park delivered, or the fragment replays. -/
def parkServed (s : State) (wid fid : Nat) (w : Warp) (f : Frag) (p : PhPark) : State :=
  match p.frame with
  | none => resumeReplay s wid fid w f 0
  | some r =>
    let s := dropPhPark s w.ctx wid fid
    match writeFrames s w fid f r r.fw with
    | .ok s' => deliver s' w wid fid r
    | .error e =>
      setSig (modCtx s w.ctx fun c =>
        { c with parks := c.parks ++ [{ warp := wid, frag := fid, accs := [(e.2, .st)], msgs := [], frame := some r }] }) 2

/-- A park that cannot be resolved joins the trap queue; a frame that cannot be written logs an event (R375). -/
def parkRefused (s : State) (wid fid : Nat) (w : Warp) (f : Frag) (p : PhPark) : State :=
  let s := dropPhPark s w.ctx wid fid
  match p.frame with
  | none => enqueue s w wid fid f.cause
  | some r => deliver (ctxEvent s w.ctx { kind := .frameWriteFailed, a := wid, b := fid }) w wid fid r

/-- Cause of what a park waits for: that of the park, or of the failed frame write. -/
def phCause (s : State) (w : Warp) (f : Frag) (p : PhPark) : Cause :=
  match p.frame, p.accs with
  | some _, (a, k) :: _ => (match resolve s { ctx := w.ctx, wg := none } a 1 k with | .error c => c | .ok _ => .page)
  | _, _ => f.cause

/-- Service of a park. -/
def servePark (s : State) (wid fid : Nat) : State :=
  match phPark s wid fid with
  | none => s
  | some (w, f, p) =>
    if !p.msgs.isEmpty then s
    else match serve s w.ctx (phCause s w f p) p.accs with
      | (.resume, s') => parkServed s' wid fid w f p
      | (.refused, s') => parkRefused s' wid fid w f p
      | (.waits ts, s') =>
        modCtx s' w.ctx fun c => { c with parks := c.parks.map fun q => if q.warp == wid && q.frag == fid then { q with msgs := ts } else q }

/-- What an engine's fault becomes once served: gone, waiting on a message, or refused. -/
def serveEngine (s : State) (ctx : Nat) (e : EngFault) : Served × State :=
  if e.msg.isSome then (.waits [], s) else serve s ctx e.cause [(e.addr, e.kind)]

/-- An engine whose fault the pump house can see. -/
inductive Unit' where
  | copy (id : Nat)
  | group (job order : Nat)
  | walk (id : Nat)
  | build (id : Nat)
  | pix (id : Nat)
  deriving DecidableEq, Repr

/-- Context and fault of a unit. -/
def unitFault (s : State) (u : Unit') : Option (Nat × EngFault) :=
  match u with
  | .copy id => (Tbl.find s.copies id).bind fun c => c.fault.map fun e => (c.ctx, e)
  | .group j o => (Tbl.find s.jobs j).bind fun j => (j.groups.find? fun g => g.order == o).bind fun g => g.fault.map fun e => (j.ctx, e)
  | .walk id => (Tbl.find s.walks id).bind fun k => k.pend.map fun e => (k.ctx, e)
  | .build id => (Tbl.find s.builds id).bind fun b => b.fault.map fun e => (b.ctx, e)
  | .pix id => (Tbl.find s.pix id).bind fun p => p.fault.map fun e => (p.ctx, e)

/-- A unit with its fault changed. -/
def setUnitFault (s : State) (u : Unit') (e : Option EngFault) : State :=
  match u with
  | .copy id => { s with copies := Tbl.modify s.copies id fun c => { c with fault := e } }
  | .group j o => modGroup s j o fun g => { g with fault := e }
  | .walk id => { s with walks := Tbl.modify s.walks id fun k => { k with pend := e } }
  | .build id => { s with builds := Tbl.modify s.builds id fun b => { b with fault := e } }
  | .pix id => { s with pix := Tbl.modify s.pix id fun p => { p with fault := e } }

/-- The access can go on. -/
def unitResumed (s : State) (u : Unit') : State :=
  let s := setUnitFault s u none
  match u with
  | .walk id =>
    (match Tbl.find s.walks id with
     | some k => (match k.saving with
       | some (c, a) => walkFaultOutcome (putWalk s id { k with saving := none }) id { k with saving := none } c a
       | none => s)
     | none => s)
  | _ => s

/-- The access is refused: the outcome that the unit's chapter gives (R179, R211, R247, R258, R273). -/
def unitRefused (s : State) (u : Unit') (e : EngFault) : State :=
  let s := setUnitFault s u none
  match u with
  | .copy id => copyFail s id e.cause 0 e.addr
  | .group j o => modGroup s j o fun g => { g with err := some (e.cause, e.addr) }
  | .walk id =>
    (match Tbl.find s.walks id with
     | some k =>
       if k.saving.isSome then recordLost s id { k with saving := none } e.addr else walkFaultOutcome s id k e.cause e.addr
     | none => s)
  | .build id => { s with builds := Tbl.modify s.builds id fun b => { b with refused := some e.addr } }
  | .pix id =>
    (match Tbl.find s.pix id with
     | some op => pixRefused s id op e.cause e.addr (lanesOnPage s op e.addr)
     | none => s)

def serveUnit (s : State) (u : Unit') : State :=
  match unitFault s u with
  | none => s
  | some (ctx, e) =>
    match serveEngine s ctx e with
    | (.resume, s') => unitResumed s' u
    | (.refused, s') => unitRefused s' u e
    | (.waits [], s') => s'
    | (.waits (t :: _), s') => setUnitFault s' u (some { e with msg := some t })

/-- The pump house takes a fault: fragment c of warp b, copy b, group c of job b, walk b, build b or pixel operation b, by a. -/
def Machine.execFaultService (s : State) : Host.Outcome State Fault Refusal :=
  let e := s.ev
  .next (match e.a with
    | 0 => servePark s e.b e.c
    | 1 => serveUnit s (.copy e.b)
    | 2 => serveUnit s (.group e.b e.c)
    | 3 => serveUnit s (.walk e.b)
    | 4 => serveUnit s (.build e.b)
    | _ => serveUnit s (.pix e.b))

/-! ### The driver's answers (steps 3 and 4) -/

/-- Every unit with a fault that waits on a message. -/
def unitsOn (s : State) (tag : Nat) : List Unit' :=
  let on (e : Option EngFault) : Bool := match e with | some e => e.msg == some tag | none => false
  (s.copies.filterMap fun p => if on p.2.fault then some (Unit'.copy p.1) else none) ++
  (s.jobs.flatMap fun p => p.2.groups.filterMap fun g => if on g.fault then some (Unit'.group p.1 g.order) else none) ++
  (s.walks.filterMap fun p => if on p.2.pend then some (Unit'.walk p.1) else none) ++
  (s.builds.filterMap fun p => if on p.2.fault then some (Unit'.build p.1) else none) ++
  (s.pix.filterMap fun p => if on p.2.fault then some (Unit'.pix p.1) else none)

/-- Parks that wait on a message. -/
def parksOn (s : State) (ctx tag : Nat) : List PhPark :=
  match Tbl.find s.ctxs ctx with
  | some c => c.parks.filter fun p => p.msgs.contains tag
  | none => []

/-- The answer to a fault message: everything that waits on it goes on, or is refused. -/
def answerMessage (s : State) (tag : Nat) (mapped : Bool) : State :=
  match Tbl.find s.msgs tag with
  | none => s
  | some m =>
    let s := { s with msgs := Tbl.del s.msgs tag }
    let s := if mapped then fillOrdinary s m.ctx (m.page * 65536) else s
    let s := (parksOn s m.ctx tag).foldl (fun s p =>
      match phPark s p.warp p.frag with
      | some (w, f, p) => if mapped then parkServed s p.warp p.frag w f p else parkRefused s p.warp p.frag w f p
      | none => s) s
    (unitsOn s tag).foldl (fun s u =>
      match unitFault s u with
      | some (_, e) => if mapped then unitResumed s u else unitRefused s u e
      | none => s) s

end Sys2Proof
end

