-- ==== Sys2Proof/Machine/Halts.lean ====
section
/-! DEFINITION. The barrier watchdog (R317), the halt line (R318), the stop of a context with its records (R319, R320), and soft
errors. -/

namespace Sys2Proof

open Machine

/-- A context's halt line rises: cause 0x14 BARTO, 0x1A ECC, 0xFF kill; one that has risen stays as it is (R318). -/
def raiseHalt (s : State) (ctx cause sub : Nat) (addr : DWord) : State :=
  match Tbl.find s.ctxs ctx with
  | none => s
  | some c =>
    if c.halted.isSome then s
    else setSig (modCtx s ctx fun c => { c with halted := some (cause, sub, addr, clkNat s) }) 5

/-- An uncorrectable error, of unit b at address w, meets state of context a. -/
def Machine.execUncorrectableError (s : State) : Host.Outcome State Fault Refusal := .next (raiseHalt s s.ev.a 0x1A s.ev.b s.ev.w)

/-- A corrected error changes no value and is counted (R318). -/
def Machine.execCorrectableError (s : State) : Host.Outcome State Fault Refusal :=
  .next (modBoard s fun b => { b with cecc := b.cecc + 1 })

/-! ## The barrier watchdog (R317) -/

/-- WDOG in cycles. -/
def Machine.CtxDesc.watchdog (d : CtxDesc) : Nat := if d.wdog = 0 then 2 ^ 24 else 1024 * d.wdog

/-- Warps of a workgroup that have arrived and have not ended, as a mask by warp index. -/
def arrivedMask (s : State) (g : Wg) (kind : WKind) (slot : Nat) : Nat :=
  g.warps.foldl (fun m k => match Tbl.find s.warps k with
    | some w => if !w.ended && warpArrived w kind slot then m ||| 2 ^ w.index else m
    | none => m) 0

/-- Workgroups of a cluster group whose every warp has arrived. -/
def arrivedWgs (s : State) (cg slot : Nat) : Nat :=
  match Tbl.find s.cgs cg with
  | none => 0
  | some c => c.wgs.countP fun k => match Tbl.find s.wgs k with
    | some g => allArrived s g.warps .barcl slot
    | none => false

/-- Insert a warp by its index. -/
def insertWarp (w : Warp) : List Warp → List Warp
  | [] => [w]
  | v :: vs => if w.index < v.index then w :: v :: vs else v :: insertWarp w vs

/-- Entries of a capture: 16 bytes for each live fragment, in order of warp index and fragment. -/
def captureEntries (s : State) (g : Wg) : List (List Byte) :=
  ((g.warps.filterMap (Tbl.find s.warps)).foldl (fun t w => insertWarp w t) []).flatMap fun w =>
    w.frags.map fun p => wordBytes (handleOf w p.1) ++ wordBytes (entryWord w p.1 p.2 0) ++ leBytes 8 p.2.pc.toNat

/-- The 4,096 bytes of a capture; what the spec gives no value is free (log 12). -/
def captureBytes (s : State) (g : Wg) (cl : Bool) (slot : Nat) (pc : DWord) : List Byte :=
  let m : Memory := Memory.stores [] 0 ((List.range 4096).map fun i => Config.padByte (s.freeCtr + i))
  let m := Memory.setLe m 0 4 (0x14 * 2 ^ 24 + 2 * 65536 + (if cl then 16 else 0) + slot)
  let m := Memory.setLe m 0x08 8 pc.toNat
  let m := Memory.setLe m 0x1C 4 g.linear
  let m := Memory.setLe m 0x20 4 (arrivedMask s g (if cl then .barcl else .bar) slot)
  let m := if cl then Memory.setLe m 0x24 4 (arrivedWgs s g.cg slot) else m
  let m := (captureEntries s g).zipIdx.foldl (fun m e =>
    if e.2 < 120 then Memory.stores m (0x80 + 16 * e.2) e.1
    else if e.2 < 240 then Memory.stores m (2048 + 0x80 + 16 * (e.2 - 120)) e.1 else m) m
  Memory.bytes m 0 4096

/-- Write a capture to two frames, or keep its start for the stop record area. A write that fails leaves the frames as they were. -/
def capture (s : State) (g : Wg) (cl : Bool) (slot : Nat) (pc : DWord) : State :=
  let bs := captureBytes s g cl slot pc
  let s := { s with freeCtr := s.freeCtr + 4096 }
  let lid := ((Tbl.find s.launches g.launch).bind (·.graph)).getD g.launch
  match Tbl.find s.launches lid with
  | none => s
  | some L =>
    match freeRun L 2 with
    | none => modCtx s g.ctx fun c => { c with capture := some (bs.take 16) }
    | some i =>
      let s := { s with launches := Tbl.put s.launches lid (takeFrames L i 2 none) }
      match writeVirt s { ctx := g.ctx, wg := none } (L.lrec.frame + BitVec.ofNat 64 (2048 * i)) bs with
      | .ok s' => s'
      | .error _ => s

/-- The open round of a slot. -/
def roundOf (s : State) (g : Wg) (cl : Bool) (slot : Nat) : Option Round :=
  if cl then (Tbl.find s.cgs g.cg).bind fun c => Tbl.find c.rounds slot else Tbl.find g.rounds slot

/-- Slot c of workgroup b, `bar` (a = 0) or `barcl`, has counted WDOG cycles. -/
def Machine.execBarto (s : State) : Host.Outcome State Fault Refusal :=
  let cl := s.ev.a != 0
  .next (match Tbl.find s.wgs s.ev.b with
    | none => s
    | some g =>
      match Tbl.find s.ctxs g.ctx, roundOf s g cl s.ev.c with
      | some c, some r =>
        if c.halted.isSome || r.count < c.desc.watchdog then s
        else raiseHalt (capture s g cl s.ev.c r.pc) g.ctx 0x14 ((if cl then 16 else 0) + s.ev.c) 0
      | _, _ => s)

/-! ## Stop records (R320, Tables 15.8 and 15.9) -/

/-- One unit that held work: unit id, work discarded, LAST. -/
structure Stopped where
  unit  : Nat
  count : Nat
  last  : DWord
  deriving DecidableEq, Repr

/-- The oldest of some warps. -/
def oldestWarp : List Warp → Option Warp
  | [] => none
  | w :: ws => match oldestWarp ws with
    | none => some w
    | some v => if w.age ≤ v.age then some w else some v

/-- PC of the oldest warp's lowest fragment. -/
def lastPc (ws : List Warp) : DWord :=
  match oldestWarp ws with
  | some w => (match w.frags with | (_, f) :: _ => f.pc | [] => 0)
  | none => 0

/-- A record for each index at which a unit held work. -/
def stoppedAt {α : Type} (unit n : Nat) (work : Nat → List α) (count : List α → Nat) (last : List α → DWord) : List Stopped :=
  (List.range n).filterMap fun k =>
    if (work k).isEmpty then none else some { unit := unit * 4096 + k, count := count (work k), last := last (work k) }

/-- A warp's state is on a core. -/
def onCore (s : State) (wid : Nat) : Bool := match Tbl.find s.warps wid with | some w => w.resid != .saved | none => true

/-- Units that hold work of a context, in ascending unit id; copies of control cores count with those cores. What is saved out is in no unit. -/
def stoppedUnits (s : State) (ctx : Nat) : List Stopped :=
  let warps (ctl : Bool) (p : Nat → Bool) : List Warp :=
    (Tbl.vals s.warps).filter fun w => w.ctx == ctx && w.ctl == ctl && w.resid != .saved && p w.core
  let copies (ctl : Bool) (p : Nat → Bool) : List Copy := (Tbl.vals s.copies).filter fun c =>
    c.ctx == ctx && c.ctl == ctl && p c.core && onCore s c.warp
  let rows (k : Nat) : List Row :=
    (s.bins.flatMap fun b => if b.1 / 16 = k && b.2.ctx = ctx then b.2.rows else []) ++
    (s.jobs.flatMap fun j => if j.2.cluster = k && j.2.ctx = ctx then j.2.groups.flatMap (·.rows) else [])
  let cdesc (cs : List Copy) : DWord := (cs.head?.map (·.desc)).getD 0
  stoppedAt 0 96 (fun k => warps false (· == k)) List.length lastPc ++
  stoppedAt 1 96 (fun k => (Tbl.vals s.mops).filter fun m => m.ctx == ctx && m.core == k) List.length (fun _ => 0) ++
  stoppedAt 2 96 (fun k => (Tbl.vals s.walks).filter fun w => w.ctx == ctx && w.core == k && w.resid != .saved) List.length (fun _ => 0) ++
  stoppedAt 3 96 (fun k => copies false (· == k)) List.length cdesc ++
  stoppedAt 4 12 rows List.length (fun _ => 0) ++
  stoppedAt 5 12 (fun k => (Tbl.vals s.pix).filter fun p => p.ctx == ctx && p.cluster == k) List.length (fun _ => 0) ++
  ((List.range 2).filterMap fun h =>
    let ws := warps true fun c => c / 16 == h
    let cs := copies true fun c => c / 16 == h
    if ws.isEmpty && cs.isEmpty then none else some { unit := 6 * 4096 + h, count := ws.length + cs.length, last := lastPc ws }) ++
  stoppedAt 7 2 (fun h => (Tbl.vals s.builds).filter fun b => b.ctx == ctx && b.half == h && b.resid == .resident) List.length
    (fun bs => (bs.head?.map (·.desc)).getD 0)

/-- The 64 bytes of a stop record. -/
def stopBytes (s : State) (cause sub : Nat) (addr : DWord) (r : Stopped) (capt : List Byte) : List Byte :=
  leBytes 4 (r.unit * 65536 + cause * 256) ++ leBytes 4 r.count ++ leBytes 8 s.clock.clk.toNat ++ leBytes 8 s.clock.time.toNat ++
  leBytes 8 r.last.toNat ++ leBytes 8 (if cause = 0x1A then addr.toNat else 0) ++ leBytes 8 (sub % 65536) ++ (capt ++ zeros 16).take 16

/-- Write records from the start of CSAVE; those that would pass its end are not written. -/
def writeRecords (s : State) (base len : Nat) : Nat → List (List Byte) → State
  | _, [] => s
  | o, r :: rs => if o + 64 ≤ len then writeRecords (storeHbm s (base + o) r) base len (o + 64) rs else s

/-- Fragments that stall for places of copies, builds and walks find those that have come free. -/
def wakeAllPlaces (s : State) : State :=
  let cores := ((Tbl.vals s.warps).map fun w => (w.ctl, w.core)).eraseDups
  let s := cores.foldl (fun s c => if c.1 then wakeCopySlots s true c.2 else wakeWalkRoom (wakeCopySlots s false c.2) c.2) s
  wakeBuildQueue (wakeBuildQueue s 0) 1

/-- Everything of a context is gone from the device: warps, commands, rows, launches, parks, fault messages. -/
def dropWork (s : State) (ctx : Nat) : State :=
  let gone (k : Nat) : Bool := match Tbl.find s.launches k with | some L => L.ctx == ctx | none => false
  { s with
    cgs := Tbl.keep s.cgs fun _ c => !gone c.launch, parts := Tbl.mapVals s.parts fun _ p => { p with intake := p.intake.filter fun k => !gone k },
    wgs := Tbl.keep s.wgs fun _ g => g.ctx != ctx, warps := Tbl.keep s.warps fun _ w => w.ctx != ctx,
    copies := Tbl.keep s.copies fun _ c => c.ctx != ctx, mops := Tbl.keep s.mops fun _ m => m.ctx != ctx,
    bins := Tbl.keep s.bins fun _ b => b.ctx != ctx, jobs := Tbl.keep s.jobs fun _ j => j.ctx != ctx,
    walks := Tbl.keep s.walks fun _ k => k.ctx != ctx, builds := Tbl.keep s.builds fun _ b => b.ctx != ctx,
    pix := Tbl.keep s.pix fun _ p => p.ctx != ctx, launches := Tbl.keep s.launches fun _ L => L.ctx != ctx,
    net := { s.net with reqs := Tbl.keep s.net.reqs fun _ r => r.ctx != ctx }, msgs := Tbl.keep s.msgs fun _ m => m.ctx != ctx,
    ctxs := Tbl.modify s.ctxs ctx fun c => { c with tq := [], parks := [] } }

/-- The context's work is discarded, and others find the room. -/
def discardWork (s : State) (ctx : Nat) : State := wakeAllPlaces (dropWork s ctx)

/-- A queue of a halted context stops with error 6 (R319, R342). -/
def Machine.Queue.haltWith (q : Queue) (cause : Nat) : Queue :=
  if q.used then { q with st := .halted, err := 6, esub := BitVec.ofNat 32 cause, run := none } else q

/-- Units of context a stop, records are written, and the pump house frees its resources. -/
def haltNow (s : State) (ctx : Nat) (c : Ctx) (h : Nat × Nat × DWord × Nat) : State :=
  let units := stoppedUnits s ctx
  let capt := match c.capture with
    | some bs => [stopBytes s h.1 h.2.1 h.2.2.1 { unit := 0xE000, count := 0, last := 0 } bs]
    | none => []
  let recs := units.map (fun r => stopBytes s h.1 h.2.1 h.2.2.1 r []) ++ capt
  let last := stopBytes s h.1 h.2.1 h.2.2.1 { unit := 0xF000, count := recs.length, last := 0 } []
  let s := discardWork s ctx
  let s := writeRecords s c.desc.csave c.desc.csavelen 0 (recs ++ [last])
  let s := { s with queues := Tbl.mapVals s.queues fun _ q => if q.owner == ctx then q.haltWith h.1 else q }
  let s := modCtx s ctx fun c => { c with halted := none, capture := none }
  let s := ctxEvent s ctx { kind := .halt, a := h.1, b := h.2.1 }
  raiseVec (modBoard s fun b => { b with nhalt := b.nhalt + 1 }) 16

def Machine.execHalt (s : State) : Host.Outcome State Fault Refusal :=
  .next (match Tbl.find s.ctxs s.ev.a with
    | none => s
    | some c =>
      match c.halted with
      | some h => haltNow s s.ev.a c h
      | none => s)

end Sys2Proof
end

