-- ==== Sys2Proof/Machine/Reach.lean ====
section
/-! DEFINITION. The quarter's choice (R25, R123, R293), the landing of accesses (R161, R358), and refresh windows (R53). -/

namespace Sys2Proof

open Machine

/-! ## Choosing a fragment (R25) -/

/-- The next instruction is `ncall`. -/
def nextIsNcall (s : State) (w : Warp) (f : Frag) : Bool :=
  match fetchAt s w f.pc with
  | .ncall _ => true
  | _ => false

/-- It may be chosen: its context runs, its CORE is not spent, its next instruction is no `ncall` while ROWS is spent, no fragment that its
`yield` lets go first is still ready, and no other fragment of its warp has a reach to go on with (R24, R158). -/
def choosable (s : State) (ready : List Choice) (c : Choice) : Bool :=
  mayBegin s c.w && !(budgetSpent s c.w.ctx c.w.cls 3 && nextIsNcall s c.w c.f) &&
  !(c.f.yield.any fun y => ready.any fun r => r.wid == y.1 && r.fid == y.2) &&
  (c.f.cont || !c.w.frags.any fun p => p.2.cont)

/-- Rank of rules 1 to 3. -/
def Choice.rank (c : Choice) : Nat :=
  if 8 ≤ c.f.starve then 0
  else match c.w.cls with
    | .h => 1
    | .d | .v => 2
    | _ => 3

/-- Rank first, then age, then fragment id. -/
def Choice.before (a b : Choice) : Bool :=
  if a.rank != b.rank then decide (a.rank < b.rank)
  else if a.w.age != b.w.age then decide (a.w.age < b.w.age)
  else decide (a.fid < b.fid)

def firstChoice : List Choice → Option Choice
  | [] => none
  | c :: cs => match firstChoice cs with
    | none => some c
    | some d => if d.before c then some d else some c

/-- The oldest warp of a quarter whose fragments are all held at join points and may go on. -/
def heldWarp (s : State) (ctl : Bool) (core quarter : Nat) : Option Nat :=
  (s.warps.foldl (fun (m : Option (Nat × Nat)) p =>
    if p.2.ctl == ctl && p.2.core == core && p.2.quarter == quarter && p.2.allHeld && mayBegin s p.2 then
      (match m with
       | some (a, _) => if p.2.age < a then some (p.2.age, p.1) else m
       | none => some (p.2.age, p.1))
    else m) none).map (·.2)

/-- Quarter c of core b, of the control cores when a is not 0, chooses between reaches. A merged fragment runs (Table 15.4), so held
fragments that found the slot taken merge first. DEDUCED (log 22). -/
def Machine.execReachSelect (s : State) : Host.Outcome State Fault Refusal :=
  let ctl := s.ev.a != 0
  .next (
    if slotHeld s ctl s.ev.b s.ev.c then s
    else match heldWarp s ctl s.ev.b s.ev.c with
      | some wid => joins s wid
      | none =>
        let ready := readyIn s ctl s.ev.b s.ev.c
        match firstChoice (ready.filter (choosable s ready)) with
        | some c => grant s ready c
        | none => s)

/-! ## Accesses complete (R161) -/

/-- What an access brings lands in the warp: vector registers below T, scalar registers by R11, tiles, accumulator tiles. A loaded tile is
0 outside its rows and columns (R191). -/
def Machine.Warp.land (w : Warp) (id : Nat) (a : Access) : Warp :=
  let w := a.sdst.foldl (fun w p => w.setSreg a.lanes p.1 p.2) w
  let w := a.accs.foldl (fun w c => w.setLive c true) w
  { w with
    vregs := a.vdst.foldl (fun t p => if p.1 < 96 * w.top then Tbl.write 0 t p.1 p.2 else t) w.vregs,
    tile := a.tdst.foldl (fun t p => Tbl.write 0 t p.1 p.2) (a.tiles.foldl clearTile w.tile), acc := a.adst.foldl (fun t p => Tbl.write 0 t p.1 p.2) w.acc,
    access := Tbl.del w.access id }

/-- An access that a walk, a sluice row or a pixel operation completes. -/
def ownedAccess (s : State) (wid id : Nat) : Bool :=
  (s.walks.any fun p => p.2.warp == wid && p.2.access == id) || (s.pix.any fun p => p.2.kind != 2 && p.2.warp == wid && p.2.access == id) ||
  (s.bins.any fun b => b.2.rows.any fun r => r.warp == wid && r.access == id) ||
  (s.jobs.any fun j => j.2.groups.any fun g => g.rows.any fun r => r.warp == wid && r.access == id)

/-- The end of an access of a warp: it lands, its lines are present, its token is free. -/
def landAccess (s : State) (wid id : Nat) : State :=
  match Tbl.find s.warps wid with
  | none => s
  | some w =>
    match Tbl.find w.access id with
    | none => s
    | some a =>
      let s := releaseLines (putWarp s wid (w.land id a)) w.wg a.lines
      let s := match a.tok with
        | some k => freeTok s wid k
        | none => reap s wid
      settleIfRetired w.alive s wid

/-- A request under a tag has ended. Of a halted context whose unit has stopped nothing completes (R319). -/
def endReq (s : State) (tag : Nat) (res : Except (Cause × Nat) (List Byte)) : State :=
  match Tbl.find s.net.reqs tag with
  | none => s
  | some r =>
    let s := modNet s fun n => { n with reqs := Tbl.del n.reqs tag }
    if ctxHalted s r.ctx (if r.copy.isSome then 4200 else 400) then s
    else match r.copy, r.lane with
    | some id, _ => copyReqEnded s id r res
    | none, some l => reqEnded s r l res
    | none, none => scalarEnded s r res

/-- A request to the host is performed there and completes. -/
def hostDone (s : State) (tag : Nat) : State :=
  match Tbl.find s.net.reqs tag with
  | none => s
  | some r =>
    if !r.host then s
    else if r.kind = 1 then endReq s tag (.ok (Memory.bytes s.host (offOf r.addr) r.bytes))
    else endReq { s with host := Memory.stores s.host (offOf r.addr) r.data } tag (.ok [])

/-- A request to the host ends in an unsupported-request or completer-abort status (R358). -/
def hostRefused (s : State) (tag : Nat) : State :=
  match Tbl.find s.net.reqs tag with
  | none => s
  | some r => if r.host then endReq s tag (.error (.prot, 0)) else s

/-- Access b of warp a completes (c = 0); the host completes request a (c = 1) or refuses it (c = 2). -/
def Machine.execAccessComplete (s : State) : Host.Outcome State Fault Refusal :=
  .next (match s.ev.c with
    | 0 => (match Tbl.find s.warps s.ev.a with
      | some w => if ownedAccess s s.ev.a s.ev.b || ctxHalted s w.ctx 400 then s else landAccess s s.ev.a s.ev.b
      | none => s)
    | 1 => hostDone s s.ev.a
    | _ => hostRefused s s.ev.a)

/-! ## Refresh windows (R53) -/

/-- The window of half a is in progress, or over, as the schedule has it at this CLK. -/
def refreshNow (s : State) (half : Nat) : State :=
  let b := inWindowAt (clkNat s) half
  { s with clock := if half = 0 then { s.clock with win0 := b } else { s.clock with win1 := b } }

def Machine.execRefreshWindowBegin (s : State) : Host.Outcome State Fault Refusal :=
  .next (if inWindowAt (clkNat s) s.ev.a then refreshNow s s.ev.a else s)

def Machine.execRefreshWindowEnd (s : State) : Host.Outcome State Fault Refusal :=
  .next (if inWindowAt (clkNat s) s.ev.a then s else refreshNow s s.ev.a)

end Sys2Proof
end

