-- ==== Sys2Proof/Machine/Spawn.lean ====
section
/-! DEFINITION. Warps and workgroups as they begin: launch state (R54, R55, R262) and the room they need (R32, R33, R376). -/

namespace Sys2Proof

open Machine

/-- A live fragment 0 at its first instruction. -/
def Machine.Frag.first (lanes : LaneMask) (pc : DWord) (st : FragSt) : Frag :=
  { st := st, cause := .none, sub := 0, s := 0, j := 0, fw := 0, pc := pc, pidx := 0, tokw := 0, frame := 0, lanes := lanes, wkind := .none,
    warg := 0, latches := [], reach := 0, starve := 0, yield := [], skip := false, acq := false, replay := none, hidden := [], hidAct := 0,
    due := false, cont := false, tokHeld := none, parkClk := 0, brk := none, wait := .empty }

/-- NFLUSH as stored: 0 gives 2048 at launch, below 64 gives 64 (Table 14.7). -/
def launchNflush (n : Nat) : Nat := if n = 0 then 2048 else if n < 64 then 64 else n

/-- PCRs at launch (Table 02.4). -/
def Machine.Pcrs.launch (r : LaunchRec) : Pcrs :=
  { mode := 0x10, rlab := r.rlab, dtl := BitVec.ofNat 32 r.dtl, wtim := 0, wtcmp := 0, nflush := BitVec.ofNat 32 (launchNflush r.nflush),
    seed := r.seed, mbu := 0, tsh := [], clkHi := 0, timeHi := 0 }

/-- Local id word of a local linear id (R55). -/
def localId (wx wy i : Nat) : Nat := i % wx + i / wx % wy * 2 ^ 10 + i / (wx * wy) * 2 ^ 20

/-- m0 at launch of warp `w` of a workgroup of `n` lanes. -/
def launchMask (n w : Nat) : LaneMask := maskOf fun l => decide (96 * w + l < n)

/-- Scalar registers written in order. -/
def regList : List (Nat × Nat) → Tbl Word
  | [] => []
  | (k, v) :: t => Tbl.write 0 (regList t) k (BitVec.ofNat 32 v)

/-- v0: the local id of every alive lane. -/
def launchV0 (wx wy n w : Nat) : Tbl Word :=
  (List.range 96).foldl (fun t l => if 96 * w + l < n then Tbl.write 0 t (vkey 0 l) (BitVec.ofNat 32 (localId wx wy (96 * w + l))) else t) []

/-- A warp of a grid or handler launch as it begins (R54). -/
def newWarp (L : Launch) (lid gid : Nat) (wid20 : BitVec 20) (index x y z linear : Nat) (core quarter age : Nat) : Warp :=
  let r := L.lrec
  let n := r.wx * r.wy * r.wz
  let m := launchMask n index
  { warpId := wid20, ctx := L.ctx, launch := lid, wg := gid, index := index, cls := L.cls, level := L.level, ctl := L.ctl, core := core,
    quarter := quarter, age := age, resid := .resident,
    sregs := regList [(0, (maskWord m 0).toNat), (1, (maskWord m 1).toNat), (2, (maskWord m 2).toNat), (4, r.karg.toNat % 2 ^ 32),
      (5, r.karg.toNat / 2 ^ 32), (6, linear), (7, index), (8, x), (9, y), (10, z)],
    vregs := launchV0 r.wx r.wy n index, base := 32 * r.base32, top := 32 * r.base32, lanes0 := m, depth := [],
    frags := [(0, .first m (r.kstart + BitVec.ofNat 64 (4 * r.entry)) .ready)], gens := [], tokens := [], access := [], errs := [],
    pcr := .launch r, srs := [], prof := L.prof, tiles := r.tiles, accs := r.accs, tile := [], acc := [], live := 0, timer := false,
    lasterr := 0, tqLast := none, phases := [], ended := false, kept := 0, restart := false, landDue := false }

end Sys2Proof
end

