-- ==== Sys2Proof/Machine/Sched.lean ====
section
/-! DEFINITION. The scheduler: room on cores and placement (R32, R33, R262, R291, R376), the dispatcher, handler launches (R310, R377),
budget periods (R292, R293), eviction (R297), pre-emption, saves and restore (R298 to R303, R204), and the end of launches (R289). -/

namespace Sys2Proof

open Machine

/-! ## Room (R32, R376) -/

/-- Resources that a workgroup takes of a core. -/
structure Room where
  warps : Nat
  regs  : Nat
  lines : Nat
  slots : Nat
  tiles : Nat
  accs  : Nat
  /-- Entries of the fragment table (R17). -/
  ents  : Nat
  deriving DecidableEq, Repr

def Room.zero : Room := { warps := 0, regs := 0, lines := 0, slots := 0, tiles := 0, accs := 0, ents := 0 }

def Room.plus (a b : Room) : Room :=
  { warps := a.warps + b.warps, regs := a.regs + b.regs, lines := a.lines + b.lines, slots := a.slots + b.slots,
    tiles := a.tiles + b.tiles, accs := a.accs + b.accs, ents := a.ents + b.ents }

def Room.within (a b : Room) : Bool :=
  decide (a.warps ≤ b.warps) && decide (a.regs ≤ b.regs) && decide (a.lines ≤ b.lines) && decide (a.slots ≤ b.slots) &&
  decide (a.tiles ≤ b.tiles) && decide (a.accs ≤ b.accs) && decide (a.ents ≤ b.ents)

/-- What a core has (Table 01.4). -/
def Room.ofCore (ctl : Bool) : Room :=
  if ctl then { warps := 8, regs := 2048, lines := 1024, slots := 16, tiles := 0, accs := 0, ents := coreEntries ctl }
  else { warps := 32, regs := 8192, lines := 4096, slots := 16, tiles := 32, accs := 48, ents := coreEntries ctl }

/-- Warps of a workgroup. -/
def Machine.LaunchRec.warps (r : LaunchRec) : Nat := (r.wx * r.wy * r.wz + 95) / 96

/-- What a workgroup of a record needs with `n` warps. -/
def Machine.LaunchRec.room (r : LaunchRec) (n : Nat) : Room :=
  { warps := n, regs := 32 * r.base32 * n + 64 * r.pool, lines := r.scrl, slots := r.bars, tiles := r.tiles * n, accs := r.accs * n, ents := n }

/-- Entries of the fragment table that a workgroup that has begun takes (R17, R122). -/
def wgEntries (s : State) (g : Wg) : Nat :=
  (g.warps.filterMap (Tbl.find s.warps)).foldl (fun n w => n + w.frags.length + w.kept) 0

/-- What a workgroup that has begun takes: its warps give their registers and tiles back as they end (R122). -/
def wgRoom (s : State) (g : Wg) : Room :=
  match Tbl.find s.launches g.launch with
  | some L => { L.lrec.room g.warps.length with ents := wgEntries s g }
  | none => .zero

/-- What is taken of a core; a workgroup that is being saved still takes its room (R299), unless `gone` holds of it. -/
def takenRoom (s : State) (ctl : Bool) (core : Nat) (gone : Wg → Bool) : Room :=
  s.wgs.foldl (fun r p =>
    if p.2.ctl == ctl && p.2.core == core && p.2.resid != .saved && !gone p.2 then r.plus (wgRoom s p.2) else r) .zero

/-- A need fits a core. -/
def fits (s : State) (ctl : Bool) (core : Nat) (need : Room) (gone : Wg → Bool) : Bool :=
  ((takenRoom s ctl core gone).plus need).within (.ofCore ctl)

/-- WAYS of a residency range (Table 09.2). -/
def resWays (w : DWord) : Nat := w.toNat / 2 ^ 44 % 16

/-- WAYS of the residency ranges of a record; a range of no length is unused. -/
def Machine.LaunchRec.ways (r : LaunchRec) : Nat := r.res.foldl (fun n p => if p.2.toNat % 2 ^ 32 = 0 then n else n + resWays p.2) 0

/-- The reservations of contexts resident on a half stay at or below 12 ways with work of one more launch there. A context's reservation is
the largest among its launches there. DESIGN CHOICE (log 69). -/
def waysFit (s : State) (half ctx ways : Nat) (gone : Wg → Bool) : Bool :=
  let here : Tbl Nat := s.wgs.foldl (fun t p =>
    if halfOf p.2.ctl p.2.core == half && p.2.resid != .saved && !gone p.2 then
      match Tbl.find s.launches p.2.launch with
      | some L => Tbl.write 0 t p.2.ctx (max (Tbl.read 0 t p.2.ctx) L.lrec.ways)
      | none => t
    else t) []
  let all := Tbl.write 0 here ctx (max (Tbl.read 0 here ctx) ways)
  decide (all.foldl (fun n p => n + p.2) 0 ≤ 12)

/-- Resident warps of a core, and of one quarter. -/
def warpsOn (s : State) (ctl : Bool) (core : Nat) : Nat :=
  Tbl.count s.warps fun _ w => w.ctl == ctl && w.core == core && w.resid != .saved

def warpsIn (s : State) (ctl : Bool) (core quarter : Nat) : Nat :=
  Tbl.count s.warps fun _ w => w.ctl == ctl && w.core == core && w.quarter == quarter && w.resid != .saved

/-- The first of a list with the least measure. -/
def leastOf (f : Nat → Nat) : List Nat → Option Nat
  | [] => none
  | k :: ks => match leastOf f ks with
    | none => some k
    | some j => if f k ≤ f j then some k else some j

/-- The core for a need of a launch: fewest resident warps, then the lowest number (R32, R219). -/
def chooseCore (s : State) (L : Launch) (cores : List Nat) (need : Room) (gone : Wg → Bool) : Option Nat :=
  leastOf (warpsOn s L.ctl) (cores.filter fun c => fits s L.ctl c need gone && waysFit s (halfOf L.ctl c) L.ctx L.lrec.ways gone)

/-- The quarter for a warp. -/
def chooseQuarter (s : State) (ctl : Bool) (core : Nat) : Nat :=
  (leastOf (warpsIn s ctl core) (if ctl then [0] else [0, 1, 2, 3])).getD 0

/-! ## Where a launch may be placed (R259, R261, R284, R310) -/

/-- Control cores of the halves that hold a partition's clusters. -/
def partCtl (s : State) (part : Nat) : List Nat :=
  let cl := partClusters s part
  (List.range 32).filter fun k => s.board.cfg.ccmask.getLsbD k && cl.any fun c => c / 6 == k / 16

/-- Sets of cores in the order in which they are tried: a cluster at a time for a cluster group (R33), else all at once. -/
def placeSets (s : State) (part : Nat) (L : Launch) : List (List Nat) :=
  if L.ctl then [partCtl s part]
  else
    let cl := (partClusters s part).filter fun c => match L.cluster with | some k => k == c | none => true
    let per := cl.map fun c => (List.range 8).map fun i => 8 * c + i
    if L.lrec.cgwg = 0 then [per.flatten] else per

/-! ## Workgroups of a launch as they begin -/

/-- Workgroups of a launch; a graph launch has none of its own. -/
def Machine.Launch.total (L : Launch) : Nat := if L.lrec.nnodes != 0 then 0 else L.lrec.gx * L.lrec.gy * L.lrec.gz

/-- Record addresses of a consumer launch. -/
def recordAddrs (s : State) (L : Launch) : List DWord :=
  match L.graph.bind (Tbl.find s.launches) with
  | some G => L.records.map G.slotAddr
  | none => []

/-- The node of a consumer launch takes cell records. -/
def cellLaunch (s : State) (L : Launch) : Bool :=
  match (L.graph.bind (Tbl.find s.launches)).bind fun G => Tbl.find G.nodes L.node with
  | some n => n.cell
  | none => false

/-- A consumer warp as it begins (Table 11.2). -/
def consumerWarp (s : State) (L : Launch) (w : Warp) : Warp :=
  let as := recordAddrs s L
  let c := as.length
  let cell := cellLaunch s L
  let m := if cell then launchMask 96 0 else launchMask c 0
  let a0 := (as.headD 0).toNat
  let pair (t : Tbl Word) (l : Nat) (a : DWord) : Tbl Word :=
    Tbl.write 0 (Tbl.write 0 t (vkey 2 l) (a.setWidth 32)) (vkey 3 l) (a.extractLsb' 32 32)
  let vs := (List.range 96).foldl (fun t l => if m.getLsbD l then Tbl.write 0 t (vkey 0 l) (BitVec.ofNat 32 l) else t) []
  { w with
    sregs := regList [(0, (maskWord m 0).toNat), (1, (maskWord m 1).toNat), (2, (maskWord m 2).toNat), (4, L.lrec.karg.toNat % 2 ^ 32),
      (5, L.lrec.karg.toNat / 2 ^ 32), (6, L.seqno), (12, c), (14, a0 % 2 ^ 32), (15, a0 / 2 ^ 32)],
    vregs := if cell then (List.range 96).foldl (fun t l => pair t l (as.headD 0)) vs
      else as.zipIdx.foldl (fun t p => pair t p.2 p.1) vs,
    lanes0 := m, frags := [(0, .first m (L.lrec.kstart + BitVec.ofNat 64 (4 * L.lrec.entry)) .ready)] }

/-- The next warp number of a context (R312). -/
def nextWarpId (s : State) (ctx : Nat) : BitVec 20 × State :=
  match Tbl.find s.ctxs ctx with
  | some c => (BitVec.ofNat 20 c.nextWarp, modCtx s ctx fun c => { c with nextWarp := c.nextWarp + 1 })
  | none => (0, s)

/-- Warps of a workgroup begin, in order of index. -/
def startWarps (L : Launch) (lid gid x y z linear core : Nat) : State → List Nat → State
  | s, [] => s
  | s, i :: is =>
    let q := nextWarpId s L.ctx
    let k := fresh q.2
    let w := newWarp L lid gid q.1 i x y z linear core (chooseQuarter s L.ctl core) k.1
    let w := if L.graph.isSome then consumerWarp s L w else w
    let s := putWarp (modWg k.2 gid fun g => { g with warps := g.warps ++ [k.1] }) k.1 w
    startWarps L lid gid x y z linear core s is

/-- One workgroup begins on a core. -/
def startWg (s : State) (lid : Nat) (L : Launch) (cg linear core : Nat) : State :=
  let r := L.lrec
  let x := linear % max r.gx 1
  let y := linear / max r.gx 1 % max r.gy 1
  let z := linear / (max r.gx 1 * max r.gy 1)
  let q := fresh s
  let g : Wg :=
    { ctx := L.ctx, launch := lid, linear := linear, x := x, y := y, z := z, cg := cg, cls := L.cls, ctl := L.ctl, core := core,
      resid := .resident, warps := [], scratch := [], lines := r.scrl, absent := [], pool := r.pool, free := r.pool, slots := r.bars,
      rounds := [], locks := [], idle := none }
  let s := { q.2 with wgs := Tbl.put q.2.wgs q.1 g, cgs := Tbl.modify q.2.cgs cg fun c => { c with wgs := c.wgs ++ [q.1] } }
  startWarps L lid q.1 x y z linear core s (List.range r.warps)

/-! ## Items: a workgroup or cluster group to place -/

/-- What a launch places next: a saved cluster group, or its next workgroups. Every workgroup belongs to a cluster group, of one where
the record declares none. -/
inductive Item where
  | saved (cg : Nat)
  | new (first count : Nat)
  deriving DecidableEq, Repr

/-- Every workgroup of a cluster group is saved. -/
def cgSaved (s : State) (c : Cg) : Bool :=
  !c.wgs.isEmpty && c.wgs.all fun k => match Tbl.find s.wgs k with | some g => g.resid == .saved | none => true

/-- Saved work first, then the next in order (R33, R297, R302). -/
def nextItem (s : State) (lid : Nat) (L : Launch) : Option Item :=
  match Tbl.firstKey s.cgs fun _ c => c.launch == lid && cgSaved s c with
  | some k => some (.saved k)
  | none => if L.nextWg < L.total then some (.new L.nextWg (max L.lrec.cgwg 1)) else none

/-- A saved workgroup may be placed again. -/
def restoreNeed (s : State) (gid : Nat) : Room :=
  match Tbl.find s.wgs gid with
  | some g => wgRoom s g
  | none => .zero

/-! ### Restore (R302, R204, R254, R328) -/

/-- What stands for the pages of a region that is locked again: each page that is mapped now is locked, once; one that is not stays invalid
until it is met (R328, R330). -/
def pagesAgain (s : State) (ctx : Nat) (r : LockRegion) : List (Nat × Nat × LockSt) :=
  r.pages.foldl (fun t p =>
    let q := pagesOf s ctx (p.2.1 / 65536 + 1) p.1 (p.1 + p.2.1)
    let now := if q.2.isSome then [(p.1, p.2.1, LockSt.invalid)] else q.1
    t ++ now.filter fun n => !t.any fun m => m.1 == n.1) []

/-- The pump house locks the regions of a workgroup again, each that its cluster has entries for (R328). -/
def relock (s : State) (gid tlb ctx : Nat) : List LockRegion → List LockRegion → State
  | done, [] => modWg s gid fun g => { g with locks := done }
  | done, r :: rs =>
    let cap := (match Tbl.find s.ctxs ctx with | some c => c.desc.lockcap | none => 0)
    let s' := modWg s gid fun g => { g with locks := done }
    let r' : LockRegion := { r with pages := pagesAgain s ctx r }
    if lockedIn s' tlb (some ctx) + r'.held ≤ cap && lockedIn s' tlb none + r'.held ≤ 256 then relock s gid tlb ctx (done ++ [r']) rs
    else relock s gid tlb ctx (done ++ [{ r with pages := r.pages.map fun p => (p.1, p.2.1, .lost) }]) rs

/-- A saved warp is resident on a core, with the walks and copies that it issued. -/
def restoreWarp (s : State) (core wid : Nat) : State :=
  match Tbl.find s.warps wid with
  | none => s
  | some w =>
    let s := putWarp s wid
      { w with core := core, quarter := chooseQuarter s w.ctl core, resid := .resident,
               frags := Tbl.mapVals w.frags fun _ f => { f with starve := 0 } }
    let s := (s.walks.filter fun p => p.2.warp == wid && p.2.resid == .saved).foldl (fun s p => restoreWalk s p.1 core) s
    { s with copies := Tbl.mapVals s.copies fun _ c => if c.warp == wid then { c with core := core, resid := .resident } else c }

/-- Objects on which fragments of a workgroup wait in `bwait`. -/
def bwaitObjects (s : State) (gid : Nat) : List Nat :=
  match Tbl.find s.wgs gid with
  | none => []
  | some g => (g.warps.flatMap fun k => match Tbl.find s.warps k with
    | none => []
    | some w => w.frags.filterMap fun p => if p.2.st == .waiting && p.2.wkind == .bwait then some p.2.warg.toNat else none).eraseDups

/-- Each wait of a restored workgroup evaluates its condition again, and each stall (R182, R264, R297, R302): barrier objects, lines, tokens,
the pool, the catchment, and places for copies, builds and walks. -/
def reissueWaits (s : State) (gid : Nat) : State :=
  match Tbl.find s.wgs gid with
  | none => s
  | some g =>
    let s := (bwaitObjects s gid).foldl (fun s o => wakeObject s gid o) (wakeLines s gid)
    let s := g.warps.foldl wakeTokens s
    let s := poolSettle (wakeWalkRoom (wakeBuildQueue (wakeCopySlots s g.ctl g.core) (halfOf g.ctl g.core)) g.core) gid
    match (Tbl.find s.launches g.launch).bind (·.graph) with
    | some gl => catchSettle s gl
    | none => s

/-- A saved workgroup is placed again. -/
def restoreWg (s : State) (core gid : Nat) : State :=
  match Tbl.find s.wgs gid with
  | none => s
  | some g =>
    let s := { s with wgs := Tbl.put s.wgs gid { g with core := core, resid := .resident, locks := [], idle := none } }
    let s := resumeBuilds (g.warps.foldl (fun s k => restoreWarp s core k) s) g.ctx
    reissueWaits (relock s gid (tlbOf g.ctl core) g.ctx [] g.locks) gid

/-! ### Placement -/

/-- Saved workgroups, one after another, on cores of a set. -/
def placeSaved (L : Launch) (cores : List Nat) (gone : Wg → Bool) : State → List Nat → Option State
  | s, [] => some s
  | s, g :: gs =>
    match chooseCore s L cores (restoreNeed s g) gone with
    | none => none
    | some c => placeSaved L cores gone (restoreWg s c g) gs

/-- New workgroups of a cluster group, in order. -/
def placeNew (lid : Nat) (L : Launch) (cores : List Nat) (gone : Wg → Bool) (cg : Nat) : State → List Nat → Option State
  | s, [] => some s
  | s, i :: is =>
    match chooseCore s L cores (L.lrec.room L.lrec.warps) gone with
    | none => none
    | some c => placeNew lid L cores gone cg (startWg s lid L cg i c) is

/-- The cluster that a set of cores lies in. -/
def setCluster (cores : List Nat) : Nat := clusterOf (cores.headD 0)

/-- Place an item on one set of cores. -/
def placeOn (s : State) (lid : Nat) (L : Launch) (item : Item) (gone : Wg → Bool) (cores : List Nat) : Option State :=
  match item with
  | .saved k =>
    (match Tbl.find s.cgs k with
     | none => none
     | some c =>
       placeSaved L cores gone { s with cgs := Tbl.put s.cgs k { c with cluster := setCluster cores } } c.wgs)
  | .new first n =>
    let q := fresh s
    let s := { q.2 with cgs := Tbl.put q.2.cgs q.1 { launch := lid, cluster := setCluster cores, wgs := [], rounds := [] } }
    placeNew lid L cores gone q.1 s ((List.range n).map fun i => first + i)

def placeFirst (s : State) (lid : Nat) (L : Launch) (item : Item) (gone : Wg → Bool) : List (List Nat) → Option State
  | [] => none
  | cs :: t => match placeOn s lid L item gone cs with
    | some s' => some s'
    | none => placeFirst s lid L item gone t

/-- Place an item in a partition, as if the workgroups of `gone` took no room. -/
def place (s : State) (part lid : Nat) (L : Launch) (item : Item) (gone : Wg → Bool) : Option State :=
  placeFirst s lid L item gone (placeSets s part L)

/-! ## The order of launches (R290, R291, R377) -/

/-- Rank of a class: H, D, V, G, L, B. -/
def Machine.Cls.rank : Cls → Nat
  | .h => 0
  | .d => 1
  | .v => 2
  | .g => 3
  | .l => 4
  | .b => 5

/-- A launch with its number and that of its queue; a consumer launch is of its graph's queue (R261, R291). -/
structure Waiter where
  id    : Nat
  L     : Launch
  queue : Nat
  deriving DecidableEq, Repr

def launchWaiter (s : State) (id : Nat) (L : Launch) : Waiter :=
  { id := id, L := L, queue := ((match L.graph.bind (Tbl.find s.launches) with | some G => G.queue | none => L.queue)).getD 0 }

/-- Class order, then earliest deadline and lower queue number for D and V, and age for the others; the age of a handler launch is that of the
park it serves. -/
def Waiter.before (a b : Waiter) : Bool :=
  if a.L.cls.rank != b.L.cls.rank then decide (a.L.cls.rank < b.L.cls.rank)
  else if a.L.cls == .d || a.L.cls == .v then
    if a.L.deadline != b.L.deadline then decide (a.L.deadline.toNat < b.L.deadline.toNat)
    else if a.queue != b.queue then decide (a.queue < b.queue)
    else decide (a.id < b.id)
  else if a.L.age != b.L.age then decide (a.L.age < b.L.age)
  else decide (a.id < b.id)

def insertCand (c : Waiter) : List Waiter → List Waiter
  | [] => [c]
  | d :: ds => if c.before d then c :: d :: ds else d :: insertCand c ds

def partOf (s : State) (ctx : Nat) : Option Nat := (Tbl.find s.ctxs ctx).map (·.desc.part)

/-- A context holds a grant in the weight store of a half. -/
def holdsGrant (s : State) (ctx half : Nat) : Bool :=
  match Tbl.find s.ctxs ctx with
  | some c => decide (0 < if half = 0 then c.desc.wslen0 else c.desc.wslen1)
  | none => false

/-- Half of the weight store that a picked FILL writes (R341). -/
def fillHalves (s : State) : List Nat :=
  s.queues.filterMap fun p => match p.2.run with
    | some (.fill h _ _ _) => some h
    | _ => none

/-- A launch has started: its first workgroup, or the first consumer of its graph, has been placed. -/
def Machine.Launch.started (L : Launch) : Bool := decide (0 < L.nextWg)

/-- A picked FILL holds a launch back that has not started and whose context holds a grant on that half (R341). -/
def heldByFill (s : State) (L : Launch) : Bool :=
  let began := L.started || (match L.graph.bind (Tbl.find s.launches) with | some G => G.started | none => false)
  !began && (fillHalves s).any (holdsGrant s L.ctx)

/-- An earlier consumer launch of the same node still waits (R261). -/
def behindSibling (s : State) (L : Launch) : Bool :=
  L.graph.isSome && s.launches.any fun p =>
    p.2.graph == L.graph && p.2.node == L.node && decide (p.2.seqno < L.seqno) && p.2.nextWg == 0

/-- A handler warp of a context is saved: it is restored before the context's other work (R377). -/
def handlerSaved (s : State) (ctx : Nat) : Bool := s.wgs.any fun p => p.2.ctx == ctx && p.2.cls == .h && p.2.resid == .saved

/-- Launches of a partition that have something to place, in order. -/
def waiting (s : State) (part : Nat) : List (Waiter × Item) :=
  let cs := s.launches.foldl (fun t p => insertCand (launchWaiter s p.1 p.2) t) []
  cs.filterMap fun c =>
    if partOf s c.L.ctx == some part && !ctxHalted s c.L.ctx 0 then
      match nextItem s c.id c.L with
      | some (.saved k) => if c.L.cls != .h && handlerSaved s c.L.ctx then none else some (c, .saved k)
      | some (.new i n) => if heldByFill s c.L || behindSibling s c.L then none else some (c, .new i n)
      | none => none
    else none

/-- The first that can be placed, and the state with it placed; one that fits nowhere blocks its own class only. -/
def dispatchFirst (s : State) (part : Nat) : List Cls → List (Waiter × Item) → Option (Waiter × Item × State)
  | _, [] => none
  | blocked, (c, i) :: t =>
    if blocked.contains c.L.cls then dispatchFirst s part blocked t
    else match place s part c.id c.L i (fun _ => false) with
      | some s' => some (c, i, s')
      | none => dispatchFirst s part (c.L.cls :: blocked) t

/-- A launch has placed new workgroups: the next in order, and at its last it leaves the intake (R339). -/
def placedNew (s : State) (part lid n : Nat) : State :=
  let s := modLaunch s lid fun L => { L with nextWg := L.nextWg + n }
  match Tbl.find s.launches lid with
  | none => s
  | some L =>
    let s := match L.graph with
      | some gl => modLaunch s gl fun G => { G with nextWg := max G.nextWg 1 }
      | none => s
    let out := L.graph.getD lid
    if L.total ≤ L.nextWg then { s with parts := Tbl.modify s.parts part fun p => { p with intake := p.intake.filter (· != out) } } else s

/-- The dispatcher of partition a places the next workgroup or cluster group, when it is a new one. -/
def Machine.execDispatch (s : State) : Host.Outcome State Fault Refusal :=
  .next (match dispatchFirst s s.ev.a [] (waiting s s.ev.a) with
    | some (c, .new _ n, s') => placedNew s' s.ev.a c.id n
    | _ => s)

/-- Pre-empted or evicted work of partition a is placed again, when it stands first. -/
def Machine.execRestore (s : State) : Host.Outcome State Fault Refusal :=
  .next (match dispatchFirst s s.ev.a [] (waiting s s.ev.a) with
    | some (_, .saved _, s') => s'
    | _ => s)

/-- Where a warp restarts: kernel start + 4 × RLAB. -/
def restartPc (s : State) (w : Warp) : DWord :=
  (match Tbl.find s.launches w.launch with | some L => L.lrec.kstart | none => 0) + BitVec.ofNat 64 (4 * w.pcr.rlab.toNat)

/-- The instruction at which a warp restarts is not `land` (R48, R205). It is looked at when it is to execute, and a page that is absent is
served before. DEDUCED (log 70). -/
def landMissing (s : State) (w : Warp) (f : Frag) : Bool :=
  w.landDue && !(f.due && w.timer) && f.pc == restartPc s w &&
  match readGranule s w f.pc with
  | .ok g => !(g == 0x00010000 || g == 0x20010000)
  | .error _ => false

/-- LAND at the point of restart. -/
def landTrap (s : State) (wid fid : Nat) (w : Warp) (f : Frag) : State :=
  takeTrap (focusFrag s wid fid) wid fid (fetchAt s w f.pc) .land 0 (w.act f none) [] 0 false

/-- The check is over once the instruction can be read, or the fragment goes on elsewhere. -/
def landSeen (s : State) (wid : Nat) (w : Warp) (f : Frag) : State :=
  if w.landDue && !(f.due && w.timer) && (f.pc != restartPc s w || (readGranule s w f.pc).isOk) then modWarp s wid fun w => { w with landDue := false }
  else s

/-! ## Handler launches (R310, R377) -/

/-- The launch of a handler warp from the kept record. -/
def handlerLaunch (ctx age : Nat) (r : LaunchRec) (k : List WSet × List (Option WalkProg) × Tbl Word × List (Option Target)) : Launch :=
  { queue := none, ctx := ctx, cls := .h, level := .h, ctl := true, deadline := 0, age := age, lrec := r, wsets := k.1, walks := k.2.1,
    prof := k.2.2.1, targets := k.2.2.2, pins := [], nextWg := 0, taken := [], graph := none, node := 0, seqno := 0, records := [],
    cluster := none, nodes := [], slots := [], slotQ := 0, ticket := [], retired := [] }

/-- The oldest park of a trap queue: its CLK (R377). -/
def oldestPark (s : State) (c : Ctx) : Nat :=
  match c.tq with
  | (wid, fid) :: _ => (match findFrag s wid fid with | some (_, f) => f.parkClk.toNat | none => clkNat s)
  | [] => clkNat s

/-- The pump house launches a handler warp for context a: its trap queue is not empty and it has none. -/
def Machine.execHandlerLaunch (s : State) : Host.Outcome State Fault Refusal :=
  .next (match Tbl.find s.ctxs s.ev.a with
    | none => s
    | some c =>
      match c.handler with
      | none => s
      | some r =>
        if c.tq.isEmpty || c.halted.isSome || (s.launches.any fun p => p.2.ctx == s.ev.a && p.2.level == .h) then s
        else
          let q := fresh s
          { q.2 with launches := Tbl.put q.2.launches q.1 (handlerLaunch s.ev.a (oldestPark s c) r c.hkeep) })

/-! ## Budgets (R292, R293, R283) -/

/-- A budget period begins: counters restart at 0, with what the new period has been charged already, and descriptors set on live contexts take
effect (R283, R293). -/
def Machine.execBudgetPeriod (s : State) : Host.Outcome State Fault Refusal :=
  .next (if clkNat s / 2100000 ≤ s.period then s
    else
      { s with
        period := clkNat s / 2100000,
        ctxs := Tbl.mapVals s.ctxs fun _ c => 
          { c with spent := [], charged := if c.later.1 = clkNat s / 2100000 then c.later.2 else [], later := (0, []), desc := c.pending.getD c.desc,
                   pending := none } })

/-- Charges are collected and from now on enforced. -/
def Machine.execBudgetCollect (s : State) : Host.Outcome State Fault Refusal :=
  .next { s with
    ctxs := Tbl.mapVals s.ctxs fun _ c =>
      { c with spent := c.charged.foldl (fun t p => Tbl.write 0 t p.1 (Tbl.read 0 t p.1 + p.2)) c.spent, charged := [] } }

/-! ## Stopping work (R299, R204, R214, R254) -/

/-- A warp is restartable at a pre-emption (R204). -/
def Machine.Warp.restartable (s : State) (w : Warp) : Bool :=
  match Tbl.find s.launches w.launch, w.frags with
  | some L, [(_, f)] =>
    L.lrec.rdisc && w.pcr.rlab != 0 && f.lanes &&& w.alive == w.alive && f.st != .parked && (w.alv f &&& ~~~w.level0) == 0
  | _, _ => false

/-- A fragment leaves its slot at an instruction boundary; its reach goes on later as the same (R24, R299, Table 15.4). One that stalls for
frames in its slot stays stalled. -/
def Machine.Frag.pause (f : Frag) : Frag :=
  if f.st == .running && f.wkind != .peer then { f with st := .ready, wkind := .none, cont := true }
  else if f.holdsSlot && f.st == .stalled then { f with cont := true, wait := { f.wait with slotless := true } }
  else f

/-- Insert a command by its order of issue. -/
def insertMop (m : Nat × MOp) : List (Nat × MOp) → List (Nat × MOp)
  | [] => [m]
  | k :: ks => if m.2.order < k.2.order then m :: k :: ks else k :: insertMop m ks

/-- The array completes a command: its charge, if it has not started, and its effect. -/
def finishMop (s0 : State) (p : Nat × MOp) : State :=
  match Tbl.find s0.warps p.2.warp with
  | none => s0
  | some w =>
    let s := mbuRoll s0
    let u := mopCharge w p.2
    let s := if p.2.running then s
      else modWarp (chargeStart s p.2.core (reqWarp p.2.core p.2.warp) p.2.ctx p.2.cls u) p.2.warp fun w =>
        { w with pcr := { w.pcr with mbu := w.pcr.mbu + BitVec.ofNat 32 u } }
    modWarp { s with mops := Tbl.del s.mops p.1 } p.2.warp fun w => mopApply w p.2

/-- The matrix commands of a warp are completed. -/
def finishMops (s : State) (wid : Nat) : State :=
  ((s.mops.filter fun p => p.2.warp == wid).foldl (fun t p => insertMop p t) []).foldl finishMop s

/-- A restartable warp loses its accumulators and the commands that write them, chained ones too. A `cld` in flight brings nothing: its words
would land in a discarded tile. DESIGN CHOICE (log 71). -/
def dropMops (s : State) (wid : Nat) : State :=
  let s := { s with mops := Tbl.keep s.mops fun _ m => m.warp != wid,
                    copies := Tbl.mapVals s.copies fun _ c => if c.warp == wid then { c with chain := none } else c }
  modWarp s wid fun w => { w with acc := [], live := 0, access := Tbl.mapVals w.access fun _ a => { a with accs := [], adst := [] } }

/-- One warp stops: its quarter, its matrix commands, its copies and walks. What it may lose is settled when it is saved. -/
def stopWarp (s : State) (discard : Bool) (wid : Nat) : State :=
  match Tbl.find s.warps wid with
  | none => s
  | some w =>
    let re := discard && w.restartable s
    let s := if re then s else finishMops s wid
    let s := modWarp s wid fun w => { w with resid := .leaving, restart := re, frags := Tbl.mapVals w.frags fun _ f => f.pause }
    let s := (s.walks.filter fun p => p.2.warp == wid && p.2.resid == .resident).foldl (fun s p => suspendWalk s p.1) s
    { s with copies := Tbl.mapVals s.copies fun _ c => if c.warp == wid then { c with resid := .saved } else c }

/-- The blend units perform what is due of some warps. -/
def performDue (warps : List Nat) : State → Nat → State
  | s, 0 => s
  | s, n + 1 =>
    match s.pix.find? fun p => warps.contains p.2.warp && p.2.kind != 2 && pixDue s p.1 p.2 with
    | some p => performDue warps (pixStep s p.1 p.2) n
    | none => s

/-- Bins of a context in a cluster are flushed (R214). -/
def flushCtx (s : State) (ctx cluster : Nat) : State :=
  (s.bins.filter fun b => b.1 / 16 == cluster && b.2.ctx == ctx).foldl (fun s b => flushBin s b.1) s

/-- Copies, walks and builds of others find the places that some workgroups have left. -/
def wakePlaces (s : State) (gs : List Wg) : State :=
  gs.foldl (fun s g => wakeWalkRoom (wakeCopySlots s g.ctl g.core) g.core) s

/-- Workgroups stop and wait to be saved. The build engines stop for their contexts, by halves (R298). -/
def stopWgs (s : State) (discard : Bool) (gids : List Nat) : State :=
  let gs := gids.filterMap fun k => (Tbl.find s.wgs k).bind fun g => if g.resid == .resident then some (k, g) else none
  let s := gs.foldl (fun s p => modWg s p.1 fun g => { g with resid := .leaving, idle := none }) s
  let s := gs.foldl (fun s p => p.2.warps.foldl (fun s w => stopWarp s discard w) s) s
  let s := (gs.map fun p => (p.2.ctx, halfOf p.2.ctl p.2.core)).eraseDups.foldl (fun s p => suspendBuilds s p.1 p.2) s
  let s := gs.foldl (fun s p => if p.2.ctl then s else flushCtx s p.2.ctx (clusterOf p.2.core)) (wakePlaces s (gs.map (·.2)))
  performDue (gs.flatMap fun p => p.2.warps) s s.pix.length

/-! ## Eviction (R297) -/

/-- Every workgroup of a cluster group has stood descheduled for 21,000 cycles. -/
def cgIdle (s : State) (c : Cg) : Bool :=
  !c.wgs.isEmpty && c.wgs.all fun k => match Tbl.find s.wgs k with
    | some g => (match g.idle with
      | some t => wgDescheduled s g && decide (t + 21000 ≤ clkNat s)
      | none => false)
    | none => true

/-- A workgroup of the launch waits for room: its next fits nowhere. -/
def waitsForRoom (s : State) (lid : Nat) : Bool :=
  match (Tbl.find s.launches lid).bind fun L => (partOf s L.ctx).map fun p => (L, p) with
  | none => false
  | some (L, part) => match nextItem s lid L with
    | none => false
    | some i => (place s part lid L i fun _ => false).isNone

/-- Cluster group a leaves residence. -/
def Machine.execEviction (s : State) : Host.Outcome State Fault Refusal :=
  .next (match Tbl.find s.cgs s.ev.a with
    | none => s
    | some c => if cgIdle s c && waitsForRoom s c.launch then stopWgs s true c.wgs else s)

/-! ## Pre-emption (R298 to R303) -/

/-- A launch of one class pre-empts work of another (Table 14.5, R377). -/
def outranks (L : Launch) (g : Wg) : Bool := g.cls != .h && decide (L.cls.rank < g.cls.rank)

/-- Work whose CORE is spent gives way to its own class and to higher ones (R294). -/
def spentFor (s : State) (L : Launch) (g : Wg) : Bool := g.cls != .h && budgetSpent s g.ctx g.cls 0 && decide (L.cls.rank ≤ g.cls.rank)

def mayTake (s : State) (L : Launch) (g : Wg) : Bool := outranks L g || spentFor s L g

/-- Workgroups resident on a core. -/
def residents (s : State) (ctl : Bool) (core : Nat) : List (Nat × Wg) :=
  s.wgs.filter fun p => p.2.ctl == ctl && p.2.core == core && p.2.resid == .resident

/-- What may be taken of some cores for a launch: all the work on them, where all of it may be taken (R303); else the contexts whose CORE is
spent, each on the cores where all its work may be taken (R294). -/
def takeable (s : State) (L : Launch) (cores : List Nat) : List (Nat × Nat) :=
  let gs := (cores.flatMap (residents s L.ctl)).map (·.2)
  let pairs := (gs.map fun g => (g.ctx, g.core)).eraseDups
  if gs.all (mayTake s L) then pairs
  else pairs.filter fun p =>
    let own := gs.filter fun g => g.ctx == p.1 && g.core == p.2
    own.any (spentFor s L) && own.all (mayTake s L)

/-- Contexts and cores that leave together with some: on main-array cores every core of a cluster group (R301), on control cores every
control core of the half that holds work of the context (R298). -/
def closure (s : State) (ctl : Bool) : Nat → List (Nat × Nat) → List (Nat × Nat)
  | 0, set => set
  | n + 1, set =>
    let hit (g : Wg) : Bool := g.ctl == ctl && g.resid == .resident && set.contains (g.ctx, g.core)
    let more : List (Nat × Nat) := s.wgs.filterMap fun p =>
      let g := p.2
      if g.ctl == ctl && g.resid == .resident && !set.contains (g.ctx, g.core) &&
        (if ctl then s.wgs.any fun q => hit q.2 && q.2.ctx == g.ctx && q.2.core / 16 == g.core / 16
         else s.wgs.any fun q => hit q.2 && q.2.cg == g.cg) then some (g.ctx, g.core) else none
    if more.isEmpty then set else closure s ctl n (set ++ more.eraseDups)

/-- A choice of cores: how many leave, the lowest class on those chosen, and the highest cluster and core. -/
structure Victims where
  set    : List (Nat × Nat)
  count  : Nat
  low    : Nat
  top    : Nat
  deriving DecidableEq, Repr

def victimsOf (s : State) (ctl cg : Bool) (pairs : List (Nat × Nat)) : Victims :=
  let set := closure s ctl 128 pairs
  let ks := (set.map (·.2)).eraseDups
  { set := set, count := if cg then (ks.map clusterOf).eraseDups.length else ks.length,
    low := (pairs.flatMap fun p => (residents s ctl p.2).filter fun g => g.2.ctx == p.1).foldl (fun m g => max m g.2.cls.rank) 0,
    top := (pairs.map (·.2)).foldl max 0 }

/-- Fewest first, then the lowest class, then the highest cluster and core (R301). -/
def Victims.before (a b : Victims) : Bool :=
  if a.count != b.count then decide (a.count < b.count)
  else if a.low != b.low then decide (b.low < a.low)
  else decide (b.top < a.top)

def bestVictims : List Victims → Option Victims
  | [] => none
  | v :: vs => match bestVictims vs with
    | none => some v
    | some u => if v.before u then some v else some u

/-- A workgroup is about to give its room back. -/
def Machine.Wg.leaves (g : Wg) : Bool := g.resid == .leaving || g.resid == .written

/-- The choices open to a launch: single cores, or for a cluster group whole clusters, whose release makes room. -/
def victimChoices (s : State) (part lid : Nat) (L : Launch) (item : Item) : List Victims :=
  let cg := !L.ctl && L.lrec.cgwg != 0
  let sets := if cg then placeSets s part L else (placeSets s part L).flatten.map fun c => [c]
  ((sets.map (takeable s L)).filter fun ps => !ps.isEmpty).filterMap fun ps =>
    let v := victimsOf s L.ctl cg ps
    let gone (g : Wg) : Bool := g.leaves || (g.ctl == L.ctl && v.set.contains (g.ctx, g.core))
    if (place s part lid L item gone).isSome then some v else none

/-- Launch a requests pre-emption, and the units stop. Nothing is taken for room that work being saved is about to give. -/
def Machine.execPreemption (s : State) : Host.Outcome State Fault Refusal :=
  .next (match (Tbl.find s.launches s.ev.a).bind fun L => partOf s L.ctx with
    | none => s
    | some part =>
      match (waiting s part).find? fun p => p.1.id == s.ev.a with
      | none => s
      | some (c, item) =>
        if (place s part c.id c.L item Machine.Wg.leaves).isSome then s
        else match bestVictims (victimChoices s part c.id c.L item) with
          | none => s
          | some v =>
            stopWgs s true ((s.wgs.filter fun p =>
              p.2.ctl == c.L.ctl && p.2.resid == .resident && v.set.contains (p.2.ctx, p.2.core)).map (·.1)))

/-! ### Saves (R299, R300, R214) -/

/-- Rows of a warp are still in the sluice. -/
def hasRows (s : State) (wid : Nat) : Bool :=
  (s.bins.any fun b => b.2.rows.any fun r => r.warp == wid) ||
  s.jobs.any fun j => j.2.groups.any fun g => g.rows.any fun r => r.warp == wid

/-- A warp may be saved: its rows are written and none of its fragments has accesses to peers or the host under way. -/
def saveReady (s : State) (wid : Nat) : Bool :=
  match Tbl.find s.warps wid with
  | none => true
  | some w => !hasRows s wid && !(w.frags.any fun p => p.2.st == .running && p.2.wkind == .peer)

/-- A warp is written. One that is restartable still, its fragment not parked or divided meanwhile, loses its accumulators and goes on at RLAB;
any other has its matrix commands completed (R204). -/
def saveWarp (s : State) (wid : Nat) : State :=
  match Tbl.find s.warps wid with
  | none => s
  | some w =>
    let re := w.restart && w.restartable s
    let s := if re then w.frags.foldl (fun s p => dropHold s wid p.1) (dropMops s wid) else finishMops s wid
    let pc := restartPc s w
    modWarp s wid fun w =>
      { w with
        resid := .written, restart := false, landDue := w.landDue || re,
        frags := Tbl.mapVals w.frags fun _ f =>
          if re then
            { f with pc := pc, pidx := 0, latches := [], reach := 0, tokw := 0, wkind := .none, warg := 0, skip := false, acq := false, due := false,
                     cont := false, replay := none, hidden := [], hidAct := 0, wait := .empty, st := .ready }
          else f.pause }

/-- The saves of a core are complete: what has been written releases its resources (R299). -/
def releaseCore (s : State) (ctl : Bool) (core : Nat) : State :=
  let on (c : Bool) (k : Nat) : Bool := c == ctl && k == core
  if s.wgs.any fun p => on p.2.ctl p.2.core && p.2.resid == .leaving then s
  else
    { s with wgs := Tbl.mapVals s.wgs fun _ g => if on g.ctl g.core && g.resid == .written then { g with resid := .saved } else g,
             warps := Tbl.mapVals s.warps fun _ w => if on w.ctl w.core && w.resid == .written then { w with resid := .saved } else w }

/-- The bytes that a save writes into the context's save area. -/
def writeImage (s : State) (ctx : Nat) : State :=
  match Tbl.find s.ctxs ctx with
  | none => s
  | some c =>
    let s := { s with freeCtr := s.freeCtr + 1 }
    (Config.saveImage (s.freeCtr - 1)).foldl (fun s p =>
      if p.1 < c.desc.csavelen then storeHbm s (c.desc.csave + p.1) [p.2] else s) s

/-- The save of context c on core b, a control core when a is not 0, is written; with the last one the core is released. -/
def Machine.execSaveComplete (s : State) : Host.Outcome State Fault Refusal :=
  let ctl := s.ev.a != 0
  let gs := s.wgs.filter fun p => p.2.ctl == ctl && p.2.core == s.ev.b && p.2.ctx == s.ev.c && p.2.resid == .leaving
  .next (
    if gs.isEmpty || !(gs.all fun p => p.2.warps.all (saveReady s)) then s
    else
      let s' := gs.foldl (fun s p =>
        p.2.warps.foldl saveWarp (modWg s p.1 fun g => { g with resid := .written })) s
      releaseCore (writeImage s' s.ev.c) ctl s.ev.b)

/-! ## The end of a launch (R289) -/

/-- Work of a launch is still in the device: workgroups, copies, builds, walks and pixel operations of its warps. -/
def launchBusy (s : State) (lid : Nat) : Bool :=
  (s.wgs.any fun p => p.2.launch == lid) || (s.pix.any fun p => p.2.launch == lid || p.2.graph == some lid) ||
  (s.walks.any fun p => p.2.launch == lid)

/-- A grid launch is over when every workgroup has been placed and has ended; a graph launch when no consumer launch is left and none
can form. -/
def launchOver (s : State) (lid : Nat) (L : Launch) : Bool :=
  if L.lrec.nnodes = 0 then decide (L.total ≤ L.nextWg) && !launchBusy s lid
  else !(s.launches.any fun p => p.2.graph == some lid) && !launchBusy s lid &&
    L.nodes.all fun n => n.2.basin.isEmpty && n.2.tri.isNone

/-- The head of a queue moves on: what has been accepted of tails behind it is forgotten, and with none left the queue is idle. -/
def Machine.Queue.advanced (q : Queue) (h : Word) : Queue :=
  { q with head := h, run := none, st := if q.st == .running && h == q.tail then .idle else q.st,
           ages := q.ages.filter fun p => decide (0 < (p.1 - h).toNat) && decide ((p.1 - h).toNat ≤ q.slots) }

/-- A command counts as complete: DONE, TDONE and the vector (R289, R341, R355). -/
def countDone (s : State) (qid : Nat) (q : Queue) : State :=
  let s := { s with queues := Tbl.put s.queues qid { q with done := q.done + 1, tdone := s.clock.time } }
  if q.vec then raiseVec s (32 + qid % 2016) else s

/-- A command of a queue, that started at a head, completes. A reset has moved the head past it. -/
def completeCommand (s : State) (qid : Nat) (at' : Word) : State :=
  match Tbl.find s.queues qid with
  | none => s
  | some q => countDone s qid (q.advanced (if q.head = at' then q.head + 1 else q.head))

/-- A launch that `phdisp` handed over completes: its core moves the head (R341 step 4). -/
def completeHanded (s : State) (qid : Nat) : State :=
  match Tbl.find s.queues qid with
  | none => s
  | some q => countDone s qid { q with run := some .retire }

/-- Launch a completes. -/
def Machine.execLaunchComplete (s : State) : Host.Outcome State Fault Refusal :=
  .next (match Tbl.find s.launches s.ev.a with
    | none => s
    | some L =>
      match L.queue with
      | none => s
      | some q =>
        if launchOver s s.ev.a L then
          let s' := { s with launches := Tbl.del s.launches s.ev.a,
                             parts := Tbl.mapVals s.parts fun _ p => { p with intake := p.intake.filter (· != s.ev.a) } }
          (match (Tbl.find s.queues q).bind (·.run) with
           | some (.launch id h) => if id = s.ev.a then setSig (completeCommand s' q h) 3 else s'
           | some (.handed id) => if id = s.ev.a then setSig (completeHanded s' q) 3 else s'
           | _ => s')
        else s)

end Sys2Proof
end

