-- ==== Sys2Proof/Machine/Records.lean ====
section
/-! DEFINITION. Launch records as the pump house reads and checks them (R295, R296, R381, Tables 14.7 and 14.8), with the tables that
they name: weight sets (R208), profile tables (R78), walk tables and layouts (R235, R236), render targets (R272), graph nodes (R259). -/

namespace Sys2Proof

open Machine

def dwordAt (bs : List Byte) (o : Nat) : DWord := BitVec.ofNat 64 (natAt bs o 8)

/-- Bits hi to lo of the 32-bit word at an offset. -/
def bitsAt (bs : List Byte) (o hi lo : Nat) : Nat := natAt bs o 4 / 2 ^ lo % 2 ^ (hi - lo + 1)

/-- Bytes that the pump house reads through a context's tables on path 0x0. -/
def tableRead (s : State) (ctx : Nat) (a : DWord) (n : Nat) : Option (List Byte) :=
  if a.toNat / 2 ^ 57 = 0 then unitRead s ctx a n else none

/-! ## The record (Table 14.7) -/

def parseRecord (bs : List Byte) : LaunchRec :=
  { kstart := dwordAt bs 0, karg := dwordAt bs 8, gx := natAt bs 16 4, gy := bitsAt bs 20 15 0, gz := bitsAt bs 20 31 16,
    wx := bitsAt bs 24 9 0 + 1, wy := bitsAt bs 24 19 10 + 1, wz := bitsAt bs 24 29 20 + 1, cgwg := bitsAt bs 28 8 0,
    pool := bitsAt bs 32 15 8, base32 := bitsAt bs 32 7 0, bars := bitsAt bs 36 20 16, scrl := bitsAt bs 36 12 0,
    accs := bitsAt bs 40 13 8, tiles := bitsAt bs 40 4 0, nflush := bitsAt bs 44 15 0, seed := BitVec.ofNat 32 (natAt bs 48 4),
    rlab := BitVec.ofNat 32 (natAt bs 52 4), entry := natAt bs 56 4, dtab := dwordAt bs 64, dtl := bitsAt bs 72 15 0,
    wslen := bitsAt bs 76 12 0, wstab := dwordAt bs 80, prof := dwordAt bs 88, walktab := dwordAt bs 96, walkn := bitsAt bs 104 4 0,
    rayslots := natAt bs 108 4, savebase := dwordAt bs 112, spillbase := dwordAt bs 120, rttab := dwordAt bs 128,
    frame := dwordAt bs 136, frames := natAt bs 144 4, pincap := bitsAt bs 148 7 0, rdisc := bitsAt bs 152 0 0 == 1,
    nnodes := bitsAt bs 156 6 0, graph := dwordAt bs 160, catbase := dwordAt bs 168, catsize := natAt bs 176 4,
    firstcnt := bitsAt bs 180 31 16, firstnode := bitsAt bs 180 5 0, firstsrc := dwordAt bs 184,
    res := (List.range 4).map fun i => (dwordAt bs (192 + 16 * i), dwordAt bs (200 + 16 * i)) }

/-- An offset not on path 0x0. -/
def offPath (a : DWord) : Bool := a.toNat / 2 ^ 57 != 0

/-- The lowest offset of the conditions that fail. -/
def lowestBad (cs : List (Nat × Bool)) : Option Nat :=
  cs.foldl (fun m c => if c.2 then (match m with | some k => some (min k c.1) | none => some c.1) else m) none

/-- Fields of every kernel's record, a graph node's among them. -/
def kernelFaults (bs : List Byte) (r : LaunchRec) : List (Nat × Bool) :=
  [(0, offPath r.kstart || r.kstart.toNat % 128 != 0), (32, bitsAt bs 32 31 16 != 0 || decide (128 < r.pool) || r.base32 == 0 || decide (64 < r.base32)),
   (36, bitsAt bs 36 31 21 != 0 || bitsAt bs 36 15 13 != 0 || decide (16 < r.bars) || decide (4096 < r.scrl)),
   (40, bitsAt bs 40 31 14 != 0 || bitsAt bs 40 7 5 != 0 || decide (48 < r.accs) || decide (16 < r.tiles)), (44, bitsAt bs 44 31 16 != 0),
   (60, natAt bs 60 4 != 0), (64, r.dtl == 0 && r.dtab != 0), (72, bitsAt bs 72 31 16 != 0), (76, bitsAt bs 76 31 13 != 0 || decide (4096 < r.wslen)),
   (104, bitsAt bs 104 31 5 != 0 || decide (16 < r.walkn)), (112, r.savebase.toNat % 256 != 0), (120, r.spillbase.toNat % 512 != 0),
   (148, bitsAt bs 148 31 8 != 0 || decide (48 < r.pincap)), (152, bitsAt bs 152 31 1 != 0)]

/-- A residency range breaks Table 09.2. -/
def badRange (p : DWord × DWord) : Bool :=
  p.2.toNat / 2 ^ 48 != 0 || p.2.toNat / 2 ^ 41 % 8 != 0 ||
  (p.2.toNat % 2 ^ 32 != 0 &&
    (offPath p.1 || p.1.toNat % 65536 != 0 || decide (8 < resWays p.2) || decide (256 < p.2.toNat / 2 ^ 32 % 512)))

/-- Fields of a launch's own record; `q` is the slot size of a graph whose node table can be read (R260). -/
def launchFaults (bs : List Byte) (r : LaunchRec) (q : Option Nat) : List (Nat × Bool) :=
  let grid := r.graph == 0
  let n := r.gx * r.gy * r.gz
  [(16, if grid then r.gx == 0 || decide (2 ^ 31 < r.gx) else r.gx != 0),
   (20, if grid then r.gy == 0 || r.gz == 0 else r.gy != 0 || r.gz != 0),
   (24, bitsAt bs 24 31 30 != 0 || decide (1536 < r.wx * r.wy * r.wz)), (28, bitsAt bs 28 31 9 != 0 || decide (256 < r.cgwg)),
   (16, r.cgwg != 0 && n % r.cgwg != 0), (136, r.frame.toNat % 2048 != 0), (144, r.frames == 0),
   (156, bitsAt bs 156 31 7 != 0 || decide (64 < r.nnodes) || (r.nnodes == 0) != grid),
   (168, if grid then r.catbase != 0 else offPath r.catbase || r.catbase.toNat % 65536 != 0),
   (176, if grid then r.catsize != 0 else decide (2 ^ 28 < r.catsize) || (match q with | some q => r.catsize % q != 0 | none => false)),
   (180, bitsAt bs 180 15 6 != 0 || (grid && r.firstcnt != 0)),
   (176, !grid && (match q with | some q => decide (r.catsize / q < r.firstcnt) | none => false)),
   (156, !grid && r.firstcnt != 0 && decide (r.nnodes ≤ r.firstnode))] ++
  (r.res.zipIdx.map fun p => (192 + 16 * p.2, badRange p.1)) ++
  [(192, decide (8 < r.ways))]

/-- One workgroup of `n` warps against one core (R295, R376). -/
def coreFaults (ctl : Bool) (r : LaunchRec) (n : Nat) : List (Nat × Bool) :=
  let need := r.room n
  let cap := Room.ofCore ctl
  [(32, decide (cap.regs < need.regs)), (36, decide (cap.lines < need.lines) || decide (cap.slots < need.slots)),
   (40, decide (cap.tiles < need.tiles) || decide (cap.accs < need.accs))]

/-- Workgroups of a record that fit one core at once. -/
def perCore (r : LaunchRec) : Nat :=
  let need := r.room r.warps
  let cap := Room.ofCore false
  ([(cap.warps, need.warps), (cap.regs, need.regs), (cap.lines, need.lines), (cap.slots, need.slots), (cap.tiles, need.tiles),
    (cap.accs, need.accs)].filter fun p => p.2 != 0).foldl (fun m p => min m (p.1 / p.2)) 32

/-! ## Tables that a record names -/

/-- A layer of a weight-set descriptor; `last` and how it breaks Table 08.7. -/
def parseLayer (bs : List Byte) (i : Nat) : WLayer :=
  let o := 16 + 24 * i
  { act := bitsAt bs o 15 8, nout := bitsAt bs o 7 0, scale := BitVec.ofNat 32 (natAt bs (o + 4) 4), woff := natAt bs (o + 8) 4,
    boff := natAt bs (o + 12) 4, xoff := natAt bs (o + 16) 4 }

def badLayer (bs : List Byte) (mxfp4 : Bool) (i : Nat) (last : Bool) : Bool :=
  let o := 16 + 24 * i
  let y := parseLayer bs i
  bitsAt bs o 31 16 != 0 || !(y.act == 0 || y.act == 1 || (decide (0x80 ≤ y.act) && decide (y.act ≤ 0x87))) ||
  (if last then y.nout == 0 || decide (16 < y.nout) else y.nout % 16 != 0 || decide (y.nout < 16) || decide (128 < y.nout)) ||
  y.woff % 16 != 0 || y.boff % 2 != 0 || (!mxfp4 && y.xoff != 0) || natAt bs (o + 20) 4 != 0

/-- A weight-set descriptor (Table 08.7). -/
def parseWSet (bs : List Byte) : Option WSet :=
  let n := bitsAt bs 0 3 0
  let fmt := bitsAt bs 0 7 4
  let nin := bitsAt bs 0 23 16
  let base := dwordAt bs 8
  let bad := bitsAt bs 0 31 24 != 0 || bitsAt bs 0 15 8 != 0 || nin == 0 || decide (64 < nin) || decide (1 < fmt) || n == 0 || decide (8 < n) ||
    natAt bs 4 4 != 0 || !(base.toNat / 2 ^ 57 == 0 || (pathCheck base .ld).isNone && pathOf base == 3) || base.toNat % 256 != 0 ||
    ((List.range n).any fun i => badLayer bs (fmt == 1) i (i + 1 == n)) || (bs.drop (16 + 24 * n)).any (· != 0)
  if bad then none else some { nin := nin, mxfp4 := fmt == 1, wbase := base, layers := (List.range n).map (parseLayer bs) }

/-- Every member, or none. -/
def allOf {α β : Type} (f : α → Option β) : List α → Option (List β)
  | [] => some []
  | a :: as => match f a, allOf f as with
    | some b, some bs => some (b :: bs)
    | _, _ => none

/-- The weight sets of a record. -/
def loadWSets (s : State) (ctx : Nat) (r : LaunchRec) : Option (List WSet) :=
  allOf (fun i => (tableRead s ctx (r.wstab + BitVec.ofNat 64 (8 * i)) 8).bind fun e =>
    let a := dwordAt e 0
    if a.toNat % 256 != 0 then none else (tableRead s ctx a 256).bind parseWSet) (List.range r.wslen)

/-- The profile table of a record; 0 leaves every range word with V = 0. -/
def loadProf (s : State) (ctx : Nat) (r : LaunchRec) : Option (Tbl Word) :=
  if r.prof = 0 then some []
  else if r.prof.toNat % 4 != 0 then none
  else (unitRead s ctx r.prof profBytes).map fun bs => (wordsOf 328 bs).zipIdx.foldl (fun t p => Tbl.write 0 t p.2 p.1) []

def parseLayout (bs : List Byte) : Layout :=
  { q8 := bitsAt bs 0 31 30 == 1, rel := bitsAt bs 0 29 28 == 1, cntw := bitsAt bs 0 27 24, cntpos := bitsAt bs 0 23 19,
    cntoff := bitsAt bs 0 15 8, hdr := bitsAt bs 0 7 0, ptroff := bitsAt bs 4 31 24, ptrstr := bitsAt bs 4 23 16, boxoff := bitsAt bs 4 15 8,
    boxstr := bitsAt bs 4 7 0, qoff := bitsAt bs 8 31 24, pgran := bitsAt bs 8 23 20, maxch := bitsAt bs 8 19 16 + 1,
    leafoff := bitsAt bs 8 15 8, leafstr := bitsAt bs 8 7 0, inline := bitsAt bs 12 0 0 == 1, vbase := dwordAt bs 16, ibase := dwordAt bs 24 }

/-- A layout breaks Table 10.2 or R236. -/
def badLayout (bs : List Byte) : Bool :=
  let y := parseLayout bs
  decide (1 < bitsAt bs 0 31 30) || decide (1 < bitsAt bs 0 29 28) || y.cntw == 0 || decide (8 < y.cntw) || decide (32 < y.cntpos + y.cntw) ||
  bitsAt bs 0 18 16 != 0 || y.cntoff % 4 != 0 || decide (y.hdr ≤ y.cntoff) || y.hdr % 4 != 0 || decide (y.hdr < 4) || decide (128 < y.hdr) ||
  decide (y.ptrstr < if y.rel then 4 else 8) || decide (y.boxstr < if y.q8 then 6 else 24) || (y.q8 && y.qoff % 4 != 0) ||
  decide (y.pgran < 4) || decide (y.leafstr < if y.inline then 40 else 4) || bitsAt bs 12 31 1 != 0 || (bs.drop 32).any (· != 0) ||
  decide (512 < max y.hdr (max (y.boxoff + y.maxch * y.boxstr) (y.ptroff + y.maxch * y.ptrstr))) ||
  decide (512 < max y.hdr (y.leafoff + y.maxch * y.leafstr))

/-- The branch target of a micro-operation. -/
def Instr.walkLabel (i : Instr) : Option Nat :=
  match i with
  | .wpop l | .wany l | .wbr l | .wbz _ l | .wbnz _ l | .wcall _ l => some l.toNat
  | _ => none

/-- A program word is legal in a program of some length. -/
def walkWordOk (len : Nat) (w : Word) : Bool :=
  match decodeWalk w with
  | some i => (match i.walkLabel with | some l => decide (l < len) | none => true)
  | none => false

/-- A layout slot: its 64 bytes, zeros where it is unused, and the layout. -/
def loadLayout (s : State) (ctx : Nat) (a : DWord) : Option (List Byte × Option Layout) :=
  if a = 0 then some (zeros 64, none)
  else if a.toNat % 64 != 0 then none
  else (tableRead s ctx a 64).bind fun bs => if badLayout bs then none else some (bs, some (parseLayout bs))

/-- A walk-table entry with its program (Table 10.1); one whose CODE is 0 holds none, and `rtrace` parks on it (R250). -/
def loadWalk (s : State) (ctx : Nat) (r : LaunchRec) (i : Nat) : Option (Option WalkProg) :=
  (tableRead s ctx (r.walktab + BitVec.ofNat 64 (64 * i)) 64).bind fun e =>
    let code := dwordAt e 0
    let len := bitsAt e 8 7 0 + 1
    if code = 0 then some none
    else if bitsAt e 8 31 8 != 0 || natAt e 56 8 != 0 || code.toNat % 4 != 0 then none
    else (tableRead s ctx code (4 * len)).bind fun bs =>
      (allOf (fun k => loadLayout s ctx (dwordAt e (24 + 8 * k))) [0, 1, 2, 3]).bind fun ys =>
        let ws := wordsOf len bs
        if ws.all (walkWordOk len) then
          some (some { code := ws, sign := crc32c (bs ++ ys.flatMap (·.1)), root := dwordAt e 16, layouts := ys.map (·.2) })
        else none

def loadWalks (s : State) (ctx : Nat) (r : LaunchRec) : Option (List (Option WalkProg)) :=
  allOf (loadWalk s ctx r) (List.range r.walkn)

/-- The pump house fills in SIGN of every entry (R235). -/
def writeSigns (s : State) (ctx : Nat) (r : LaunchRec) (ps : List (Option WalkProg)) : State :=
  ps.zipIdx.foldl (fun s p =>
    match p.1 with
    | some q =>
      (wordBytes q.sign).zipIdx.foldl (fun s b =>
        match translate s ctx (offOf (r.walktab + BitVec.ofNat 64 (64 * p.2 + 12 + b.2))) .ld false false with
        | .ok pa => storeHbm s pa [b.1]
        | .error _ => s) s
    | none => s) s

/-- A render-target descriptor (Table 11.7); one whose CBASE is 0 stands for no target (R273) and is not checked further. -/
def parseTarget (bs : List Byte) : Option (Option Target) :=
  let t : Target :=
    { cbase := dwordAt bs 0, zbase := dwordAt bs 8, wcells := bitsAt bs 16 31 16, hcells := bitsAt bs 16 15 0, zfn := bitsAt bs 20 7 6,
      zwr := bitsAt bs 20 5 5 == 1, blend := bitsAt bs 20 4 3, cfmt := bitsAt bs 20 2 0, sig := dwordAt bs 24 }
  if t.cbase = 0 then some none
  else if offPath t.cbase || t.cbase.toNat % 128 != 0 || t.zbase.toNat % 128 != 0 || t.wcells == 0 || t.hcells == 0 || bitsAt bs 20 31 8 != 0 ||
    t.blend == 3 || (t.blend == 1 && t.cfmt != 0) || decide (1 < t.cfmt) || t.sig.toNat % 8 != 0 then none
  else some (some t)

def loadTargets (s : State) (ctx : Nat) (r : LaunchRec) : Option (List (Option Target)) :=
  if r.rttab = 0 then some []
  else allOf (fun i => (tableRead s ctx (r.rttab + BitVec.ofNat 64 (32 * i)) 32).bind parseTarget) (List.range 16)

/-- What a kernel's record names. -/
structure Loaded where
  wsets : List WSet
  prof  : Tbl Word
  walks : List (Option WalkProg)
  deriving DecidableEq, Repr

/-- The tables of a kernel, or the offset of the field that points at a bad one. -/
def loadKernel (s : State) (ctx : Nat) (r : LaunchRec) : Except Nat Loaded :=
  match loadWSets s ctx r with
  | none => .error 80
  | some ws => match loadProf s ctx r with
    | none => .error 88
    | some p => match loadWalks s ctx r with
      | none => .error 96
      | some ks => .ok { wsets := ws, prof := p, walks := ks }

/-! ## Graph nodes (R259, Tables 11.1 and 14.8) -/

/-- A node-table entry breaks its tables by itself. -/
def badNode (bs : List Byte) : Bool :=
  let rec' := bitsAt bs 12 25 16
  let batch := bitsAt bs 12 14 8
  let pool := bitsAt bs 12 7 6
  let cell := bitsAt bs 12 5 5 == 1
  bitsAt bs 12 31 26 != 0 || bitsAt bs 12 15 15 != 0 || bitsAt bs 12 4 0 != 0 || bitsAt bs 16 31 6 != 0 || (bs.drop 20).any (· != 0) ||
  rec' % 16 != 0 || decide (rec' < 16) || decide (512 < rec') || batch == 0 || decide (96 < batch) || pool == 3 ||
  ((pool == 2 || cell) && rec' != 64) || (cell && (batch != 1 || pool == 2)) || ((pool == 2) != (dwordAt bs 0 == 0)) ||
  (pool != 2 && bitsAt bs 16 5 0 != 0)

/-- Node-table entries of a graph; none when one cannot be read or breaks its table. -/
def nodeEntries (s : State) (ctx : Nat) (r : LaunchRec) : Option (List (List Byte)) :=
  (allOf (fun i => (tableRead s ctx (r.graph + BitVec.ofNat 64 (32 * i)) 32).bind fun bs => if badNode bs then none else some bs)
    (List.range (min r.nnodes 64))).bind fun es =>
    if es.all (fun bs => bitsAt bs 12 7 6 != 2 || (match es[bitsAt bs 16 5 0]? with | some t => bitsAt t 12 5 5 == 1 | none => false)) then some es
    else none

/-- Slot size Q (R260). -/
def slotSize (es : List (List Byte)) : Nat := (es.foldl (fun m bs => max m (bitsAt bs 12 25 16)) 0 + 63) / 64 * 64

/-- The record of a node-table entry. -/
def nodeRecord (s : State) (ctx : Nat) (bs : List Byte) : Option (List Byte) :=
  if (dwordAt bs 0).toNat % 256 = 0 then tableRead s ctx (dwordAt bs 0) 256 else none

/-- The kernels of the nodes of one pool against the core that they run on (R295, R376): offsets in their records. -/
def nodeFaults (s : State) (ctx pool : Nat) (es : List (List Byte)) : List (Nat × Bool) :=
  (es.filter fun bs => bitsAt bs 12 7 6 == pool).flatMap fun bs =>
    match nodeRecord s ctx bs with
    | some kb => coreFaults (pool == 1) (parseRecord kb) 1
    | none => []

/-- A node with its own record (R296). -/
def loadNode (s : State) (ctx : Nat) (bs : List Byte) : Option Node :=
  let krec := dwordAt bs 0
  let pool := bitsAt bs 12 7 6
  let base : Node :=
    { krec := krec, lrec := none, wsets := [], walks := [], prof := [], timeout := natAt bs 8 4, record := bitsAt bs 12 25 16,
      batch := bitsAt bs 12 14 8, pool := pool, cell := bitsAt bs 12 5 5 == 1, next := bitsAt bs 16 5 0, basin := [], seq := 0, tri := none }
  if pool = 2 then some base
  else (nodeRecord s ctx bs).bind fun kb =>
    let k := parseRecord kb
    if (lowestBad (kernelFaults kb k)).isSome then none
    else match loadKernel s ctx k with
      | .ok y => some { base with lrec := some k, wsets := y.wsets, walks := y.walks, prof := y.prof }
      | .error _ => none

/-! ## Checking a launch (R295, R381) -/

/-- A launch that has passed its checks. -/
structure Checked where
  lrec    : LaunchRec
  loaded  : Loaded
  targets : List (Option Target)
  nodes   : List Node
  slotQ   : Nat
  deriving DecidableEq, Repr

/-- The tables of a launch, in the order of R381. -/
def checkTables (s : State) (ctx : Nat) (r : LaunchRec) (es : Option (List (List Byte))) : Except Nat Checked :=
  match loadKernel s ctx r with
  | .error o => .error o
  | .ok y => match loadTargets s ctx r with
    | none => .error 128
    | some ts =>
      if r.nnodes = 0 then .ok { lrec := r, loaded := y, targets := ts, nodes := [], slotQ := 0 }
      else match es with
        | none => .error 160
        | some es => match allOf (loadNode s ctx) es with
          | none => .error 160
          | some ns => .ok { lrec := r, loaded := y, targets := ts, nodes := ns, slotQ := slotSize es }

/-- The conditions of R295 on a record, group by group in its order, the core that a workgroup runs on before the tables: a field by itself, one
workgroup against a core, a control core's against that, a cluster group against a cluster. -/
def recordFaults (s : State) (ctx : Nat) (bs : List Byte) (r : LaunchRec) (es : Option (List (List Byte))) : List (List (Nat × Bool)) :=
  [kernelFaults bs r ++ launchFaults bs r (es.map slotSize), if r.nnodes = 0 then coreFaults false r r.warps else nodeFaults s ctx 0 (es.getD []),
   nodeFaults s ctx 1 (es.getD []), [(28, r.nnodes == 0 && decide (8 * perCore r < r.cgwg))]]

/-- A record checked as R295 says, but for the class: the launch, or the subcode of its refusal. -/
def checkRecord (s : State) (ctx : Nat) (bs : List Byte) : Except Nat Checked :=
  let r := parseRecord bs
  let es := if r.graph = 0 then none else nodeEntries s ctx r
  match (recordFaults s ctx bs r es).findSome? lowestBad with
  | some o => .error o
  | none => checkTables s ctx r es

/-- A copy that `phdisp` hands over: only a field that breaks Table 14.7 stops it (R340); tables that R295 would refuse stand as none at all.
DESIGN CHOICE (log 72). -/
def handedRecord (s : State) (ctx : Nat) (bs : List Byte) : Except Nat Checked :=
  let r := parseRecord bs
  match lowestBad (kernelFaults bs r ++ launchFaults bs r none) with
  | some o => .error o
  | none => match checkRecord s ctx bs with
    | .ok c => .ok c
    | .error _ => .ok { lrec := r, loaded := { wsets := [], prof := [], walks := [] }, targets := [], nodes := [], slotQ := 0 }

/-- The record of a handler kernel: one workgroup of one warp of 96 × 1 × 1 lanes that fits a control core (R310, R376). -/
def checkHandler (s : State) (ctx : Nat) (bs : List Byte) : Option Checked :=
  match checkRecord s ctx bs with
  | .error _ => none
  | .ok c =>
    let r := c.lrec
    if r.nnodes = 0 && r.gx == 1 && r.gy == 1 && r.gz == 1 && r.wx == 96 && r.wy == 1 && r.wz == 1 &&
      (lowestBad (coreFaults true r 1)).isNone then some c else none

end Sys2Proof
end

