-- ==== Sys2Proof/Machine/Commands.lean ====
section
/-! DEFINITION. Queues, capabilities and wake writes (R286 to R288, R356), and the commands of Table 17.4 with their errors (R341, R342). -/

namespace Sys2Proof

open Machine

/-! ## Capabilities (R287) -/

/-- The seal over capability bytes 0 to 15 and 20 to 23, as it stands in bytes 16 to 19 and 24 to 31. -/
def sealOf (key cap : List Byte) : List Byte × List Byte :=
  let mac := hmac key (cap.take 16 ++ (cap.drop 20).take 4)
  ((mac.take 4).reverse, ((mac.drop 4).take 8).reverse)

/-- A capability with its seal written. -/
def sealCap (key cap : List Byte) : List Byte :=
  let m := sealOf key cap
  cap.take 16 ++ m.1 ++ (cap.drop 20).take 4 ++ m.2

def capQid (cap : List Byte) : Nat := natAt cap 8 8 / 2 ^ 52

/-- Rights: bit 2 ADMIN, bit 1 STAT, bit 0 WAKE. -/
def capRight (cap : List Byte) (bit : Nat) : Bool := natAt cap 8 8 / 2 ^ (48 + bit) % 2 == 1

/-- The queue that a capability names, when EPOCH, OWNER, BASE and SLOTS are its current ones. -/
def capQueue (s : State) (cap : List Byte) : Option Queue :=
  (Tbl.find s.queues (capQid cap)).bind fun q =>
    if q.used && q.epoch.toNat == natAt cap 20 4 && q.owner == natAt cap 8 8 / 2 ^ 32 % 1024 && q.base == dwordAt cap 0 &&
      q.slots == natAt cap 8 4 then some q else none

/-- The first of conditions 1 to 3 of R288 that a capability fails, 0 for none; `extra` are the bytes that must be 0 besides. -/
def capFails (s : State) (cap extra : List Byte) : Nat :=
  if sealCap s.board.capKey cap != cap then 1
  else if extra.any (· != 0) || natAt cap 8 8 / 2 ^ 51 % 2 != 0 || natAt cap 8 8 / 2 ^ 42 % 64 != 0 then 2
  else if (capQueue s cap).isNone then 3
  else 0

/-! ## Wake writes (R288, R356) -/

/-- A rejected wake write: counters, one event with the queue and the condition, a signal. -/
def wakeRejected (s : State) (window : Bool) (qid cond : Nat) : State :=
  let s := modBoard s fun b => { b with wrej := b.wrej + 1, wrejh := if window then b.wrejh + 1 else b.wrejh }
  setSig (devEvent s { kind := .wakeRejected, a := qid, b := cond }) 4

/-- The first condition that a wake write fails, 0 for none. -/
def wakeFails (s : State) (bs : List Byte) : Nat :=
  let cap := bs.take 32
  let c := capFails s cap (bs.drop 36)
  if c != 0 then c
  else if !capRight cap 0 then 4
  else match capQueue s cap with
    | none => 3
    | some q =>
      let tail := BitVec.ofNat 32 (natAt bs 32 4)
      if q.slots < (tail - q.tail).toNat || q.slots < (tail - q.head).toNat then 5 else 0

/-- A new tail: commands are there, and an idle queue becomes runnable. -/
def acceptTail (s : State) (qid : Nat) (tail : Word) : State :=
  match Tbl.find s.queues qid with
  | none => s
  | some q =>
    if tail = q.tail then s
    else
      let k := fresh s
      let s := { k.2 with queues := Tbl.put k.2.queues qid
                            { q with tail := tail, ages := q.ages ++ [(tail, k.1)], st := if q.st == .idle then .running else q.st } }
      if q.st == .idle then setSig s 0 else s

/-- A wake write of 64 bytes reaches the unsealer. Until BOOT 4, and in recovery, every one is rejected (R345, R370). -/
def wakeWrite (s : State) (window : Bool) (bs : List Byte) : State :=
  if s.board.boot != 4 then wakeRejected s window (capQid bs) 0
  else
    let c := wakeFails s bs
    if c != 0 then wakeRejected s window (capQid bs) c else acceptTail s (capQid bs) (BitVec.ofNat 32 (natAt bs 32 4))

/-- A write of the host to offset a of the wake window. -/
def Machine.execWakeWrite (s : State) : Host.Outcome State Fault Refusal :=
  .next (if s.ev.data.length = 64 && s.ev.a % 64 = 0 then wakeWrite s true s.ev.data else wakeRejected s true (capQid s.ev.data) 0)

/-! ## Picking a command (R341 step 1) -/

/-- The 64 bytes of the slot at the head, through the owner's tables. -/
def headSlot (s : State) (q : Queue) : Option (List Byte) :=
  tableRead s q.owner (q.base + BitVec.ofNat 64 (64 * (q.head.toNat % q.slots))) 64

/-- The order in which the wake write that covers the head was accepted (R291). -/
def commandAge (q : Queue) : Nat :=
  ((q.ages.find? fun p => decide (0 < (p.1 - q.head).toNat) && decide ((p.1 - q.head).toNat ≤ q.slots)).map (·.2)).getD 0

/-- The deadline of the command at the head; a command that has none stands first. -/
def headDeadline (s : State) (q : Queue) : Nat :=
  match headSlot s q with
  | some b => if natAt b 0 1 = 1 then natAt b 16 8 else 0
  | none => 0

/-- A queue has a command that may start. -/
def runnable (s : State) (q : Queue) : Bool :=
  q.used && (q.st == .idle || q.st == .running) && q.head != q.tail && q.run.isNone &&
  match Tbl.find s.ctxs q.owner with
  | some c => c.halted.isNone
  | none => false

/-- One runnable queue stands before another (R290, R291). -/
def queueBefore (s : State) (a b : Nat × Queue) : Bool :=
  if a.2.cls.rank != b.2.cls.rank then decide (a.2.cls.rank < b.2.cls.rank)
  else if a.2.cls == .d || a.2.cls == .v then
    if headDeadline s a.2 != headDeadline s b.2 then decide (headDeadline s a.2 < headDeadline s b.2) else decide (a.1 < b.1)
  else if commandAge a.2 != commandAge b.2 then decide (commandAge a.2 < commandAge b.2)
  else decide (a.1 < b.1)

/-- The dispatcher's intake of 64 entries is full. -/
def intakeFull (s : State) (part : Nat) : Bool :=
  match Tbl.find s.parts part with
  | some p => decide (64 ≤ p.intake.length)
  | none => true

/-- The command at the head is a LAUNCH that its partition's intake has no room for. -/
def intakeWait (s : State) (q : Queue) : Bool :=
  match headSlot s q, partOf s q.owner with
  | some b, some part => natAt b 0 1 == 1 && intakeFull s part
  | _, _ => false

/-- The queue that stands first among those that `sel` takes. -/
def firstQueue (s : State) (sel : Queue → Bool) : Option Nat :=
  ((s.queues.filter fun p => sel p.2).foldl (fun (m : Option (Nat × Queue)) p =>
    match m with
    | some b => if queueBefore s p b then some p else m
    | none => some p) none).map (·.1)

/-- A service core picks this queue's command next: it stands first, or first but for queues whose launch waits for room in an intake (R341). -/
def picks (s : State) (qid : Nat) : Bool :=
  firstQueue s (runnable s) == some qid || firstQueue s (fun q => runnable s q && !intakeWait s q) == some qid

/-- A queue stops with its head on the failing command (R342). -/
def queueError (s : State) (qid code : Nat) (sub : Word) : State :=
  { s with queues := Tbl.modify s.queues qid fun q => { q with st := .error, err := BitVec.ofNat 8 code, esub := sub, run := none } }

/-- Queue a's command, if a core picks it now and it is of this OP: checked, and run. -/
def command (op : Nat) (run : State → Nat → Queue → List Byte → State) (s : State) : Host.Outcome State Fault Refusal :=
  .next (
    if s.board.boot != 4 || !picks s s.ev.a then s
    else match Tbl.find s.queues s.ev.a with
      | none => s
      | some q =>
        match headSlot s q with
        | none => queueError s s.ev.a 4 0
        | some b =>
          let o := natAt b 0 1
          if o = 0 || 6 < o || natAt b 1 1 / 2 != 0 || natAt b 2 6 != 0 then queueError s s.ev.a 1 0
          else if o != op then s
          else run s s.ev.a { q with st := .running, vec := natAt b 1 1 % 2 == 1 } b)

/-- A command that is complete as soon as it has run. -/
def commandDone (s : State) (qid : Nat) (q : Queue) : State := completeCommand { s with queues := Tbl.put s.queues qid q } qid q.head

/-! ## LAUNCH -/

/-- The launch of a checked record. -/
def newLaunch (qid : Nat) (q : Queue) (deadline : DWord) (c : Checked) : Launch :=
  { queue := some qid, ctx := q.owner, cls := q.cls, level := .u, ctl := false, deadline := deadline, age := commandAge q, lrec := c.lrec,
    wsets := c.loaded.wsets, walks := c.loaded.walks, prof := c.loaded.prof, targets := c.targets, pins := [], nextWg := 0, taken := [],
    graph := none, node := 0, seqno := 0, records := [], cluster := none, nodes := c.nodes.zipIdx.map fun p => (p.2, p.1), slots := [],
    slotQ := c.slotQ, ticket := [], retired := [] }

/-- Cell, in the record bytes of a cell node. -/
def cellOf (bs : List Byte) : Nat × Nat × Nat × Nat := (natAt bs 12 4 % 16, natAt bs 0 2, natAt bs 2 2, natAt bs 4 4)

/-- The first records of a graph, copied into slots 0 up (R296); none when a byte cannot be read or written. -/
def copyFirst (s : State) (L : Launch) (n : Node) : List Nat → Option (Tbl Slot × State)
  | [] => some ([], s)
  | k :: ks =>
    match unitRead s L.ctx (L.lrec.firstsrc + BitVec.ofNat 64 (n.record * k)) n.record with
    | none => none
    | some bs =>
      match writeVirt s { ctx := L.ctx, wg := none } (L.slotAddr k) bs with
      | .error _ => none
      | .ok s' => (copyFirst s' L n ks).map fun r =>
          ((k, ({ st := .committed, node := L.lrec.firstnode, cell := if n.cell then some (cellOf bs) else none } : Slot)) :: r.1, r.2)

/-- Signatures of the walk tables of a launch, its nodes' among them. -/
def signAll (s : State) (ctx : Nat) (L : Launch) : State :=
  let s := writeSigns s ctx L.lrec L.walks
  L.nodes.foldl (fun s p => match p.2.lrec with | some r => writeSigns s ctx r p.2.walks | none => s) s

/-- A launch joins its partition's intake; the first records of a graph enter their basin. -/
def enterIntake (s : State) (part : Nat) (L : Launch) : Option (Nat × State) :=
  let k := fresh (signAll s L.ctx L)
  let first := match Tbl.find L.nodes L.lrec.firstnode with
    | some n => copyFirst k.2 L n (List.range L.lrec.firstcnt)
    | none => some ([], k.2)
  first.map fun r =>
    let s := { r.2 with launches := Tbl.put r.2.launches k.1 { L with slots := r.1 },
                        parts := Tbl.modify r.2.parts part fun p => { p with intake := p.intake ++ [k.1] } }
    (k.1, runBasin (enterBasin s k.1 (List.range L.lrec.firstcnt)) k.1 L.lrec.firstnode 65536)

/-- A launch that becomes ready after its deadline logs an event (R290). -/
def deadlineCheck (s : State) (qid : Nat) (L : Launch) : State :=
  if (L.cls == .d || L.cls == .v) && decide (L.deadline.toNat < s.clock.time.toNat) then
    ctxEvent s L.ctx { kind := .deadlineMiss, a := qid, b := L.deadline.toNat }
  else s

/-- A context allows a class. -/
def classAllowed (d : CtxDesc) (c : Cls) : Bool := c != .h && d.classes.getLsbD (4 - c.index)

def runLaunch (s : State) (qid : Nat) (q : Queue) (b : List Byte) : State :=
  let a := dwordAt b 8
  let deadline := dwordAt b 16
  let dv := q.cls == .d || q.cls == .v
  if !dv && deadline != 0 then queueError s qid 1 0
  else match (if a.toNat % 256 = 0 then tableRead s q.owner a 256 else none), Tbl.find s.ctxs q.owner with
    | some bs, some c =>
      (match checkRecord s q.owner bs with
       | .error o => queueError s qid 2 (BitVec.ofNat 32 o)
       | .ok k =>
         if !classAllowed c.desc q.cls then queueError s qid 2 0xFFFFFFFF
         else if intakeFull s c.desc.part then s
         else match enterIntake s c.desc.part (newLaunch qid q deadline k) with
           | none => queueError s qid 4 0
           | some (id, s') =>
             deadlineCheck { s' with queues := Tbl.put s'.queues qid { q with run := some (.launch id q.head) } } qid (newLaunch qid q deadline k))
    | _, _ => queueError s qid 4 0

def Machine.execLaunch (s : State) : Host.Outcome State Fault Refusal := command 1 runLaunch s

/-! ## FILL (R220, R341) -/

/-- A launch that has started and not completed holds a grant on a half. -/
def grantBusy (s : State) (half : Nat) : Bool := s.launches.any fun p => p.2.started && holdsGrant s p.2.ctx half

/-- A picked FILL runs as soon as nothing stands in its way. -/
def runPicked (s : State) (qid : Nat) : State :=
  match Tbl.find s.queues qid with
  | none => s
  | some q =>
    match q.run with
    | some (.fill h src dst len) =>
      if grantBusy s h then s
      else (match tableRead s q.owner src len with
        | none => queueError s qid 4 0
        | some bs =>
          setSig (completeCommand (chargeBudget { s with wstore := Memory.stores s.wstore dst bs } q.owner q.cls 1 ((len + 4095) / 4096)) qid q.head) 3)
    | _ => s

/-- The destination lies within the owner's grant on one half. -/
def fillOk (d : CtxDesc) (src : DWord) (dst len : Nat) : Bool :=
  !offPath src && len != 0 && len % 128 == 0 && decide (dst + len ≤ 2 ^ 30) && dst / 2 ^ 29 == (dst + len - 1) / 2 ^ 29 &&
  inGrant d dst && inGrant d (dst + len - 1)

def runFill (s : State) (qid : Nat) (q : Queue) (b : List Byte) : State :=
  let dst := natAt b 16 8
  let len := natAt b 24 8
  match Tbl.find s.ctxs q.owner with
  | none => s
  | some c =>
    if !fillOk c.desc (dwordAt b 8) dst len then queueError s qid 3 0
    else runPicked { s with queues := Tbl.put s.queues qid { q with run := some (.fill (dst / 2 ^ 29) (dwordAt b 8) dst len) } } qid

/-- Picks a FILL, or runs the one that queue a has picked. -/
def Machine.execFill (s : State) : Host.Outcome State Fault Refusal :=
  match (Tbl.find s.queues s.ev.a).bind (·.run) with
  | some (.fill _ _ _ _) => .next (runPicked s s.ev.a)
  | _ => command 2 runFill s

/-! ## SIGNAL and WAIT -/

/-- An address that SIGNAL and WAIT take. -/
def syncAddr (d : CtxDesc) (a : DWord) : Bool :=
  a.toNat % 8 == 0 && (a.toNat / 2 ^ 57 == 0 || (a.toNat / 2 ^ 57 == 40 && inWindow d (offOf a) 8))

def runSignal (s : State) (qid : Nat) (q : Queue) (b : List Byte) : State :=
  let a := dwordAt b 8
  match Tbl.find s.ctxs q.owner with
  | none => s
  | some c =>
    if !syncAddr c.desc a then queueError s qid 3 0
    else if pathOf a = 5 then commandDone (writeLoc s (.host (offOf a)) ((b.drop 16).take 8)) qid q
    else match writeVirt s { ctx := q.owner, wg := none } a ((b.drop 16).take 8) with
      | .ok s' => commandDone s' qid q
      | .error _ => queueError s qid 4 0

def Machine.execSignal (s : State) : Host.Outcome State Fault Refusal := command 3 runSignal s

/-- The word that a WAIT reads. -/
def waitWord (s : State) (ctx : Nat) (a : DWord) : Option Nat :=
  if pathOf a = 5 then some (leNat (readLoc s (.host (offOf a)) 8)) else (tableRead s ctx a 8).map leNat

/-- A waiting WAIT reads its word. -/
def waitRead (s : State) (qid : Nat) : State :=
  match Tbl.find s.queues qid with
  | none => s
  | some q =>
    match q.run with
    | some (.wait _ a v _) =>
      (match waitWord s q.owner a with
       | none => queueError s qid 4 0
       | some x => if v.toNat ≤ x then completeCommand s qid q.head else s)
    | _ => s

def runWait (s : State) (qid : Nat) (q : Queue) (b : List Byte) : State :=
  match Tbl.find s.ctxs q.owner with
  | none => s
  | some c =>
    if !syncAddr c.desc (dwordAt b 8) then queueError s qid 3 0
    else waitRead { s with queues := Tbl.put s.queues qid
                             { q with run := some (.wait (clkNat s) (dwordAt b 8) (dwordAt b 16) (natAt b 24 8)) } } qid

def Machine.execWaitCommand (s : State) : Host.Outcome State Fault Refusal := command 4 runWait s

/-- The WAIT of queue a reads its word again. -/
def Machine.execWaitCommandRecheck (s : State) : Host.Outcome State Fault Refusal := .next (waitRead s s.ev.a)

/-- The WAIT of queue a has waited for its timeout. -/
def Machine.execWaitCommandTimeout (s : State) : Host.Outcome State Fault Refusal :=
  .next (match (Tbl.find s.queues s.ev.a).bind (·.run) with
    | some (.wait t _ _ limit) => if limit != 0 && t + 2100 * limit ≤ clkNat s then queueError s s.ev.a 5 0 else s
    | _ => s)

/-! ## NOP and WAKE -/

def Machine.execNopCommand (s : State) : Host.Outcome State Fault Refusal := command 5 (fun s qid q _ => commandDone s qid q) s

/-- The header of a KIND 7 message (R360). -/
def wakeHeader (s : State) (ctx dev : Nat) : Header :=
  { kind := 7, aop := 0, bytes := 64, ddev := dev, sdev := selfDev s, sctx := ctx, status := 0, off := 0, tag := 0 }

def runWake (s : State) (qid : Nat) (q : Queue) (b : List Byte) : State :=
  let dev := natAt b 8 4
  let a := dwordAt b 16
  if 143 < dev || offPath a || a.toNat % 64 != 0 then queueError s qid 3 0
  else match tableRead s q.owner a 64 with
    | none => queueError s qid 4 0
    | some bs =>
      match peerWay s q.owner dev with
      | .loop => completeCommand (wakeWrite { s with queues := Tbl.put s.queues qid q } false bs) qid q.head
      | .noRoute => commandDone (ctxEvent s q.owner { kind := .wakeNoRoute, a := dev, b := qid }) qid q
      | .links => commandDone (sendCauseway s (wakeHeader s q.owner dev) bs) qid q

def Machine.execWake (s : State) : Host.Outcome State Fault Refusal := command 6 runWake s

end Sys2Proof
end

