-- ==== Sys2Proof/Machine/CrossLane.lean ====
section
/-! DEFINITION. Cross-lane instructions (R153 to R155) and the deprecated microcoded forms (R157, R158). -/

namespace Sys2Proof

open Machine

/-- Write a vector result with no latch. -/
def Issue.scatter (x : Issue) (s : State) (wide : Bool) (d : Nat) (rs : List (Nat × DWord)) : State :=
  x.finish s (x.w.setVlanes wide d rs)

/-- A result for every active lane, no latch. -/
def effCross (f : VFmt) (wide : Bool) (r : Issue → Nat → DWord) (s : State) (x : Issue) : State :=
  x.scatter s wide f.d.toNat (x.lanes.map fun l => (l, r x l))

/-! ## Source lanes (R153) -/

/-- A in a source lane, evaluated as that lane's own. -/
def Issue.remote (x : Issue) (f : VFmt) (k : Nat) : DWord := selVal x.w (x.w.fragOf k) x.f f.ty 0 f.a k

/-- A in the source lane, or C. -/
def laneFar (f : VFmt) (x : Issue) (l : Nat) : DWord :=
  match sourceLane x.i x.w x.fid x.f l with
  | some k => x.remote f k
  | none => x.srcC f f.ty l

def Machine.execVshfl (f : VFmt) (s : State) : Host.Outcome State Fault Refusal := issue (.vshfl f) false (effCross f f.ty.isL (laneFar f)) s
def Machine.execVbcast (f : VFmt) (s : State) : Host.Outcome State Fault Refusal := issue (.vbcast f) false (effCross f f.ty.isL (laneFar f)) s
def Machine.execVrot (f : VFmt) (s : State) : Host.Outcome State Fault Refusal := issue (.vrot f) false (effCross f f.ty.isL (laneFar f)) s

/-! ## Ballot (R154) -/

def effVballot (f : VFmt) (s : State) (x : Issue) : State :=
  x.finish s (x.w.setTriple x.f.lanes f.d.toNat (maskOfList (x.lanes.filter fun l => (x.srcA f f.ty l).getLsbD 0)))

def Machine.execVballot (f : VFmt) (s : State) : Host.Outcome State Fault Refusal := issue (.vballot f) false (effVballot f) s

/-! ## Reductions and scans (R155) -/

/-- Contributors of a lane: active lanes of its group. -/
def Issue.contributors (x : Issue) (f : VFmt) (l : Nat) : List Nat :=
  x.lanes.filter fun k => groupBase f.groupW k == groupBase f.groupW l

/-- The exact sum of f-elements, rounded once. -/
def sumFloat (ff : FF) (e : FEnv) (l : Nat) (xs : List Nat) : Nat :=
  let xs := xs.map (ff.flush (e.ftz ff))
  match xs.find? ff.isNan with
  | some n => ff.quiet n
  | none =>
    let vs := xs.map ff.dec
    let pos := vs.any (fun v => v == .inf false)
    let neg := vs.any (fun v => v == .inf true)
    if pos && neg then ff.tag e.ntag l e.pc
    else if pos || neg then ff.round e.rm e.sat (e.ftz ff) (.inf neg)
    else
      let t : Rat := vs.foldl (fun a v => a + v.rat) 0
      let zneg := e.rm == .rdn || vs.all (fun v => v == .fin true 0)
      ff.round e.rm e.sat (e.ftz ff) (.ofRat zneg t)

/-- Smallest or largest of elements with −0 < +0; the first NaN wins. -/
def bestFloat (ff : FF) (e : FEnv) (isMax : Bool) (xs : List Nat) : Nat :=
  let xs := xs.map (ff.flush (e.ftz ff))
  match xs.find? ff.isNan with
  | some n => ff.quiet n
  | none => match xs with
    | [] => 0
    | x :: t => t.foldl (fun b y => if (if isMax then (ff.dec b).lt (ff.dec y) else (ff.dec y).lt (ff.dec b)) then y else b) x

/-- The identity of an operation. -/
def redIdentity (f : VFmt) (op : Nat) : Nat :=
  let w := f.ty.width
  match op with
  | 1 => if f.ty.isFloat then f.ty.ff.infMag.getD 0 else wrapI w (hiI f.ty.isSigned w)
  | 2 => if f.ty.isFloat then f.ty.ff.signed true (f.ty.ff.infMag.getD 0) else wrapI w (loI f.ty.isSigned w)
  | 3 => 2 ^ w - 1
  | _ => 0

/-- One element position combined over contributors in ascending lane order. -/
def redElem (f : VFmt) (x : Issue) (l op : Nat) (xs : List Nat) : Nat :=
  if xs.isEmpty then redIdentity f op
  else
    match op with
    | 0 =>
      if f.ty.isFloat then sumFloat f.ty.ff (x.venv f) l xs
      else f.fit (xs.foldl (fun (a : Int) v => a + f.int v) 0)
    | 1 =>
      if f.ty.isFloat then bestFloat f.ty.ff (x.venv f) false xs
      else xs.foldl (fun b v => if f.int v < f.int b then v else b) (xs.headD 0)
    | 2 =>
      if f.ty.isFloat then bestFloat f.ty.ff (x.venv f) true xs
      else xs.foldl (fun b v => if f.int b < f.int v then v else b) (xs.headD 0)
    | 3 => xs.foldl (fun b v => b &&& v) (2 ^ f.ty.width - 1)
    | 4 => xs.foldl (fun b v => b ||| v) 0
    | _ => xs.foldl (fun b v => b ^^^ v) 0

/-- The operation over a set of lanes. -/
def redLanes (f : VFmt) (x : Issue) (l : Nat) (ks : List Nat) : DWord :=
  f.ty.pack ((List.range f.ty.count).map fun i =>
    redElem f x l (f.x.toNat % 16) (ks.map fun k => elemAt f.ty.width (x.srcA f f.ty k) i))

def laneRed (f : VFmt) (x : Issue) (l : Nat) : DWord := redLanes f x l (x.contributors f l)

/-- `inc` takes k ≤ l, `exc` k < l. -/
def laneScan (f : VFmt) (x : Issue) (l : Nat) : DWord :=
  redLanes f x l ((x.contributors f l).filter fun k => if f.x.getLsbD 6 then decide (k < l) else decide (k ≤ l))

def Machine.execVred (f : VFmt) (s : State) : Host.Outcome State Fault Refusal := issue (.vred f) false (effCross f f.ty.isL (laneRed f)) s
def Machine.execVscan (f : VFmt) (s : State) : Host.Outcome State Fault Refusal := issue (.vscan f) false (effCross f f.ty.isL (laneScan f)) s

/-- Contributors with a nonzero value: those before l, or all under `tot`. -/
def laneNzs (f : VFmt) (x : Issue) (l : Nat) : DWord :=
  BitVec.ofNat 64 ((x.contributors f l).filter fun k => (f.x.getLsbD 6 || decide (k < l)) && x.srcA f f.ty k != 0).length

def Machine.execVnzs (f : VFmt) (s : State) : Host.Outcome State Fault Refusal := issue (.vnzs f) false (effCross f f.ty.isL (laneNzs f)) s

/-- Lowest contributor with an equal value; lane l itself is one. -/
def laneMatch (f : VFmt) (x : Issue) (l : Nat) : DWord :=
  BitVec.ofNat 64 (((x.contributors f l).find? fun k => x.srcA f f.ty k == x.srcA f f.ty l).getD l)

def Machine.execVmatch (f : VFmt) (s : State) : Host.Outcome State Fault Refusal := issue (.vmatch f) false (effCross f f.ty.isL (laneMatch f)) s

/-! ## Deprecated forms (R157, R158): sources at step 0, D at the last step -/

/-- One step of a form of n steps. -/
def effSteps (f : VFmt) (n : Nat) (r : Issue → Nat → DWord) (s : State) (x : Issue) : State :=
  let p := x.f.pidx.toNat
  let vals : Tbl DWord := if p = 0 then x.lanes.foldl (fun t l => Tbl.write 0 t l (r x l)) [] else x.f.hidden.headD []
  let lanes := if p = 0 then x.act else x.f.hidAct
  if p + 1 < n then
    modFrag s x.wid x.fid fun g => { g with pidx := BitVec.ofNat 32 (p + 1), hidden := [vals], hidAct := lanes }
  else x.scatter s f.ty.isL f.d.toNat ((lanesOf (lanes &&& x.w.alive)).map fun l => (l, Tbl.read 0 vals l))

/-- Low 24 bits as an integer of the type's sign. -/
def ext24 (signed : Bool) (v : DWord) : Int := toI signed 24 (v.toNat % 2 ^ 24)

def laneMad24 (f : VFmt) (x : Issue) (l : Nat) : DWord :=
  let s := f.ty.isSigned
  BitVec.ofNat 64 (wrapI 32 (ext24 s (x.srcA f f.ty l) * ext24 s (x.srcB f f.ty l) + (x.srcC f f.ty l).toNat))

def Machine.execVmad24 (f : VFmt) (s : State) : Host.Outcome State Fault Refusal := issue (.vmad24 f) false (effSteps f 2 (laneMad24 f)) s

def Machine.execVbfly (f : VFmt) (s : State) : Host.Outcome State Fault Refusal := issue (.vbfly f) false (effSteps f 3 (laneFar f)) s

/-- C plus the sum of absolute differences of bytes. -/
def laneSad4 (f : VFmt) (x : Issue) (l : Nat) : DWord :=
  let d (i : Nat) : Nat := ((elemAt 8 (x.srcA f f.ty l) i : Int) - elemAt 8 (x.srcB f f.ty l) i).natAbs
  BitVec.ofNat 64 (((x.srcC f f.ty l).toNat + d 0 + d 1 + d 2 + d 3) % 2 ^ 32)

def Machine.execVsad4 (f : VFmt) (s : State) : Host.Outcome State Fault Refusal := issue (.vsad4 f) false (effSteps f 4 (laneSad4 f)) s

end Sys2Proof
end

