-- ==== Sys2Proof/Machine/PumpHouse.lean ====
section
/-! DEFINITION. The custom instructions of the service cores (R338 to R340, Tables 17.1 to 17.3). -/

namespace Sys2Proof

open Machine

/-! ## Registers and exceptions -/

/-- A register; x0 reads 0. -/
def Machine.PhCore.reg (c : PhCore) (n : BitVec 5) : DWord := if n = 0 then 0 else Tbl.read 0 c.x n.toNat

/-- A register written; x0 discards. -/
def Machine.PhCore.setReg (c : PhCore) (n : BitVec 5) (v : DWord) : PhCore := if n = 0 then c else { c with x := Tbl.write 0 c.x n.toNat v }

/-- An instruction is over: the PC moves on, a wait ends, and minstret counts it. -/
def Machine.PhCore.retired (c : PhCore) (pc : DWord) : PhCore :=
  { c with pc := pc, wait := none, csr := Tbl.write 0 c.csr 0xB02 (Tbl.read 0 c.csr 0xB02 + 1) }

/-- Bytes stored to pump-house SRAM; a reservation that they touch is lost. -/
def storeSram (s : State) (a : Nat) (bs : List Byte) : State :=
  { s with
    sram := Memory.stores s.sram a bs,
    ph := Tbl.mapVals s.ph fun _ c =>
      { c with resv := c.resv.filter fun r => !(decide (r.1 < a + bs.length) && decide (a < r.1 + r.2)) } }

/-- What an instruction does on its core: an exception with its mcause and mtval, or a result in rd and the state otherwise. -/
inductive PhRes where
  | trap (cause : Nat) (tval : DWord)
  | done (v : DWord) (s : State)

/-- The instruction on the core in focus: machine mode only (R339), an exception without any effect (R340), or rd written and the PC
moved on. -/
def phOp (i : Instr) (rd : BitVec 5) (act : State → Nat → PhCore → PhRes) (s : State) : Host.Outcome State Fault Refusal :=
  match s.focus with
  | some (.ph k) =>
    (match Tbl.find s.ph k with
     | none => .fault .noFocus
     | some c =>
       if !c.machine then .next (phTrap s k 2 ((i.encode.headD 0).setWidth 64))
       else match act s k c with
         | .trap cause tval => .next (phTrap s k cause tval)
         | .done v s' => .next { s' with ph := Tbl.modify s'.ph k fun c => (c.setReg rd v).retired (c.pc + 4) })
  | _ => .fault .noFocus

/-- A buffer in pump-house SRAM. -/
def sramOk (a : DWord) (align n : Nat) : Bool := a.toNat % align == 0 && decide (a.toNat + n ≤ 0x400000)

/-- The queue that a register names, or PHQUEUE. -/
def phQueue (s : State) (v : DWord) (go : Nat → Queue → PhRes) : PhRes :=
  match (if v.toNat < 4096 then Tbl.find s.queues v.toNat else none) with
  | some q => if q.used then go v.toNat q else .trap 24 v
  | none => .trap 24 v

/-! ## Queues -/

def phRing (rs1 rs2 : BitVec 5) (s : State) (_ : Nat) (c : PhCore) : PhRes :=
  phQueue s (c.reg rs1) fun _ q =>
    let buf := c.reg rs2
    if !sramOk buf 64 64 then .trap 27 buf
    else if q.head = q.tail then .done (-1) s
    else
      let va := q.base + BitVec.ofNat 64 (64 * (q.head.toNat % q.slots))
      match tableRead s q.owner va 64 with
      | none => .trap 25 va
      | some bs => .done (q.head.setWidth 64) (storeSram s buf.toNat bs)

def Machine.execPhring (rd rs1 rs2 : BitVec 5) (s : State) : Host.Outcome State Fault Refusal :=
  phOp (.phring rd rs1 rs2) rd (phRing rs1 rs2) s

/-- The queue after `phretire`: its next command may start, but for a launch that is still on its way (R289, R341 step 4). -/
def Machine.Queue.retired (q : Queue) : Queue :=
  match q.run with
  | some (.handed id) => { q with head := q.head + 1, run := some (.launch id q.head) }
  | some (.launch _ _) => { q with head := q.head + 1 }
  | _ => q.advanced (q.head + 1)

def phRetire (rs1 : BitVec 5) (s : State) (_ : Nat) (c : PhCore) : PhRes :=
  phQueue s (c.reg rs1) fun k q =>
    if q.head = q.tail then .trap 24 (c.reg rs1)
    else .done ((q.head + 1).setWidth 64) { s with queues := Tbl.put s.queues k q.retired }

def Machine.execPhretire (rd rs1 : BitVec 5) (s : State) : Host.Outcome State Fault Refusal := phOp (.phretire rd rs1) rd (phRetire rs1) s

/-! ## Bit fields -/

def phField (sign : Bool) (rs1 rs2 : BitVec 5) (s : State) (_ : Nat) (c : PhCore) : PhRes :=
  let f := (c.reg rs2).toNat
  let pos := f % 64
  let width := f / 256 % 64 + 1
  if 64 < pos + width || f / 64 % 4 != 0 || f / 2 ^ 14 != 0 then .trap 26 (c.reg rs2)
  else .done (BitVec.ofInt 64 (toI sign width ((c.reg rs1).toNat / 2 ^ pos % 2 ^ width))) s

def Machine.execPhbfx (rd rs1 rs2 : BitVec 5) (s : State) : Host.Outcome State Fault Refusal :=
  phOp (.phbfx rd rs1 rs2) rd (phField false rs1 rs2) s

def Machine.execPhbfxS (rd rs1 rs2 : BitVec 5) (s : State) : Host.Outcome State Fault Refusal :=
  phOp (.phbfxS rd rs1 rs2) rd (phField true rs1 rs2) s

/-! ## Waiting for signals -/

/-- A core that waits stays at its instruction until a masked bit is set. -/
def Machine.execPhwait (rd rs1 rs2 : BitVec 5) (s : State) : Host.Outcome State Fault Refusal :=
  match s.focus with
  | some (.ph k) =>
    (match Tbl.find s.ph k with
     | none => .fault .noFocus
     | some c =>
       if c.machine && c.sig &&& c.reg rs1 == 0 then
         .next { s with ph := Tbl.put s.ph k
                          { c with wait := match c.wait with | some w => some w | none => some (rd.toNat, c.reg rs2, clkNat s) } }
       else
         phOp (.phwait rd rs1 rs2) rd (fun s k c =>
           .done (c.sig &&& c.reg rs1) { s with ph := Tbl.put s.ph k { c with sig := c.sig &&& ~~~(c.reg rs1) } }) s)
  | _ => .fault .noFocus

/-- The `phwait` of core a has waited for its timeout, of core cycles at 1.5 GHz. -/
def Machine.execPhwaitTimeout (s : State) : Host.Outcome State Fault Refusal :=
  .next (match (Tbl.find s.ph s.ev.a).bind fun c => c.wait.map fun w => (c, w) with
    | some (c, rd, limit, since) =>
      let set := match (phWord s s.ev.a).bind decodePh with
        | some (.phwait _ rs1 _) => c.sig &&& c.reg rs1 != 0
        | _ => true
      if !set && limit != 0 && decide (5 * since + 7 * limit.toNat ≤ 5 * clkNat s) then
        { s with ph := Tbl.put s.ph s.ev.a ((c.setReg (BitVec.ofNat 5 rd) 0).retired (c.pc + 4)) }
      else s
    | none => s)

/-! ## Dispatch and capabilities -/

/-- The deadline in the command at a queue's head, and FLAGS[0]. -/
def headOperands (s : State) (q : Queue) : DWord × Bool :=
  match headSlot s q with
  | some b => (dwordAt b 16, natAt b 1 1 % 2 == 1)
  | none => (0, false)

/-- A launch joins its intake; without its first records when they cannot be copied (log 72). -/
def handOver (s : State) (part : Nat) (L : Launch) : Option (Nat × State) :=
  match enterIntake s part L with
  | some r => some r
  | none => enterIntake s part { L with lrec := { L.lrec with firstcnt := 0 } }

def phDisp (rs1 rs2 : BitVec 5) (s : State) (_ : Nat) (c : PhCore) : PhRes :=
  phQueue s (c.reg rs2) fun k q =>
    let buf := c.reg rs1
    if !sramOk buf 256 256 then .trap 27 buf
    else match handedRecord s q.owner (Memory.bytes s.sram buf.toNat 256), partOf s q.owner with
      | .error o, _ => .trap 28 (BitVec.ofNat 64 o)
      | .ok _, none => .done 1 s
      | .ok y, some part =>
        let o := headOperands s q
        if intakeFull s part then .done 1 s
        else match handOver s part (newLaunch k q o.1 y) with
          | none => .done 1 s
          | some (id, s') =>
            .done 0 (deadlineCheck { s' with queues := Tbl.put s'.queues k { q with run := some (.handed id), st := .running, vec := o.2 } } k
              (newLaunch k q o.1 y))

def Machine.execPhdisp (rd rs1 rs2 : BitVec 5) (s : State) : Host.Outcome State Fault Refusal :=
  phOp (.phdisp rd rs1 rs2) rd (phDisp rs1 rs2) s

/-- The first condition of R288 but for those of the tail that a capability fails. -/
def unsealFails (s : State) (cap : List Byte) : Nat :=
  let c := capFails s cap []
  if c != 0 then c else if capRight cap 0 then 0 else 4

def phUnseal (rs1 : BitVec 5) (s : State) (_ : Nat) (c : PhCore) : PhRes :=
  let a := c.reg rs1
  if !sramOk a 32 32 then .trap 27 a else .done (BitVec.ofNat 64 (unsealFails s (Memory.bytes s.sram a.toNat 32))) s

def Machine.execPhunseal (rd rs1 : BitVec 5) (s : State) : Host.Outcome State Fault Refusal := phOp (.phunseal rd rs1) rd (phUnseal rs1) s

def phSeal (rs1 : BitVec 5) (s : State) (_ : Nat) (c : PhCore) : PhRes :=
  let a := c.reg rs1
  if !sramOk a 32 32 then .trap 27 a
  else .done 0 (storeSram s a.toNat (sealCap s.board.capKey (Memory.bytes s.sram a.toNat 32)))

def Machine.execPhseal (rd rs1 : BitVec 5) (s : State) : Host.Outcome State Fault Refusal := phOp (.phseal rd rs1) rd (phSeal rs1) s

end Sys2Proof
end

