-- ==== Sys2Proof/Machine/Paging.lean ====
section
/-! DEFINITION. Building and changing page tables: leaves, splits, the checks of R324, shootdown of locked entries (R321, R322, R324,
R325, R329, R330). -/

namespace Sys2Proof

open Machine

/-! ## Frames -/

/-- Bytes of memory from an address on, cleared. -/
def clearRange (m : Memory) (a n : Nat) : Memory := Tbl.keep m fun k _ => !(decide (a ≤ k) && decide (k < a + n))

/-- A 64-KiB frame stands in a populated channel of a partition (R321, R324). -/
def frameOk (s : State) (part pa : Nat) : Bool :=
  decide (pa < 2 ^ 39) && decide (pa % 2 ^ 33 < 0x180000000) &&
  match Tbl.find s.parts part with
  | some p => p.chmask.getLsbD (8 * (pa / 2 ^ 36 % 8) + pa / 2 ^ 33 % 8)
  | none => false

/-- Numbers of the entries of a table that are not 0. -/
def entriesIn (m : Memory) (base bytes : Nat) : List Nat :=
  ((m.filter fun c => decide (base ≤ c.1) && decide (c.1 < base + bytes)).map fun c => (c.1 - base) / 8).eraseDups

/-- Frames of every leaf of a table of a level: physical address, size, CV. -/
def leavesFrom (s : State) : Nat → Nat → Nat → List (Nat × Nat × Bool)
  | 0, _, _ => []
  | fuel + 1, lvl, base =>
    (entriesIn s.hbm base (8 * 2 ^ levelBits lvl)).flatMap fun i =>
      let e := tableEntry s (base + 8 * i)
      let addr := e.toNat / 256 % 2 ^ 40 * 256
      if !e.getLsbD 0 then []
      else if e.getLsbD 1 then [(addr, 2 ^ levelShift lvl, e.getLsbD 7)]
      else if lvl = 3 then []
      else leavesFrom s fuel (lvl + 1) addr

/-- Frames that any context maps. -/
def allLeaves (s : State) : List (Nat × Nat × Bool) := s.ctxs.flatMap fun c => leavesFrom s 4 0 c.2.desc.ptroot

/-- Some leaf maps a byte of a frame with a given CV. -/
def mappedAs (s : State) (cv : Bool) (pa n : Nat) : Bool :=
  (allLeaves s).any fun l => l.2.2 == cv && decide (l.1 < pa + n) && decide (pa < l.1 + l.2.1)

/-! ## Tables -/

/-- Memory for page tables of a partition: the top 64 MiB of its lowest channel. DESIGN CHOICE (log 13). -/
def tablePool (s : State) (part : Nat) : Option Nat :=
  (Tbl.find s.parts part).bind fun p =>
    ((List.range 64).find? fun k => p.chmask.getLsbD k).map fun k => k / 8 * 2 ^ 36 + k % 8 * 2 ^ 33 + 0x17C000000

/-- A fresh table of a level, zeroed; none when the pool is used up. -/
def newTable (s : State) (part lvl : Nat) : Option (Nat × State) :=
  match tablePool s part, Tbl.find s.parts part with
  | some base, some p =>
    let size := 8 * 2 ^ levelBits lvl
    let o := (p.tables + size - 1) / size * size
    if 0x4000000 < o + size then none
    else some (base + o, { s with parts := Tbl.put s.parts part { p with tables := o + size }, hbm := clearRange s.hbm (base + o) size })
  | _, _ => none

def setEntry (s : State) (pa : Nat) (e : DWord) : State := storeHbm s pa (leBytes 8 e.toNat)

/-- A leaf entry: frame and flags [7:2]. -/
def leafEntry (pa flags : Nat) : DWord := BitVec.ofNat 64 (pa / 256 * 256 + flags % 256 / 4 * 4 + 3)

/-- A larger leaf becomes a table of leaves of the next smaller size with the same bytes and flags (R329). -/
def splitLeaf (s : State) (part lvl slot : Nat) (e : DWord) : Option (Nat × State) :=
  (newTable s part (lvl + 1)).map fun q =>
    let addr := e.toNat / 256 % 2 ^ 40 * 256 / 2 ^ levelShift lvl * 2 ^ levelShift lvl
    let s := (List.range (2 ^ levelBits (lvl + 1))).foldl (fun s i =>
      setEntry s (q.1 + 8 * i) (leafEntry (addr + i * 2 ^ levelShift (lvl + 1)) e.toNat)) q.2
    (q.1, setEntry s slot (BitVec.ofNat 64 (q.1 + 1)))

/-- Put an entry at a level for a virtual offset, making or splitting the tables above it; an entry of 0 makes none. -/
def putEntry (part va target : Nat) (e : DWord) : Nat → Nat → Nat → State → Option State
  | 0, _, _, _ => none
  | fuel + 1, lvl, base, s =>
    let slot := base + 8 * (va / 2 ^ levelShift lvl % 2 ^ levelBits lvl)
    if lvl = target then some (setEntry s slot e)
    else
      let old := tableEntry s slot
      if old.getLsbD 0 && !old.getLsbD 1 then putEntry part va target e fuel (lvl + 1) (old.toNat / 256 % 2 ^ 40 * 256) s
      else if old.getLsbD 0 && lvl != 0 then
        (splitLeaf s part lvl slot old).bind fun q => putEntry part va target e fuel (lvl + 1) q.1 q.2
      else if e = 0 then some s
      else (newTable s part (lvl + 1)).bind fun q =>
        putEntry part va target e fuel (lvl + 1) q.1 (setEntry q.2 slot (BitVec.ofNat 64 (q.1 + 1)))

/-! ## Ranges -/

/-- The level of the largest leaf that fits at a place: 1 for 1 GiB, 2 for 2 MiB, 3 for 64 KiB. -/
def leafLevel (va pa left : Nat) : Nat :=
  if va % 2 ^ 30 = 0 && pa % 2 ^ 30 = 0 && 2 ^ 30 ≤ left then 1
  else if va % 2 ^ 21 = 0 && pa % 2 ^ 21 = 0 && 2 ^ 21 ≤ left then 2
  else 3

/-- Map a range, leaf by leaf. -/
def mapRange (part root flags : Nat) : Nat → Nat → Nat → Nat → State → Option State
  | 0, _, _, _, s => some s
  | fuel + 1, va, pa, left, s =>
    if left = 0 then some s
    else
      let lvl := leafLevel va pa left
      let n := 2 ^ levelShift lvl
      (putEntry part va lvl (leafEntry pa flags) 4 0 root s).bind fun s => mapRange part root flags fuel (va + n) (pa + n) (left - n) s

/-- Unmap a range. -/
def unmapRange (part root : Nat) : Nat → Nat → Nat → State → Option State
  | 0, _, _, s => some s
  | fuel + 1, va, left, s =>
    if left = 0 then some s
    else
      let lvl := leafLevel va 0 left
      let n := 2 ^ levelShift lvl
      (putEntry part va lvl 0 4 0 root s).bind fun s => unmapRange part root fuel (va + n) (left - n) s

/-- Change the flags of a range; what is not mapped stays so. -/
def protectRange (part root flags : Nat) : Nat → Nat → Nat → State → Option State
  | 0, _, _, s => some s
  | fuel + 1, va, left, s =>
    if left = 0 then some s
    else match walkTables s va 4 0 root with
      | none => protectRange part root flags fuel (va + 65536) (left - 65536) s
      | some (e, sh) =>
        let pa := e.toNat / 2 ^ sh % 2 ^ (48 - sh) * 2 ^ sh + va % 2 ^ sh
        let fit := leafLevel va va left
        let whole := if sh = 30 then 1 else if sh = 21 then 2 else 3
        let lvl := max fit whole
        let n := 2 ^ levelShift lvl
        (putEntry part va lvl (leafEntry pa flags) 4 0 root s).bind fun s => protectRange part root flags fuel (va + n) (left - n) s

/-! ## Shootdown (R329, R330) -/

/-- Locked entries of the pages of a context that no longer are mapped with the same size become invalid. -/
def shootdown (s : State) (ctx : Nat) : State :=
  { s with wgs := Tbl.mapVals s.wgs fun _ g =>
      if g.ctx != ctx then g
      else { g with locks := g.locks.map fun r => { r with pages := r.pages.map fun p =>
        let same := match leafOf s ctx p.1 with | some (_, sh) => 2 ^ sh == p.2.1 | none => false
        (p.1, p.2.1, if p.2.2 = .locked && !same then .invalid else p.2.2) } } }

/-- CV frames of a range that no leaf maps with CV yet are cleared to zero (R325). -/
def clearFirst (s : State) (pa size : Nat) : State :=
  let cvs := (allLeaves s).filter fun l => l.2.2
  { s with hbm := (List.range (size / 65536)).foldl (fun m i =>
      let a := pa + 65536 * i
      if cvs.any fun l => decide (l.1 < a + 65536) && decide (a < l.1 + l.2.1) then m else clearRange m a 65536) s.hbm }

/-- Operands of MAP, UNMAP and PROTECT that any of them takes. -/
def rangeOk (va size : Nat) : Bool := va % 65536 == 0 && size % 65536 == 0 && size != 0 && decide (va + size ≤ 2 ^ 57)

/-- Frames of a range in 64-KiB steps. -/
def framesOk (s : State) (part pa size : Nat) : Bool := (List.range (size / 65536)).all fun i => frameOk s part (pa + 65536 * i)

/-- The largest leaf that fits somewhere in a range is 1 GiB. -/
def holdsGiga (va pa size : Nat) : Bool :=
  let k := (va + 2 ^ 30 - 1) / 2 ^ 30 * 2 ^ 30
  decide (k + 2 ^ 30 ≤ va + size) && (pa + (k - va)) % 2 ^ 30 == 0

/-- MAP: leaves for a range; none when it is refused, as it is for a CV range that takes a 1-GiB leaf (R324). -/
def mapPages (s : State) (ctx va size pa flags : Nat) : Option State :=
  match Tbl.find s.ctxs ctx with
  | none => none
  | some c =>
    let cv := flags / 128 % 2 == 1
    if !rangeOk va size || pa % 65536 != 0 || flags % 4 != 0 || 256 ≤ flags || !framesOk s c.desc.part pa size || (cv && holdsGiga va pa size) || mappedAs s (!cv) pa size then none
    else
      let s := if cv then clearFirst s pa size else s
      (mapRange c.desc.part c.desc.ptroot flags (size / 65536) va pa size s).map fun s => shootdown s ctx

def unmapPages (s : State) (ctx va size : Nat) : Option State :=
  match Tbl.find s.ctxs ctx with
  | none => none
  | some c =>
    if !rangeOk va size then none
    else (unmapRange c.desc.part c.desc.ptroot (size / 65536) va size s).map fun s => shootdown s ctx

/-- Frames that a range maps, in 64-KiB steps. -/
def framesOf (s : State) (ctx va size : Nat) : List (Nat × Bool) :=
  (List.range (size / 65536)).filterMap fun i => (leafOf s ctx (va + 65536 * i)).map fun l =>
    (l.1.toNat / 2 ^ l.2 % 2 ^ (48 - l.2) * 2 ^ l.2 + (va + 65536 * i) % 2 ^ l.2, l.1.getLsbD 7)

def protectPages (s : State) (ctx va size flags : Nat) : Option State :=
  match Tbl.find s.ctxs ctx with
  | none => none
  | some c =>
    let cv := flags / 128 % 2 == 1
    if !rangeOk va size || flags % 4 != 0 || 256 ≤ flags || (framesOf s ctx va size).any (fun f => f.2 != cv) then none
    else (protectRange c.desc.part c.desc.ptroot flags (size / 65536) va size s).map fun s => shootdown s ctx

end Sys2Proof
end

