-- ==== Sys2Proof/Machine/Messages.lean ====
section
/-! DEFINITION. Driver messages and their answers (R343, R357, Table 17.6). The places of operands within a message are log 9. -/

namespace Sys2Proof

open Machine

/-! ## Rings (R343, R357) -/

def ringOf (s : State) (ring : Nat) : Ring := Tbl.read .reset s.board.rings ring

def setRing (s : State) (ring : Nat) (r : Ring) : State := modBoard s fun b => { b with rings := Tbl.write .reset b.rings ring r }

/-- Offset of the slot of a ring's next message. -/
def Machine.Ring.slotAt (r : Ring) : Nat := 128 * (r.mhead.toNat % r.mslots.toNat)

/-- The next message of a ring that has one. -/
def messageAt (s : State) (ring : Nat) : Option (List Byte) :=
  let r := ringOf s ring
  if 16 ≤ ring || r.mslots = 0 || r.mhead = r.mtail then none else some (Memory.bytes s.host (r.mbase.toNat + r.slotAt) 128)

/-- What serving a message gives: STATUS, results from +8, and the state. -/
structure Reply where
  status  : Nat
  results : List Byte
  state   : State
  deriving DecidableEq, Repr

def refuse (s : State) : Reply := { status := 1, results := [], state := s }

def done (s : State) : Reply := { status := 0, results := [], state := s }

def doneIf (s : Option State) (was : State) : Reply :=
  match s with
  | some t => done t
  | none => refuse was

/-- Write the answer, raise MHEAD, raise the ring's vector, in that order. Bytes that the answer does not state are free (log 12). -/
def answerRing (ring : Nat) (msg : List Byte) (p : Reply) : State :=
  let s := p.state
  let r := ringOf s ring
  let body := leBytes 4 p.status ++ (msg.drop 4).take 4 ++ p.results.take 120
  let pad := (List.range (128 - body.length)).map fun i => Config.padByte (s.freeCtr + i)
  let s := { s with host := Memory.stores s.host (r.abase.toNat + r.slotAt) (body ++ pad), freeCtr := s.freeCtr + 128 }
  raiseVec (setRing s ring { r with mhead := r.mhead + 1 }) ring

/-- Messages are served from BOOT 4; in recovery only RESYNC, FWLOAD, FWSWAP and ATTEST are (R345, R370). -/
def served (s : State) (ty : Nat) : Bool := s.board.boot == 4 || (s.board.boot == 15 && decide (18 ≤ ty) && decide (ty ≤ 21))

/-- The pump house serves the next message of ring a, if it is of this type and passes `sel`. -/
def message (ty : Nat) (sel : List Byte → Bool) (run : State → List Byte → Reply) (s : State) : Host.Outcome State Fault Refusal :=
  .next (match messageAt s s.ev.a with
    | none => s
    | some m =>
      let t := natAt m 0 2
      if !served s t then s
      else if t = 0 || 25 < t || natAt m 2 2 != 0 then answerRing s.ev.a m { status := 2, results := [], state := s }
      else if t != ty || !sel m then s
      else answerRing s.ev.a m (run s m))

/-- Operand k of a message (log 9). -/
def operand (m : List Byte) (k : Nat) : Nat := natAt m (8 + 8 * k) 8

def always (_ : List Byte) : Bool := true

/-! ## Contexts (R283, R380) -/

/-- Table 14.2. -/
def parseDesc (bs : List Byte) : CtxDesc :=
  { ptroot := natAt bs 0 8, part := bitsAt bs 8 10 8, classes := BitVec.ofNat 5 (natAt bs 8 1), wsbase0 := natAt bs 16 2,
    wslen0 := natAt bs 18 2, wsbase1 := natAt bs 20 2, wslen1 := natAt bs 22 2, hostbase := natAt bs 24 8, hostlen := natAt bs 32 8,
    csave := natAt bs 40 8, csavelen := natAt bs 48 8, wdog := natAt bs 58 2, peerto := natAt bs 56 2, lockcap := bitsAt bs 60 8 0,
    budget := (List.range 5).foldl (fun t c => (List.range 5).foldl (fun t k => Tbl.write 0 t (8 * c + k) (natAt bs (64 + 32 * c + 4 * k) 4)) t) [] }

/-- A descriptor breaks Table 14.2. -/
def badDesc (bs : List Byte) : Bool :=
  let d := parseDesc bs
  bitsAt bs 8 31 11 != 0 || bitsAt bs 8 7 5 != 0 || natAt bs 12 4 != 0 || bitsAt bs 60 31 9 != 0 || (bs.drop 224).any (· != 0) ||
  ((List.range 5).any fun c => ((bs.drop (84 + 32 * c)).take 12).any (· != 0)) ||
  decide (8192 < d.wsbase0 + d.wslen0) || decide (8192 < d.wsbase1 + d.wslen1) || d.csave % 65536 != 0 || decide (256 < d.lockcap) ||
  d.ptroot % 2 ^ 21 != 0 || decide (2 ^ 48 ≤ d.ptroot)

/-- The descriptor that a message names by its host address. -/
def descOf (s : State) (m : List Byte) : Option CtxDesc :=
  let bs := Memory.bytes s.host (operand m 1) 256
  if badDesc bs then none else some (parseDesc bs)

def Machine.Ctx.fresh (d : CtxDesc) : Ctx :=
  { desc := d, pending := none, tq := [], tqmask := 0xFFFFFFFF, events := 0, log := .empty, handler := none, hkeep := ([], [], [], []), paging := false,
    protMsgs := false, parks := [], halted := none, capture := none, nextWarp := 0, spent := [], charged := [], later := (0, []), drops := 0 }

def Machine.execCtxnew (s : State) : Host.Outcome State Fault Refusal :=
  message 1 always (fun s m =>
    match descOf s m with
    | none => refuse s
    | some d =>
      if 1024 ≤ operand m 0 || (Tbl.find s.ctxs (operand m 0)).isSome then refuse s
      else done { s with ctxs := Tbl.put s.ctxs (operand m 0) (.fresh d) }) s

/-- A live context's descriptor changes at the next period boundary, its PTROOT at once by a shootdown of every page. -/
def Machine.execCtxset (s : State) : Host.Outcome State Fault Refusal :=
  message 2 always (fun s m =>
    match descOf s m, Tbl.find s.ctxs (operand m 0) with
    | some d, some c =>
      done (shootdown { s with ctxs := Tbl.put s.ctxs (operand m 0) { c with desc := { c.desc with ptroot := d.ptroot }, pending := some d } }
        (operand m 0))
    | _, _ => refuse s) s

/-- Peer-grant entry fields (Table 16.4). -/
def grantSdev (g : DWord) : Nat := g.toNat / 2 ^ 32 % 512

def grantSctx (g : DWord) : Nat := g.toNat / 2 ^ 16 % 1024

def grantTctx (g : DWord) : Nat := g.toNat % 1024

/-- A context is removed with its tables, the grants that name it, and its registrations. -/
def freeCtx (s : State) (ctx : Nat) (c : Ctx) : State :=
  { s with
    ctxs := Tbl.del s.ctxs ctx, hbm := clearRange s.hbm c.desc.ptroot (2 ^ 21),
    grants := Tbl.keep s.grants fun _ g => grantSctx g != ctx && grantTctx g != ctx, msgs := Tbl.keep s.msgs fun _ f => f.ctx != ctx }

def Machine.execCtxfree (s : State) : Host.Outcome State Fault Refusal :=
  message 3 always (fun s m =>
    match Tbl.find s.ctxs (operand m 0) with
    | none => refuse s
    | some c =>
      if (s.queues.any fun q => q.2.used && q.2.owner == operand m 0) || (s.launches.any fun l => l.2.ctx == operand m 0) then refuse s
      else done (freeCtx s (operand m 0) c)) s

/-! ## Partitions (R284) -/

/-- Work of a partition's contexts is resident. -/
def partBusy (s : State) (part : Nat) : Bool :=
  let on (c : Nat) : Bool := (Tbl.find s.ctxs c).any fun x => x.desc.part == part
  (s.wgs.any fun g => g.2.resid != .saved && on g.2.ctx) || (s.launches.any fun l => on l.2.ctx && l.2.nodes.any fun n => n.2.tri.isSome)

/-- A partition descriptor breaks Table 14.3, names a disabled unit, or names a unit of another partition. -/
def badPart (s : State) (n : Nat) (bs : List Byte) : Bool :=
  let cl := natAt bs 0 2 % 4096
  let lk := natAt bs 4 4 % 2 ^ 18
  let ch := natAt bs 8 8
  let b := s.board.cfg
  bitsAt bs 0 31 12 != 0 || bitsAt bs 4 31 18 != 0 || (bs.drop 16).any (· != 0) || cl &&& b.clmask.toNat != cl || lk &&& b.lkmask.toNat != lk ||
  ch &&& b.chmask.toNat != ch ||
  s.parts.any fun p => p.1 != n && (cl &&& p.2.clmask.toNat != 0 || lk &&& p.2.lkmask.toNat != 0 || ch &&& p.2.chmask.toNat != 0)

def Machine.execPartset (s : State) : Host.Outcome State Fault Refusal :=
  message 4 always (fun s m =>
    let n := operand m 0
    let bs := (m.drop 16).take 32
    if 8 ≤ n || badPart s n bs || partBusy s n then refuse s
    else
      let old := Tbl.find s.parts n
      let p : Part := { clmask := BitVec.ofNat 12 (natAt bs 0 2), lkmask := BitVec.ofNat 18 (natAt bs 4 4), chmask := dwordAt bs 8,
                        intake := (old.map (·.intake)).getD [], tables := (old.map (·.tables)).getD 0 }
      done { s with parts := Tbl.put s.parts n p }) s

/-! ## Queues (R286, R342) -/

def Cls.ofCode (n : Nat) : Option Cls := [Cls.d, .v, .g, .l, .b][n]?

/-- The lowest queue number that is free. -/
def freeQueue (s : State) : Option Nat := (List.range 4096).find? fun k => !((Tbl.find s.queues k).any (·.used))

/-- A queue right after its creation. -/
def newQueue (epoch : Word) (owner : Nat) (cls : Cls) (base : DWord) (slots : Nat) : Queue :=
  { used := true, epoch := epoch, owner := owner, cls := cls, base := base, slots := slots, head := 0, tail := 0, st := .idle, err := 0, esub := 0,
    done := 0, tdone := 0, run := none, vec := false, ages := [] }

/-- The bytes of a capability (Table 14.4) with its seal. -/
def capBytes (key : List Byte) (qid rights : Nat) (q : Queue) : List Byte :=
  sealCap key (leBytes 8 q.base.toNat ++ leBytes 8 (q.slots + q.owner * 2 ^ 32 + rights * 2 ^ 48 + qid * 2 ^ 52) ++ zeros 4 ++
    leBytes 4 q.epoch.toNat ++ zeros 8)

/-- Ring lengths: powers of two from 16 to 2^20. -/
def slotsOk (n : Nat) : Bool := (List.range 17).any fun k => n == 2 ^ (k + 4)

def Machine.execQcreate (s : State) : Host.Outcome State Fault Refusal :=
  message 5 always (fun s m =>
    let base := dwordAt m 24
    match Tbl.find s.ctxs (operand m 0), Cls.ofCode (operand m 1), freeQueue s with
    | some c, some cls, some qid =>
      if !classAllowed c.desc cls || offPath base || base.toNat % 4096 != 0 || !slotsOk (operand m 3) || 8 ≤ operand m 4 then refuse s
      else
        let q := newQueue (((Tbl.find s.queues qid).map (·.epoch)).getD 0) (operand m 0) cls base (operand m 3)
        { status := 0, results := capBytes s.board.capKey qid (operand m 4) q, state := { s with queues := Tbl.put s.queues qid q } }
    | _, _, _ => refuse s) s

def Machine.execQfree (s : State) : Host.Outcome State Fault Refusal :=
  message 6 always (fun s m =>
    match Tbl.find s.queues (operand m 0) with
    | none => refuse s
    | some q =>
      if q.used then done { s with queues := Tbl.put s.queues (operand m 0) { q with used := false, epoch := q.epoch + 1, run := none } }
      else refuse s) s

/-- A queue message by a capability that has a right. -/
def byCap (right : Nat) (act : State → Nat → Queue → Reply) (s : State) (m : List Byte) : Reply :=
  let cap := (m.drop 8).take 32
  if capFails s cap [] != 0 || !capRight cap right then refuse s
  else match capQueue s cap with
    | none => refuse s
    | some q => act s (capQid cap) q

/-- The op of a QADMIN message, or one that is none of the three. -/
def adminOp (op : Nat) (m : List Byte) : Bool := natAt m 40 8 == op || decide (2 < natAt m 40 8)

/-- ADMIN operations; an unknown one is refused. -/
def qadmin (op : Nat) (act : Queue → Queue) (s : State) : Host.Outcome State Fault Refusal :=
  message 7 (adminOp op) (fun s m =>
    if 2 < natAt m 40 8 then refuse s
    else byCap 2 (fun s qid q =>
      let q' := act q
      let s' := { s with queues := Tbl.put s.queues qid q' }
      done (if q'.st == .running && q.st != .running && q'.head != q'.tail then setSig s' 0 else s')) s m) s

def Machine.Queue.pause (q : Queue) : Queue := if q.st == .idle || q.st == .running then { q with st := .paused } else q

def Machine.Queue.resume (q : Queue) : Queue :=
  if q.st == .paused then { q with st := if q.run.isSome || q.head != q.tail then .running else .idle } else q

/-- An ADMIN reset discards slots, clears the error, and ends what has not been handed to the dispatcher. A launch that has been handed over
completes later, with no slot left to retire. -/
def Machine.Queue.adminReset (q : Queue) : Queue :=
  let run := match q.run with
    | some (.launch i h) => some (Running.launch i h)
    | some (.handed i) => some (Running.launch i q.head)
    | _ => none
  { q with head := q.tail, err := 0, esub := 0, run := run, ages := [],
           st := if q.st == .paused then .paused else if run.isSome then .running else .idle }

def Machine.execQadminPause (s : State) : Host.Outcome State Fault Refusal := qadmin 0 Machine.Queue.pause s

def Machine.execQadminResume (s : State) : Host.Outcome State Fault Refusal := qadmin 1 Machine.Queue.resume s

def Machine.execQadminReset (s : State) : Host.Outcome State Fault Refusal := qadmin 2 Machine.Queue.adminReset s

def Machine.QSt.code : QSt → Nat
  | .idle => 0
  | .running => 1
  | .paused => 2
  | .error => 3
  | .halted => 4

/-- Table 17.5. -/
def Machine.Queue.status (q : Queue) : List Byte :=
  leBytes 4 q.head.toNat ++ leBytes 4 q.tail.toNat ++ leBytes 4 (q.st.code * 2 ^ 28 + q.err.toNat * 256) ++ leBytes 4 q.esub.toNat ++
  leBytes 8 q.done.toNat ++ leBytes 8 q.tdone.toNat

def Machine.execQstat (s : State) : Host.Outcome State Fault Refusal :=
  message 8 always (byCap 1 fun s _ q => { status := 0, results := q.status, state := s }) s

/-! ## Mappings (R324, R329) -/

def Machine.execMap (s : State) : Host.Outcome State Fault Refusal :=
  message 9 always (fun s m => doneIf (mapPages s (operand m 0) (operand m 1) (operand m 2) (operand m 3) (operand m 4)) s) s

def Machine.execUnmap (s : State) : Host.Outcome State Fault Refusal :=
  message 10 always (fun s m => doneIf (unmapPages s (operand m 0) (operand m 1) (operand m 2)) s) s

def Machine.execProtect (s : State) : Host.Outcome State Fault Refusal :=
  message 11 always (fun s m => doneIf (protectPages s (operand m 0) (operand m 1) (operand m 2) (operand m 4)) s) s

/-- Demand paging and PROT messages of a context. -/
def Machine.execPgreg (s : State) : Host.Outcome State Fault Refusal :=
  message 12 always (fun s m =>
    let v := operand m 1
    if 4 ≤ v || (Tbl.find s.ctxs (operand m 0)).isNone then refuse s
    else done (modCtx s (operand m 0) fun c => { c with paging := v % 2 == 1, protMsgs := v / 2 == 1 })) s

/-- The answer to a fault message. -/
def Machine.execPgans (s : State) : Host.Outcome State Fault Refusal :=
  message 13 always (fun s m =>
    if 1 < operand m 1 || (Tbl.find s.msgs (operand m 0)).isNone then refuse s else done (answerMessage s (operand m 0) (operand m 1 == 0))) s

/-! ## Handlers, grants, kills -/

/-- A handler kernel is named, checked and kept (R310), or none is. -/
def Machine.execHandler (s : State) : Host.Outcome State Fault Refusal :=
  message 14 always (fun s m =>
    let ctx := operand m 0
    let a := dwordAt m 16
    if (Tbl.find s.ctxs ctx).isNone then refuse s
    else if a = 0 then done (modCtx s ctx fun c => { c with handler := none, hkeep := ([], [], [], []) })
    else match (if a.toNat % 256 = 0 then (tableRead s ctx a 256).bind (checkHandler s ctx) else none) with
      | none => refuse s
      | some k =>
        done (modCtx (writeSigns s ctx k.lrec k.loaded.walks) ctx fun c =>
          { c with handler := some k.lrec, hkeep := (k.loaded.wsets, k.loaded.walks, k.loaded.prof, k.targets) })) s

/-- An entry breaks Table 16.4. -/
def badGrant (g : DWord) : Bool :=
  g.toNat / 2 ^ 41 % 2 ^ 19 != 0 || g.toNat / 2 ^ 26 % 64 != 0 || g.toNat / 2 ^ 10 % 64 != 0 || decide (143 < grantSdev g)

def Machine.execPeergrant (s : State) : Host.Outcome State Fault Refusal :=
  message 15 always (fun s m =>
    let i := operand m 0
    let g := dwordAt m 16
    if 4096 ≤ i || badGrant g || (g.getLsbD 63 && s.grants.any fun p => p.1 != i && p.2.getLsbD 63 && grantSdev p.2 == grantSdev g && grantSctx p.2 == grantSctx g) then
      refuse s
    else done { s with grants := Tbl.write 0 s.grants i g }) s

def Machine.execKill (s : State) : Host.Outcome State Fault Refusal :=
  message 16 always (fun s m =>
    if (Tbl.find s.ctxs (operand m 0)).isSome then done (raiseHalt s (operand m 0) 0xFF 0 0) else refuse s) s

/-! ## Logs and the summary (R344, R382) -/

/-- Event kinds in the model's own order. -/
def Machine.EvKind.all : List EvKind :=
  [.deadlineMiss, .wakeRejected, .wakeNoRoute, .timeSet, .handlerFault, .parkNotQueued, .walkRecordFailed, .walkRecordAside,
   .frameWriteFailed, .engineError, .halt, .peerFault, .rxTranslation, .rxBadBuflen, .ringWriteIgnored, .headerDiscarded,
   .xlateMismatch, .tempLimit, .devnumInUse, .recovery, .clusterTlb]

/-- The 16 bytes of an event, whose encoding the spec leaves open (log 4). -/
def Machine.Event.bytes (e : Event) : List Byte := (Config.eventBytes (EvKind.all.idxOf e.kind) e.a e.b ++ zeros 16).take 16

/-- Up to 7 events and the count of dropped ones. -/
def Machine.EvLog.report (freeCtr : Nat) (l : EvLog) : List Byte :=
  let evs := (l.events.take 7).flatMap Machine.Event.bytes
  evs ++ ((List.range (112 - evs.length)).map fun i => Config.padByte (freeCtr + i)) ++ leBytes 4 l.dropped

def Machine.EvLog.taken (l : EvLog) : EvLog := { events := l.events.drop 7, dropped := 0 }

def Machine.execEvread (s : State) : Host.Outcome State Fault Refusal :=
  message 17 always (fun s m =>
    if operand m 0 = 0xFFFF then
      { status := 0, results := s.board.log.report s.freeCtr,
        state := { modBoard s (fun b => { b with log := b.log.taken }) with freeCtr := s.freeCtr + 112 } }
    else match Tbl.find s.ctxs (operand m 0) with
      | none => refuse s
      | some c =>
        { status := 0, results := c.log.report s.freeCtr,
          state := { s with ctxs := Tbl.put s.ctxs (operand m 0) { c with log := c.log.taken }, freeCtr := s.freeCtr + 112 } }) s

/-- The bank that runs. -/
def Machine.Board.bank (b : Board) : Bank := if b.running then b.bank1 else b.bank0

/-- CLMASK of a partition; 0 where none is set. -/
def partMask (s : State) (p : Nat) : Nat := ((Tbl.find s.parts p).map (·.clmask.toNat)).getD 0

/-- Queues of a state among some. -/
def countQueues (s : State) (sel : QSt → Bool) : Nat := s.queues.countP fun q => q.2.used && sel q.2.st

/-- Table 17.7 from +8 on; in recovery every mask is 0. -/
def summary (s : State) : List Byte :=
  let b := s.board
  let mask (v : Nat) : Nat := if b.boot = 15 then 0 else v
  leBytes 4 b.bank.fwver.toNat ++ leBytes 2 0x0201 ++ leBytes 2 (if b.running then 1 else 0) ++ leBytes 4 (mask b.cfg.clmask.toNat) ++
  leBytes 4 (mask b.cfg.ccmask.toNat) ++ leBytes 8 (mask b.cfg.chmask.toNat) ++ leBytes 4 (mask b.cfg.lkmask.toNat) ++
  leBytes 4 b.cfg.pwrlim.toNat ++ ((List.range 8).flatMap fun p => leBytes 4 (mask (partMask s p))) ++ leBytes 2 s.ctxs.length ++
  leBytes 2 (countQueues s (· == .running)) ++ leBytes 2 (countQueues s fun q => q == .error || q == .halted) ++ leBytes 2 b.nhalt.toNat ++
  leBytes 8 b.cecc.toNat ++ leBytes 8 b.wrej.toNat ++ leBytes 8 s.clock.clk.toNat ++ leBytes 8 s.clock.time.toNat ++ zeros 16

def Machine.execResync (s : State) : Host.Outcome State Fault Refusal :=
  message 18 always (fun s _ => { status := 0, results := summary s, state := s }) s

/-! ## Ethernet rings and TIME (R362, R365) -/

/-- Descriptor counts: 0, or powers of two from 8 to 32768. -/
def rcountOk (n : Nat) : Bool := n == 0 || (List.range 13).any fun k => n == 2 ^ (k + 3)

def Machine.execEthring (s : State) : Host.Outcome State Fault Refusal :=
  message 23 always (fun s m =>
    let rbase := dwordAt m 8
    let rcount := natAt m 16 2
    let ctx := bitsAt m 20 9 0
    if natAt m 18 2 != 0 || offPath rbase || rbase.toNat % 64 != 0 || !rcountOk rcount || (Tbl.find s.ctxs ctx).isNone then refuse s
    else
      let r : EthRing := { rbase := rbase, rcount := rcount, ctx := ctx, etype := natAt m 26 2, vlan := bitsAt m 24 11 0, s := 0, warned := false }
      done (modNet s fun n => { n with eth := Tbl.put n.eth (bitsAt m 24 15 12) r })) s

def Machine.execTimeset (s : State) : Host.Outcome State Fault Refusal :=
  message 24 always (fun s m =>
    if s.clock.ptpMaster || operand m 0 < s.clock.time.toNat then refuse s
    else done (devEvent { s with clock := { s.clock with time := dwordAt m 8 } } { kind := .timeSet, a := operand m 0, b := 0 })) s

def Machine.execPtpcfg (s : State) : Host.Outcome State Fault Refusal :=
  message 25 always (fun s m =>
    let p := operand m 0
    let d := operand m 1
    if (p != 0 && p != 1 && p != 0xFF) || 255 < d then refuse s
    else
      { status := 0, results := leBytes 8 p ++ leBytes 8 d,
        state := { s with clock := { s.clock with ptpPort := if p = 0xFF then none else some p, ptpDomain := BitVec.ofNat 8 d,
                                                  ptpMaster := false, slew := 0 } } }) s

end Sys2Proof
end

