-- ==== Sys2Proof/Machine/Objects.lean ====
section
/-! DEFINITION. Code objects: the choice of an image (R349, R350), the translation of DX1 (R351, Table 17.10a), XLATE and the images that
travel between devices (R352). -/

namespace Sys2Proof

open Machine

/-! ## The object (R349) -/

/-- A directory entry. -/
structure ImageEntry where
  rev    : Nat
  native : Bool
  off    : Nat
  size   : Nat
  hash   : List Byte
  deriving DecidableEq, Repr

/-- An object as the loader sees it: its bytes, as many as one asks for, from an address of host memory. -/
def objBytes (s : State) (base o n : Nat) : List Byte := Memory.bytes s.host (base + o) n

/-- The header, with the image count. -/
def objCount (s : State) (base : Nat) : Option Nat :=
  let h := objBytes s base 0 64
  let n := natAt h 8 2
  if natAt h 0 4 = 0x4D504201 && natAt h 4 4 = 1 && 1 ≤ n && n ≤ 16 && natAt h 10 2 = 0 && (h.drop 16).all (· == 0) then some n else none

/-- Entry i of the directory; none for one that breaks its table. -/
def objEntry (s : State) (base i : Nat) : Option ImageEntry :=
  let e := objBytes s base (64 + 64 * i) 64
  if natAt e 2 1 ≤ 1 && (e.drop 56).all (· == 0) && natAt e 8 8 % 256 = 0 then
    some { rev := natAt e 0 2, native := natAt e 2 1 == 0, off := natAt e 8 8, size := natAt e 16 8, hash := (e.drop 24).take 32 }
  else none

/-- Native revision of a J96. -/
def nativeRev : Nat := 0x0201

/-- The native image with the highest minor below this device's. -/
def bestOlder (es : List ImageEntry) : Option ImageEntry :=
  es.foldl (fun m e =>
    if e.native && e.rev / 256 == nativeRev / 256 && decide (e.rev < nativeRev) then
      (match m with
       | some b => if b.rev < e.rev then some e else some b
       | none => some e)
    else m) none

/-- The image that R350 selects. -/
def selectImage (es : List ImageEntry) : Option ImageEntry :=
  match es.find? fun e => e.native && e.rev == nativeRev with
  | some e => some e
  | none => match bestOlder es with
    | some e => some e
    | none => es.find? fun e => !e.native && e.rev == 0x0100

/-! ## Translation of DX1 (R351, Table 17.10a) -/

/-- An instruction that DX1 does not have. -/
def notDx1 (g0 : Word) : Bool :=
  let opc := (field g0 21 8).toNat
  let fn := (field g0 16 5).toNat
  let fmt := opcFormat opc
  opc == 0x49 || (opc == 0x82 && (fn == 2 || fn == 3)) || opc == 0x85 || (decide (0x90 ≤ opc) && decide (opc ≤ 0x95)) ||
  ((fmt == some 3 || fmt == some 4) && field g0 12 4 == 11)

/-- An instruction that ends its reach whatever LK says, or a `pcrw` of MODE. -/
def endsAnyway (g0 g1 g2 : Word) : Bool :=
  match decodeGranules g0 g1 g2 with
  | .ok (.pcrw f) => f.imm14 == 0
  | .ok i => i.endsReach
  | .error _ => false

/-- The code of a granule's map: 0 data, 1 G0, 2 G1 or G2, 3 a G0 that is a target. -/
def mapCode (bits : List Byte) (i : Nat) : Nat := (bits.getD (i / 4) 0).toNat / 4 ^ (i % 4) % 4

def setLk (g0 : Word) (lk : Bool) : Word := if lk then g0 ||| 0x20000000 else g0 &&& ~~~(0x20000000 : Word)

/-- Translated granules of a kernel: `skip` granules of the current instruction are still to come, and `count` instructions stand since
the last that carries LK. None where the map is out of step or DX1 lacks an instruction. -/
def translateCode (skip count : Nat) : List (Word × Nat) → Option (List Word)
  | [] => if skip = 0 then some [] else none
  | (w, c) :: t =>
    if skip != 0 then (if c = 2 then (translateCode (skip - 1) count t).map (w :: ·) else none)
    else if c = 2 then none
    else if c = 0 then (translateCode 0 count t).map (w :: ·)
    else
      let n := granulesOf w
      let g (k : Nat) : Word := (t.getD k (0, 0)).1
      let next := (t[n - 1]?).map (·.2)
      let lk := endsAnyway w (g 0) (g 1) || next == none || next == some 0 || next == some 3 || count + 1 == 24
      if notDx1 w then none
      else (translateCode (n - 1) (if lk then 0 else count + 1) t).map (setLk w lk :: ·)

/-- A kernel of an image (R349, R351): offsets of its name, its code, the template of its launch record and its granule map, and the bytes of its
code. -/
structure KernelEntry where
  name     : Nat
  code     : Nat
  len      : Nat
  template : Nat
  map      : Nat
  deriving DecidableEq, Repr

/-- The kernel table of an image: entries of 64 bytes. -/
def kernelEntries (img : List Byte) : List KernelEntry :=
  let t := Config.kernelTable img
  (List.range t.2).map fun i =>
    let f := Config.kernelFields ((img.drop (t.1 + 64 * i)).take 64)
    { name := f.1, code := f.2.1, len := f.2.2.1, template := f.2.2.2.1, map := f.2.2.2.2 }

/-- Granules that the `ldlit` at granule i reads: those of a literal pool (R58). -/
def literalWords (i : Nat) (g0 : Word) : List Nat :=
  match decodeGranules g0 0 0 with
  | .ok (.ldlit f) =>
    let j := (i : Int) + f.imm23.toInt
    if 0 ≤ j then (if f.ty.wide then [j.toNat, j.toNat + 1] else [j.toNat]) else []
  | _ => []

/-- A map marks a granule of a literal pool as part of an instruction, beside a word of the pool that it gives as 00. DEDUCED (log 73): a pool is
where an `ldlit` of the kernel reads. -/
def poolBroken (gs : List (Word × Nat)) : Bool :=
  let code (j : Nat) : Nat := ((gs[j]?).map (·.2)).getD 1
  (gs.zipIdx.flatMap fun p => if p.1.2 % 2 = 1 then literalWords p.2 p.1.1 else []).any fun j =>
    decide (j < gs.length) && code j != 0 && (code (j + 1) == 0 || (j != 0 && code (j - 1) == 0))

/-- The code of one kernel translated in its image. -/
def translateKernel (img : List Byte) (k : KernelEntry) : Option (List Byte) :=
  let n := k.len / 4
  let map := img.drop k.map
  let gs := (List.range n).map fun i => (BitVec.ofNat 32 (natAt img (k.code + 4 * i) 4), mapCode map i)
  if poolBroken gs then none
  else (translateCode 0 0 gs).map fun ws => img.take k.code ++ ws.flatMap wordBytes ++ img.drop (k.code + 4 * n)

/-- A DX1 image translated, kernel by kernel. -/
def translateKernels : List KernelEntry → List Byte → Option (List Byte)
  | [], img => some img
  | k :: ks, img => (translateKernel img k).bind (translateKernels ks)

def translateImage (img : List Byte) : Option (List Byte) := translateKernels (kernelEntries img) img

/-- The bytes that a device runs for an object in host memory, or none when the loader refuses it. -/
def loadObject (s : State) (base : Nat) : Option (List Byte) :=
  (objCount s base).bind fun n =>
    (allOf (objEntry s base) (List.range n)).bind fun es =>
      (selectImage es).bind fun e =>
        let img := objBytes s base e.off e.size
        if sha256 img != e.hash then none else if e.native then some img else translateImage img

/-! ## XLATE (R352) -/

/-- Parts of an image as KIND 5 payloads: the hash, then up to 4,064 bytes; OFFSET is their place, TAG 1 marks the last (log 11). -/
def imageParts (hash : List Byte) : Nat → Nat → List Byte → List (Nat × Nat × List Byte)
  | 0, _, _ => []
  | fuel + 1, off, img =>
    if img.length ≤ 4064 then [(off, 1, hash ++ img)] else (off, 0, hash ++ img.take 4064) :: imageParts hash fuel (off + 4064) (img.drop 4064)

/-- A device can be reached by the links that are up. -/
def reachable (s : State) (dev : Nat) : Bool := !s.board.standalone && Tbl.read 0 s.net.routes dev &&& s.net.linksUp.setWidth 18 != 0

/-- Send an image to one peer. -/
def sendImage (s : State) (img hash : List Byte) (dev : Nat) : State :=
  if !reachable s dev then s
  else (imageParts hash (img.length + 1) 0 img).foldl (fun s p =>
    sendCauseway s { kind := 5, aop := 0, bytes := p.2.2.length, ddev := dev, sdev := selfDev s, sctx := 0, status := 0, off := p.1, tag := p.2.1 } p.2.2) s

/-- An image becomes executable on this device. -/
def keepImage (s : State) (img : List Byte) : State :=
  let k := fresh s
  modNet k.2 fun n => { n with objects := Tbl.put n.objects k.1 { image := img, hash := sha256 img, mapped := true, since := clkNat s } }

/-- The devices that an XLATE lists. -/
def xlatePeers (m : List Byte) : List Nat := (List.range (operand m 1)).map fun i => natAt m (24 + 4 * i) 4

def Machine.execXlate (s : State) : Host.Outcome State Fault Refusal :=
  message 22 always (fun s m =>
    if 12 < operand m 1 || (xlatePeers m).any (fun d => decide (143 < d)) then refuse s
    else match loadObject s (operand m 0) with
      | none => refuse s
      | some img => done ((xlatePeers m).foldl (fun s d => sendImage s img (sha256 img) d) (keepImage s img))) s

/-- A peer translates its own copy of the object, at address a of its host, and logs one event. -/
def translateHere (s : State) : State :=
  let s := devEvent s { kind := .xlateMismatch, a := s.ev.a, b := 0 }
  match loadObject s s.ev.a with
  | some img => keepImage s img
  | none => s

/-- CLK since which this peer waits for image b: that of its first part, or, when no part has come, the CLK that x gives. -/
def imageSince (s : State) : Option Nat :=
  match Tbl.find s.net.objects s.ev.b with
  | some o => if o.mapped then none else some o.since
  | none => some s.ev.x.toNat

/-- Image b has not arrived at this peer within 10 ms; the parts that have are dropped. -/
def Machine.execXlateTimeout (s : State) : Host.Outcome State Fault Refusal :=
  .next (match imageSince s with
    | none => s
    | some t =>
      if s.board.boot = 4 && t + 21000000 ≤ clkNat s then translateHere (modNet s fun n => { n with objects := Tbl.del n.objects s.ev.b }) else s)

/-- Add a part to the image that a hash names. -/
def addPart (s : State) (hash part : List Byte) : Nat × List Byte × State :=
  match Tbl.firstKey s.net.objects fun _ o => o.hash == hash && !o.mapped with
  | some k =>
    let img := ((Tbl.find s.net.objects k).map (·.image)).getD [] ++ part
    (k, img, modNet s fun n => { n with objects := Tbl.modify n.objects k fun o => { o with image := img } })
  | none =>
    let q := fresh s
    (q.1, part, modNet q.2 fun n =>
      { n with objects := Tbl.put n.objects q.1 { image := part, hash := hash, mapped := false, since := clkNat s } })

/-- A part of an image arrives; after the last one the image is mapped on a match of its hash, and dropped otherwise. -/
def imageArrives (s : State) (last : Bool) (data : List Byte) : State :=
  let r := addPart (setSig s 6) (data.take 32) (data.drop 32)
  if !last then r.2.2
  else if sha256 r.2.1 == data.take 32 then modNet r.2.2 fun n => { n with objects := Tbl.modify n.objects r.1 fun o => { o with mapped := true } }
  else translateHere (modNet r.2.2 fun n => { n with objects := Tbl.del n.objects r.1 })

end Sys2Proof
end

