-- ==== Sys2Proof/Machine/Firmware.lean ====
section
/-! DEFINITION. The security core: the configuration record (R345, R346), firmware banks and the live hand-over (R347, R348), attestation
(R353, R354), reset and bring-up (R370), and the register window (R355, R357). -/

namespace Sys2Proof

open Machine

/-! ## The configuration record (Table 17.8) -/

/-- Bytes 0 to 127. -/
def Machine.CfgRec.body (c : CfgRec) : List Byte :=
  leBytes 4 1 ++ zeros 4 ++ leBytes 8 c.serial.toNat ++ c.devkeyh ++ leBytes 4 c.clmask.toNat ++ leBytes 4 c.ccmask.toNat ++
  leBytes 8 c.chmask.toNat ++ leBytes 4 c.lkmask.toNat ++ leBytes 4 c.pwrlim.toNat ++ leBytes 4 c.secver.toNat ++ zeros 52

def parseCfg (bs : List Byte) : CfgRec :=
  { serial := dwordAt bs 8, devkeyh := (bs.drop 16).take 32, clmask := BitVec.ofNat 12 (natAt bs 48 2), ccmask := BitVec.ofNat 32 (natAt bs 52 4),
    chmask := dwordAt bs 56, lkmask := BitVec.ofNat 20 (natAt bs 64 4), pwrlim := BitVec.ofNat 16 (natAt bs 68 2),
    secver := BitVec.ofNat 32 (natAt bs 72 4), sig := (bs.drop 128).take 384 }

/-- The checks of R345, and the bound of PWRLIM. -/
def cfgOk (c : CfgRec) : Bool :=
  rsaVerify Config.configModulus c.body c.sig && c.devkeyh == sha256 devicePublic && decide (c.pwrlim.toNat ≤ 1900)

/-- 512 bytes that are a record by Table 17.8: FORMAT 1, reserved bits 0, PWRLIM within its bound. -/
def recordOk (bs : List Byte) : Bool :=
  (parseCfg bs).body == bs.take 128 && bs.length == 512 && decide ((parseCfg bs).pwrlim.toNat ≤ 1900)

/-! ## Firmware banks (R347, R348) -/

/-- The image that an FWLOAD names in host memory. -/
def imageOf (s : State) (m : List Byte) : List Byte := Memory.bytes s.host (operand m 0) (operand m 1)

/-- An image that the security core accepts. -/
def imageOk (s : State) (img : List Byte) : Bool :=
  rsaVerify Config.firmwareModulus (Config.imageSigned img) (Config.imageSignature img) &&
  decide (s.board.cfg.secver.toNat ≤ (Config.imageSecver img).toNat)

/-- The bank that an image makes. -/
def Machine.Bank.ofImage (img : List Byte) : Bank :=
  { valid := true, fwver := Config.imageFwver img, secver := Config.imageSecver img, hash := sha256 img, major := Config.imageMajor img,
    minor := Config.imageMinor img }

/-- The bank that does not run. -/
def Machine.Board.idle (b : Machine.Board) : Bank := if b.running then b.bank0 else b.bank1

def Machine.Board.setIdle (b : Machine.Board) (k : Bank) : Machine.Board := if b.running then { b with bank0 := k } else { b with bank1 := k }

/-- A firmware image goes into the bank that does not run, a record update waits for the next reset. DESIGN CHOICE (log 68): the spec states no
refusal of a record that breaks Table 17.8; the model answers it with STATUS 1 and keeps the old one. -/
def Machine.execFwload (s : State) : Host.Outcome State Fault Refusal :=
  message 19 always (fun s m =>
    let img := imageOf s m
    if !imageOk s img then refuse s
    else if Config.imageIsRecord img then
      let bs := Config.imageRecord img
      if recordOk bs then done (modBoard s fun b => { b with cfgNext := some (parseCfg bs) }) else refuse s
    else done (modBoard s fun b => b.setIdle (.ofImage img))) s

/-- The state block of Table 17.9. -/
def stateBlock (b : Bank) (body : List Byte) : List Byte :=
  leBytes 4 0x53504842 ++ leBytes 4 (b.major % 256 * 256 + b.minor % 256) ++ leBytes 4 body.length ++ leBytes 4 (crc32c body).toNat ++ zeros 48 ++ body

/-- The quiescent point: the running firmware writes its state block. -/
def writeBlock (s : State) : List Byte × State :=
  let blk := stateBlock s.board.bank ((Config.stateBody s.freeCtr).take 0x300000)
  (blk, { storeSram s Config.blockAddress blk with freeCtr := s.freeCtr + 1 })

/-- Results of FWSWAP: old and new version, and the outcome, 0 done and 1 rolled back. -/
def swapResults (b : Machine.Board) (outcome : Nat) : List Byte := leBytes 8 b.bank.fwver.toNat ++ leBytes 8 b.idle.fwver.toNat ++ leBytes 8 outcome

/-- The old bank restarts from the same block. -/
def rolledBack (s : State) : Reply := { status := 1, results := swapResults s.board 1, state := (writeBlock s).2 }

/-- The new bank accepts the block and resumes. -/
def Machine.execFwswap (s : State) : Host.Outcome State Fault Refusal :=
  message 20 always (fun s _ =>
    let b := s.board
    if !b.idle.valid then refuse s
    else if b.idle.major = b.bank.major && b.bank.minor ≤ b.idle.minor then
      let w := writeBlock s
      { status := 0, results := swapResults b 0, state := modBoard w.2 fun b => { b with running := !b.running, stbHash := sha256 w.1 } }
    else rolledBack s) s

/-- The new bank fails the block's CRC, or is not ready within 2 ms. -/
def Machine.execFwswapRollback (s : State) : Host.Outcome State Fault Refusal :=
  message 20 always (fun s _ => if s.board.idle.valid then rolledBack s else refuse s) s

/-! ## Attestation (R354) -/

/-- A field of n bytes. -/
def inBytes (n : Nat) (bs : List Byte) : List Byte := (bs ++ zeros n).take n

/-- Bytes 0 to 255 of Table 17.10. -/
def reportBody (b : Machine.Board) (nonce : List Byte) : List Byte :=
  inBytes 32 nonce ++ leBytes 8 b.cfg.serial.toNat ++ leBytes 4 b.bootCount.toNat ++ leBytes 4 b.bank.fwver.toNat ++ inBytes 32 b.bank.hash ++
  inBytes 32 (sha256 (b.cfg.body ++ b.cfg.sig)) ++ inBytes 32 Config.romHash ++ inBytes 32 b.stbHash ++ zeros 80

/-- The report goes to the host address that the message names (log 9). -/
def Machine.execAttest (s : State) : Host.Outcome State Fault Refusal :=
  message 21 always (fun s m =>
    let body := reportBody s.board ((m.drop 8).take 32)
    done { s with host := Memory.stores s.host (natAt m 40 8) (body ++ rsaSign deviceModulus devicePrivate body) }) s

/-! ## Reset and bring-up (R345, R353, R370) -/

/-- The capability key of a boot. -/
def bootKey (boot : Word) : List Byte := hmac Config.seed (([0x63, 0x61, 0x70] : List Byte) ++ leBytes 4 boot.toNat)

/-- The board after reset: flash keeps the record, with one written for this reset, the banks and the boot counter, which rises. -/
def bootBoard (b : Machine.Board) : Machine.Board :=
  { Machine.Board.reset with
    cfg := b.cfgNext.getD b.cfg, bootCount := b.bootCount + 1, bank0 := b.bank0, bank1 := b.bank1, running := b.running }

/-- Recovery is entered: vector 16 and an event. -/
def recover (s : State) : State :=
  raiseVec (devEvent (modBoard s fun b => { b with boot := 15 }) { kind := .recovery, a := 0, b := 0 }) 16

/-- Device reset, to BOOT 0. The host's memory and what the model has yet to do stay. -/
def Machine.execReset (s : State) : Host.Outcome State Fault Refusal :=
  .next { State.reset with board := bootBoard s.board, host := s.host, turns := s.turns, freshId := s.freshId, freeCtr := s.freeCtr }

/-- The work of BOOT 1: the capability key, the checks of the record, and a bank that holds an image. -/
def bootKeys (s : State) : State :=
  let b := s.board
  if cfgOk b.cfg && (b.bank0.valid || b.bank1.valid) then
    modBoard s fun b => { b with boot := 2, capKey := bootKey b.bootCount, running := if b.bank.valid then b.running else !b.running }
  else recover (modBoard s fun b => { b with capKey := bootKey b.bootCount })

/-- The work of BOOT 0, 1 or 2 ends (R370, Table 18.4); `pass` says that every enabled unit passed in BOOT 2. -/
def bootStep (s : State) (pass : Bool) : State :=
  if s.board.boot = 0 then modBoard s fun b => { b with boot := 1 }
  else if s.board.boot = 1 then bootKeys s
  else if s.board.boot = 2 then
    (let t := { s with hbm := [], wstore := [], olds := [] }
     if pass then modBoard t fun b => { b with boot := 3 } else recover t)
  else s

/-- A write of DEVNUM; `b` not 0 says that another device of the pod has the number. -/
def Machine.execDevnum (s : State) : Host.Outcome State Fault Refusal :=
  let v := s.ev.a % 256
  .next (
    if 4 ≤ s.board.boot.toNat || (144 ≤ v && v ≤ 254) then s
    else if s.board.boot != 3 then modBoard s fun b => { b with devnum := BitVec.ofNat 8 v }
    else if v = 0xFF then modBoard s fun b => { b with devnum := 0xFF, standalone := true, boot := 4 }
    else if s.ev.b != 0 then
      devEvent (modNet (modBoard s fun b => { b with devnum := BitVec.ofNat 8 v, boot := 4 }) fun n => { n with linksUp := 0, routes := [] })
        { kind := .devnumInUse, a := v, b := 0 }
    else modBoard s fun b => { b with devnum := BitVec.ofNat 8 v, train := clkNat s })

/-- 10 ms of link training have passed in BOOT 3. -/
def Machine.execBoot3Timeout (s : State) : Host.Outcome State Fault Refusal :=
  .next (if s.board.boot = 3 && s.board.devnum != 0xFF && s.board.train + 21000000 ≤ clkNat s then modBoard s fun b => { b with boot := 4 } else s)

/-! ## The register window (Table 18.1, R357) -/

/-- A write of MTAIL of ring a hands messages to the pump house. -/
def Machine.execMtail (s : State) : Host.Outcome State Fault Refusal :=
  let r := ringOf s s.ev.a
  let v : Word := s.ev.w.setWidth 32
  .next (
    if 16 ≤ s.ev.a then s
    else if r.mslots.toNat < (v - r.mhead).toNat then devEvent s { kind := .ringWriteIgnored, a := s.ev.a, b := v.toNat }
    else setSig (setRing s s.ev.a { r with mtail := v }) 1)

/-- Table 18.1 as bytes. -/
def registerWindow (s : State) : Memory :=
  let b := s.board
  let put (m : Memory) (p : Nat × Nat × Nat) : Memory := Memory.setLe m p.1 p.2.1 p.2.2
  let rings := (List.range 16).flatMap fun i =>
    let r := ringOf s i
    let o := 0x10 + 32 * i
    [(o, 8, r.mbase.toNat), (o + 8, 8, r.abase.toNat), (o + 16, 2, r.mslots.toNat), (o + 20, 4, r.mtail.toNat), (o + 24, 4, r.mhead.toNat)]
  ([(0, 4, 0x5A960001), (4, 1, b.boot.toNat), (8, 1, b.devnum.toNat), (0x400, 4, b.pwr.toNat), (0x404, 2, b.temp0.toNat),
    (0x406, 2, b.temp1.toNat), (0x408, 8, b.throt.toNat), (0x410, 8, b.wrejh.toNat), (0x418, 8, s.clock.time.toNat)] ++ rings).foldl put []

/-- An entry of the MSI-X table: address, data and control; bit 0 of the control masks the vector, as it does after reset. PRESUMED (log 74): the
standard's layout. -/
def vecEntry (b : Machine.Board) (v : Nat) : DWord × Word × Word := (Tbl.find b.vecTab v).getD (0, 0, 1)

def vecMasked (b : Machine.Board) (v : Nat) : Bool := (vecEntry b v).2.2.getLsbD 0

/-- A vector is pending: raised and masked. -/
def vecPending (b : Machine.Board) (v : Nat) : Bool := b.vecPend.contains v || (b.msix.contains v && vecMasked b v)

/-- Byte o of BAR4: the table of 2,048 entries from 0, the pending bits from 0x8000. DESIGN CHOICE (log 74): where these stand. -/
def vecByte (b : Machine.Board) (o : Nat) : Byte :=
  if o < 0x8000 then
    (let e := vecEntry b (o / 16)
     (leBytes 8 e.1.toNat ++ leBytes 4 e.2.1.toNat ++ leBytes 4 e.2.2.toNat).getD (o % 16) 0)
  else if o < 0x8100 then BitVec.ofNat 8 ((List.range 8).foldl (fun n k => if vecPending b (8 * (o - 0x8000) + k) then n + 2 ^ k else n) 0)
  else 0

/-- The host reads n bytes of a BAR (R355, R356); the wake window reads 0. -/
def hostRead (s : State) (bar off n : Nat) : State :=
  let bs : Option (List Byte) :=
    if bar = 0 && off + n ≤ 4096 then some (Memory.bytes (registerWindow s) off n)
    else if bar = 2 && off + n ≤ 65536 then some (zeros n)
    else if bar = 4 && off + n ≤ 65536 then some ((List.range n).map fun k => vecByte s.board (off + k))
    else none
  match bs with
  | some bs => modNet s fun m => { m with reads := m.reads ++ [bs] }
  | none => s

/-- The host writes a 32-bit word of the MSI-X table; a pending vector that it unmasks is raised. -/
def vecWrite (s : State) (off : Nat) (v : Word) : State :=
  let k := off / 16
  let e := vecEntry s.board k
  let w : DWord := v.setWidth 64
  if 0x8000 ≤ off || off % 4 != 0 then s
  else
    let e := if off % 16 = 0 then ((e.1 &&& 0xFFFFFFFF00000000) ||| (w &&& 0xFFFFFFFC), e.2)
      else if off % 16 = 4 then ((e.1 &&& 0xFFFFFFFF) ||| (w <<< 32), e.2)
      else if off % 16 = 8 then (e.1, v, e.2.2)
      else (e.1, e.2.1, v &&& 1)
    let s := modBoard s fun b => { b with vecTab := Tbl.put b.vecTab k e }
    if !e.2.2.getLsbD 0 && s.board.vecPend.contains k then
      modBoard s fun b => { b with vecPend := b.vecPend.filter (· != k), msix := b.msix ++ [k] }
    else s

/-- The host takes its vectors, of which masked ones stay pending, and what its reads returned; the fabric and the network take what was
sent. -/
def drainAll (s : State) : State :=
  let b := s.board
  let held := (b.msix.filter (vecMasked b)).filter fun v => !b.vecPend.contains v
  { s with
    board := { b with msix := [], vecPend := b.vecPend ++ held.eraseDups },
    net := { s.net with outbox := [], ethOut := [], reads := [] } }

/-- The low or the high half of a 64-bit register written. -/
def writeHalf (old : DWord) (high : Bool) (v : DWord) : DWord :=
  if high then (v <<< 32) ||| (old &&& 0xFFFFFFFF) else (old &&& 0xFFFFFFFF00000000) ||| (v &&& 0xFFFFFFFF)

/-- A write of b bytes at offset a to MBASE, ABASE or MSLOTS; every other field either has an event of its own or ignores writes. -/
def Machine.execRegisterWrite (s : State) : Host.Outcome State Fault Refusal :=
  let i := (s.ev.a - 0x10) / 32
  let o := (s.ev.a - 0x10) % 32
  let r := ringOf s i
  let v := s.ev.w
  let whole := s.ev.b == 8
  .next (
    if s.ev.a < 0x10 || 16 ≤ i || (s.ev.b != 4 && s.ev.b != 8) then s
    else if o = 0 then setRing s i { r with mbase := if whole then v else writeHalf r.mbase false v }
    else if o = 4 && !whole then setRing s i { r with mbase := writeHalf r.mbase true v }
    else if o = 8 then setRing s i { r with abase := if whole then v else writeHalf r.abase false v }
    else if o = 12 && !whole then setRing s i { r with abase := writeHalf r.abase true v }
    else if o = 16 then setRing s i { r with mslots := v.setWidth 16 }
    else s)

end Sys2Proof
end

