-- ==== Sys2Proof/Machine/Fabric.lean ====
section
/-! DEFINITION. What arrives from outside: Causeway messages and links (R335 to R337, R352, R359, R360), completions of the host link
(R358), Ethernet frames and PTP (R361 to R365), power and temperature (R366 to R369). -/

namespace Sys2Proof

open Machine

/-! ## Causeway messages (R360, Table 18.2) -/

/-- A header from its 16 bytes. -/
def Header.parse (w x : DWord) : Header :=
  { kind := w.toNat % 256, aop := w.toNat / 2 ^ 8 % 256, bytes := w.toNat / 2 ^ 16 % 8192, ddev := w.toNat / 2 ^ 32 % 512,
    sdev := w.toNat / 2 ^ 41 % 512, sctx := w.toNat / 2 ^ 50 % 1024, status := w.toNat / 2 ^ 60 % 16, off := x.toNat % 2 ^ 48,
    tag := x.toNat / 2 ^ 48 }

/-- A header that a device discards: a must-be-0 bit is set, or the KIND is 0 or 8 to 255. -/
def badHeader (w x : DWord) : Bool := w.toNat / 2 ^ 29 % 8 != 0 || (Header.parse w x).kind == 0 || decide (8 ≤ (Header.parse w x).kind)

/-- A well-formed message of one KIND for this device arrives: header in w and x, payload in data. -/
def inbound (kind : Nat) (act : State → Header → List Byte → State) (s : State) : Host.Outcome State Fault Refusal :=
  let h := Header.parse s.ev.w s.ev.x
  .next (if badHeader s.ev.w s.ev.x || h.kind != kind || h.ddev != selfDev s || s.board.standalone then s else act s h s.ev.data)

/-- A completion of an inbound request. -/
def sendCompletion (s : State) (h : Header) (res : Option (List Byte)) : State :=
  let bs := res.getD []
  sendCauseway s { kind := 4, aop := 0, bytes := bs.length, ddev := h.sdev, sdev := selfDev s, sctx := h.sctx, status := if res.isSome then 0 else 1,
                   off := h.off, tag := h.tag } bs

/-- An inbound request is checked and performed, and completed. -/
def servePeer (s : State) (h : Header) (data : List Byte) : State :=
  let r := targetAccess s h.sdev h.sctx h.off h.kind h.aop h.bytes data
  sendCompletion r.2 h r.1

def Machine.execCausewayLoad (s : State) : Host.Outcome State Fault Refusal := inbound 1 servePeer s

def Machine.execCausewayStore (s : State) : Host.Outcome State Fault Refusal := inbound 2 servePeer s

def Machine.execCausewayAtomic (s : State) : Host.Outcome State Fault Refusal := inbound 3 servePeer s

/-- A completion ends the request of its tag; one that comes late finds none and is discarded (R337). Status 2, no route, logs an event on this
device, which sent the request (R336). -/
def peerCompleted (s : State) (h : Header) (data : List Byte) : State :=
  match Tbl.find s.net.reqs h.tag with
  | none => s
  | some r =>
    if r.host then s
    else if h.status = 0 then endReq s h.tag (.ok data)
    else endReq (if h.status = 2 then unrouted s r.ctx (offOf r.addr / 2 ^ 48) (offOf r.addr % 2 ^ 48) else s) h.tag (.error (.peer, 0))

def Machine.execCausewayCompletion (s : State) : Host.Outcome State Fault Refusal := inbound 4 peerCompleted s

def Machine.execCausewayImage (s : State) : Host.Outcome State Fault Refusal := inbound 5 (fun s h data => imageArrives s (h.tag == 1) data) s

def Machine.execCausewayEvent (s : State) : Host.Outcome State Fault Refusal := inbound 6 (fun s _ _ => setSig s 6) s

/-- A KIND 7 message hands its wake write to the unsealer, with no completion. -/
def Machine.execCausewayWake (s : State) : Host.Outcome State Fault Refusal := inbound 7 (fun s _ data => wakeWrite s false data) s

def Machine.execCausewayDiscard (s : State) : Host.Outcome State Fault Refusal :=
  .next (if badHeader s.ev.w s.ev.x then devEvent s { kind := .headerDiscarded, a := s.ev.w.toNat, b := s.ev.x.toNat } else s)

/-! ## Timeouts (R337, R358) -/

/-- PEERTO in cycles. -/
def Machine.CtxDesc.peerLimit (d : CtxDesc) : Nat := 2100 * if d.peerto = 0 then 20 else d.peerto

/-- The peer request of tag a has had no completion within PEERTO. -/
def Machine.execPeerTimeout (s : State) : Host.Outcome State Fault Refusal :=
  .next (match Tbl.find s.net.reqs s.ev.a with
    | none => s
    | some r =>
      match Tbl.find s.ctxs r.ctx with
      | none => s
      | some c => if !r.host && r.sent + c.desc.peerLimit ≤ clkNat s then endReq s s.ev.a (.error (.peer, 4)) else s)

/-- The host request of tag a has had no completion within 50 µs; with b not 0 a store has been performed all the same. -/
def Machine.execHostTimeout (s : State) : Host.Outcome State Fault Refusal :=
  .next (match Tbl.find s.net.reqs s.ev.a with
    | none => s
    | some r =>
      if r.host && r.sent + hostLimit ≤ clkNat s then
        let s := if s.ev.b != 0 && r.kind = 2 then { s with host := Memory.stores s.host (offOf r.addr) r.data } else s
        endReq s s.ev.a (.error (.prot, 0))
      else s)

/-! ## Links (R359, R361, R370) -/

/-- Port p is an Ethernet port by the configuration record. -/
def isPort (s : State) (p : Nat) : Bool := decide (p < 2) && s.board.cfg.lkmask.getLsbD (18 + p)

/-- Link k runs as an Ethernet port. -/
def isEther (s : State) (k : Nat) : Bool := decide (16 ≤ k) && isPort s (k - 16)

def setLink (s : State) (k : Nat) (up : Bool) : State :=
  modNet s fun n => { n with linksUp := if up then n.linksUp ||| BitVec.ofNat 20 (2 ^ k) else n.linksUp &&& ~~~(BitVec.ofNat 20 (2 ^ k)) }

/-- Link a goes down: its routes serve no more until it is up again. -/
def Machine.execLinkDown (s : State) : Host.Outcome State Fault Refusal := .next (if s.ev.a < 18 then setLink s s.ev.a false else s)

/-- A link that may come up: enabled, in BOOT 4 or in training; of a standalone device only an Ethernet port. -/
def mayRise (s : State) (k : Nat) : Bool :=
  decide (k < 18) && s.board.cfg.lkmask.getLsbD k && (s.board.boot == 4 || (s.board.boot == 3 && s.board.devnum != 0xFF)) &&
  (!s.board.standalone || isEther s k)

/-- Routes of a link: the devices it reaches. -/
def addRoutes (t : Tbl (BitVec 18)) (k : Nat) (devs : List Byte) : Tbl (BitVec 18) :=
  devs.foldl (fun t d => Tbl.write 0 t d.toNat (Tbl.read 0 t d.toNat ||| BitVec.ofNat 18 (2 ^ k))) t

/-- Link a is up, reaching the devices that data lists. BOOT 3 is left when every enabled link is up. -/
def Machine.execLinkUp (s : State) : Host.Outcome State Fault Refusal :=
  .next (
    if !mayRise s s.ev.a then s
    else
      let t := setLink s s.ev.a true
      let t := if isEther s s.ev.a then t else modNet t fun n => { n with routes := addRoutes n.routes s.ev.a s.ev.data }
      let want : BitVec 18 := s.board.cfg.lkmask.setWidth 18
      if s.board.boot = 3 && want &&& t.net.linksUp.setWidth 18 == want then modBoard t fun b => { b with boot := 4 } else t)

/-! ## Ethernet frames (R361 to R364) -/

/-- EtherType and VLAN id of a frame. -/
def frameTag (f : List Byte) : Nat × Option Nat :=
  let t := beNat ((f.drop 12).take 2)
  if t = 0x8100 then (beNat ((f.drop 16).take 2), some (beNat ((f.drop 14).take 2) % 4096)) else (t, none)

def Machine.EthRing.takes (r : EthRing) (f : List Byte) : Bool :=
  let t := frameTag f
  r.rcount != 0 && (r.etype == 0 || r.etype == t.1) && (r.vlan == 0xFFF || some r.vlan == t.2)

/-- The lowest-numbered enabled ring of a port whose filter a frame matches. -/
def ringFor (s : State) (port : Nat) (f : List Byte) : Option Nat :=
  ((List.range 8).find? fun k => match Tbl.find s.net.eth (8 * port + k) with
    | some r => r.takes f
    | none => false).map (8 * port + ·)

def dropFrame (s : State) : State := modNet s fun n => { n with ethDrop := n.ethDrop + 1 }

/-- Fraction of a nanosecond in 2^-16 ns. -/
def timeFrac (c : Clock) : Nat := c.timeRem * 65536 / 21

/-- The descriptor's fields, the buffer, and then word +60, through the tables of the ring's context; none where translation fails. -/
def placeFrame (s : State) (r : EthRing) (d buf : DWord) (len : Nat) (f : List Byte) : Option State :=
  let who : Who := { ctx := r.ctx, wg := none }
  let out := leBytes 4 f.length ++ leBytes 4 (if len < f.length then 1 else 0) ++ leBytes 8 s.clock.time.toNat ++ leBytes 4 (timeFrac s.clock)
  match writeVirt s who buf (f.take len) with
  | .error _ => none
  | .ok s => match writeVirt s who (d + 16) out with
    | .error _ => none
    | .ok s => match writeVirt s who (d + 60) (leBytes 4 (r.s % 2 ^ 31)) with
      | .error _ => none
      | .ok s => some s

/-- A translation failure drops the frame, counts it, and logs one event. -/
def frameUnmapped (s : State) (r : EthRing) : State := ctxEvent (dropFrame s) r.ctx { kind := .rxTranslation, a := r.ctx, b := r.s }

/-- A frame for a ring. -/
def ringFrame (s : State) (k : Nat) (r : EthRing) (f : List Byte) : State :=
  let d := r.rbase + BitVec.ofNat 64 (64 * (r.s % r.rcount))
  match tableRead s r.ctx d 64 with
  | none => frameUnmapped s r
  | some bs =>
    let len := natAt bs 8 4
    if natAt bs 60 4 / 2 ^ 31 = 0 then dropFrame s
    else if len = 0 || len % 64 != 0 then
      let s := modNet (dropFrame s) fun n => { n with eth := Tbl.put n.eth k { r with warned := true } }
      if r.warned then s else ctxEvent s r.ctx { kind := .rxBadBuflen, a := k, b := r.s }
    else if offPath (dwordAt bs 0) then frameUnmapped s r
    else match placeFrame s r d (dwordAt bs 0) len f with
      | none => frameUnmapped s r
      | some s => modNet s fun n => { n with eth := Tbl.put n.eth k { r with s := r.s + 1, warned := false } }

/-- A PTP message, event or general. PRESUMED (log 75): it stands in an Ethernet frame of EtherType 0x88F7, its domain number in byte 4. -/
def isPtp (f : List Byte) : Bool := (frameTag f).1 == 0x88F7

def ptpDomain (f : List Byte) : Nat := natAt f ((if (frameTag f).2.isSome then 18 else 14) + 4) 1

/-- A PTP message also goes to the pump house (R362). -/
def ptpIn (s : State) (port : Nat) (f : List Byte) : State :=
  if isPtp f then modNet s fun n => { n with ptpIn := n.ptpIn ++ [(port, f)] } else s

/-- Port a receives a frame, without its FCS; b not 0 says that the FCS was bad. -/
def Machine.execFrameReceive (s : State) : Host.Outcome State Fault Refusal :=
  .next (
    if !isPort s s.ev.a || !s.net.linksUp.getLsbD (16 + s.ev.a) then s
    else if s.ev.b != 0 then dropFrame s
    else
      let s := ptpIn s s.ev.a s.ev.data
      match ringFor s s.ev.a s.ev.data with
      | none => dropFrame s
      | some k => (match Tbl.find s.net.eth k with
        | some r => ringFrame s k r s.ev.data
        | none => s))

/-- The pump house takes the oldest PTP message that has come in on the port; none when it has none. -/
def takePtp (s : State) (port : Nat) : Option (List Byte × State) :=
  match s.net.ptpIn.findIdx? fun p => p.1 == port with
  | some i => (s.net.ptpIn[i]?).map fun p => (p.2, modNet s fun n => { n with ptpIn := n.ptpIn.eraseIdx i })
  | none => none

/-- What an exchange with the master says: TIME is n ns behind it (R365). -/
def disciplined (c : Clock) (n : Int) : Clock :=
  if 1000000 < n then { c with ptpMaster := true, time := c.time + BitVec.ofInt 64 n, slew := 0 } else { c with ptpMaster := true, slew := n }

/-- The pump house takes a PTP message of port a: one of the port and the domain in use ends an exchange, which finds the master n ns ahead of TIME;
any other has no effect. With c not 0, no master is heard. -/
def Machine.execPtpMessage (s : State) : Host.Outcome State Fault Refusal :=
  let c := s.clock
  .next (
    if s.ev.c != 0 then (if c.ptpPort = some s.ev.a then { s with clock := { c with ptpMaster := false, slew := 0 } } else s)
    else match takePtp s s.ev.a with
      | none => s
      | some (f, s) =>
        if c.ptpPort != some s.ev.a || c.ptpDomain.toNat != ptpDomain f then s else { s with clock := disciplined c s.ev.n })

/-! ## Power and temperature (R366 to R368) -/

/-- One step tighter: matrix starts are spaced, and when they can be spaced no further, vector issue is withheld. -/
def Machine.Board.tighten (b : Machine.Board) : Machine.Board :=
  if b.space < Config.deepestSpace then { b with space := b.space + 1 }
  else if b.withhold < Config.deepestWithhold then { b with withhold := b.withhold + 1 }
  else b

/-- One step looser. -/
def Machine.Board.relax (b : Machine.Board) : Machine.Board :=
  if b.withhold != 0 then { b with withhold := b.withhold - 1 } else { b with space := b.space - 1 }

/-- The check of a new 10-µs period: a is the average of the last 1 ms in mW. -/
def Machine.execPowerCheck (s : State) : Host.Outcome State Fault Refusal :=
  let k := clkNat s / 21000
  .next (
    if k ≤ s.board.powerAt then s
    else modBoard s fun b =>
      let b := { b with powerAt := k, pwr := BitVec.ofNat 32 s.ev.a }
      let lim := 1000 * b.cfg.pwrlim.toNat
      if lim < s.ev.a then b.tighten else if s.ev.a < lim then b.relax else b)

def setTemp (s : State) (half : Nat) (t : Int) : State :=
  modBoard s fun b => if half = 0 then { b with temp0 := BitVec.ofInt 16 t } else { b with temp1 := BitVec.ofInt 16 t }

/-- Both limits go to their deepest setting, and an event is logged. -/
def deepest (s : State) (half : Nat) (t : Int) : State :=
  devEvent (modBoard s fun b => { b with space := Config.deepestSpace, withhold := Config.deepestWithhold }) { kind := .tempLimit, a := half, b := t.toNat }

/-- The hottest sensor of half a reads n, in 1/16 °C: at 110 °C throttles deepen, at 120 °C every context is killed. -/
def Machine.execTempLimit (s : State) : Host.Outcome State Fault Refusal :=
  let t := setTemp s s.ev.a s.ev.n
  .next (
    if s.ev.n < 1760 then t
    else
      let t := deepest t s.ev.a s.ev.n
      if s.ev.n < 1920 then t else recover (t.ctxs.foldl (fun s c => raiseHalt s c.1 0xFF 0 0) t))

end Sys2Proof
end

