-- ==== Sys2Proof/Machine/Scalar.lean ====
section
/-! DEFINITION. Scalar instructions: integer operations (R111, R112), compares (R113), float operations (R114), conversion (R115) and
literal reads (R116). -/

namespace Sys2Proof

open Machine

/-! ## Integer operations (Table 05.1) -/

/-- The operands of an integer operation: the width, A and op2 as naturals. -/
def SFmt.valA (f : SFmt) (w : Warp) : DWord := w.sval f.ty.wide f.aReg

/-- Write D and complete. -/
def Issue.writeS (x : Issue) (s : State) (f : SFmt) (v : DWord) : State :=
  x.finish s (x.w.setSval x.f.lanes f.ty.wide f.d.toNat v)

/-- An operation on the natural values of A and op2; the result wraps at the width. -/
def effInt (f : SFmt) (op : Nat → Nat → Nat → Nat) (s : State) (x : Issue) : State :=
  x.writeS s f (BitVec.ofNat 64 (op f.ty.bits (f.valA x.w).toNat (f.op2 x.w).toNat % 2 ^ f.ty.bits))

def opAdd (_ a b : Nat) : Nat := a + b
def opSub (w a b : Nat) : Nat := a + (2 ^ w - b % 2 ^ w)
def opMul (_ a b : Nat) : Nat := a * b

/-- The high half of the exact product, signed or unsigned. -/
def opMulh (signed : Bool) (w a b : Nat) : Nat := wrapI w (toI signed w a * toI signed w b / (2 ^ w : Int))
def opAnd (_ a b : Nat) : Nat := a &&& b
def opOr (_ a b : Nat) : Nat := a ||| b
def opXor (_ a b : Nat) : Nat := a ^^^ b

/-- A AND NOT B. -/
def opAndn (w a b : Nat) : Nat := a &&& (2 ^ w - 1 - b % 2 ^ w)
def opShl (w a b : Nat) : Nat := a * 2 ^ (b % w)
def opShr (w a b : Nat) : Nat := a / 2 ^ (b % w)
def opSar (w a b : Nat) : Nat := sarNat w a (b % w)
def opMin (signed : Bool) (w a b : Nat) : Nat := if toI signed w b < toI signed w a then b else a
def opMax (signed : Bool) (w a b : Nat) : Nat := if toI signed w a < toI signed w b then b else a
def opPopc (w a _ : Nat) : Nat := popcount w a
def opClz (w a _ : Nat) : Nat := clz w a
def opCtz (w a _ : Nat) : Nat := ctz w a
def opBrev (w a _ : Nat) : Nat := bitrev w a

def Machine.execSadd (f : SFmt) (s : State) : Host.Outcome State Fault Refusal := issue (.sadd f) false (effInt f opAdd) s
def Machine.execSsub (f : SFmt) (s : State) : Host.Outcome State Fault Refusal := issue (.ssub f) false (effInt f opSub) s
def Machine.execSmul (f : SFmt) (s : State) : Host.Outcome State Fault Refusal := issue (.smul f) false (effInt f opMul) s
def Machine.execSmulh (f : SFmt) (s : State) : Host.Outcome State Fault Refusal := issue (.smulh f) false (effInt f (opMulh f.ty.isSigned)) s
def Machine.execSand (f : SFmt) (s : State) : Host.Outcome State Fault Refusal := issue (.sand f) false (effInt f opAnd) s
def Machine.execSor (f : SFmt) (s : State) : Host.Outcome State Fault Refusal := issue (.sor f) false (effInt f opOr) s
def Machine.execSxor (f : SFmt) (s : State) : Host.Outcome State Fault Refusal := issue (.sxor f) false (effInt f opXor) s
def Machine.execSandn (f : SFmt) (s : State) : Host.Outcome State Fault Refusal := issue (.sandn f) false (effInt f opAndn) s
def Machine.execSshl (f : SFmt) (s : State) : Host.Outcome State Fault Refusal := issue (.sshl f) false (effInt f opShl) s
def Machine.execSshr (f : SFmt) (s : State) : Host.Outcome State Fault Refusal := issue (.sshr f) false (effInt f opShr) s
def Machine.execSsar (f : SFmt) (s : State) : Host.Outcome State Fault Refusal := issue (.ssar f) false (effInt f opSar) s
def Machine.execSmin (f : SFmt) (s : State) : Host.Outcome State Fault Refusal := issue (.smin f) false (effInt f (opMin f.ty.isSigned)) s
def Machine.execSmax (f : SFmt) (s : State) : Host.Outcome State Fault Refusal := issue (.smax f) false (effInt f (opMax f.ty.isSigned)) s
def Machine.execSpopc (f : SFmt) (s : State) : Host.Outcome State Fault Refusal := issue (.spopc f) false (effInt f opPopc) s
def Machine.execSclz (f : SFmt) (s : State) : Host.Outcome State Fault Refusal := issue (.sclz f) false (effInt f opClz) s
def Machine.execSctz (f : SFmt) (s : State) : Host.Outcome State Fault Refusal := issue (.sctz f) false (effInt f opCtz) s
def Machine.execSbrev (f : SFmt) (s : State) : Host.Outcome State Fault Refusal := issue (.sbrev f) false (effInt f opBrev) s

/-! ### Bit fields (R112) -/

/-- pos and width of IMM14. -/
def SFmt.fieldPos (f : SFmt) : Nat := f.imm14.toNat % 64
def SFmt.fieldWidth (f : SFmt) : Nat := f.imm14.toNat / 64 % 64 + 1

/-- The field, extended by the type. -/
def bfeNat (signed : Bool) (w pos width a : Nat) : Nat := wrapI w (toI signed width (a / 2 ^ pos % 2 ^ width))

/-- A with its field replaced by the low bits of B. -/
def bfiNat (pos width a b : Nat) : Nat := a - a / 2 ^ pos % 2 ^ width * 2 ^ pos + b % 2 ^ width * 2 ^ pos

def effSbfe (f : SFmt) : State → Issue → State := effInt f fun w a _ => bfeNat f.ty.isSigned w f.fieldPos f.fieldWidth a

def effSbfi (f : SFmt) : State → Issue → State := effInt f fun _ a b => bfiNat f.fieldPos f.fieldWidth a b

def Machine.execSbfe (f : SFmt) (s : State) : Host.Outcome State Fault Refusal := issue (.sbfe f) false (effSbfe f) s
def Machine.execSbfi (f : SFmt) (s : State) : Host.Outcome State Fault Refusal := issue (.sbfi f) false (effSbfi f) s

/-! ### Moves and selects -/

def effSmov (f : SFmt) (s : State) (x : Issue) : State := x.writeS s f (f.op2 x.w)

def Machine.execSmov (f : SFmt) (s : State) : Host.Outcome State Fault Refusal := issue (.smov f) false (effSmov f) s

/-- s(A) when the condition register is not 0, else s(B). -/
def effSsel (f : SFmt) (s : State) (x : Issue) : State :=
  x.writeS s f (x.w.sval f.ty.wide (if x.w.sreg (f.imm14.toNat % 512) != 0 then f.aReg else f.bReg))

def Machine.execSsel (f : SFmt) (s : State) : Host.Outcome State Fault Refusal := issue (.ssel f) false (effSsel f) s

/-! ## Compare (R113) -/

/-- The flush flag of f32 in MODE. -/
def Machine.Warp.ftz32 (w : Warp) : Bool := w.pcr.mode.getLsbD 2

def scmpHolds (cc : Cc) (f : SFmt) (w : Warp) : Bool :=
  if f.ty == .f32 then FF.f32.cmp w.ftz32 cc.v (f.valA w).toNat (f.op2 w).toNat
  else intCmp cc.v (toI f.ty.isSigned f.ty.bits (f.valA w).toNat) (toI f.ty.isSigned f.ty.bits ((f.op2 w).toNat % 2 ^ f.ty.bits))

def effScmp (cc : Cc) (f : SFmt) (s : State) (x : Issue) : State := x.writeS s f (if scmpHolds cc f x.w then 1 else 0)

def Machine.execScmp (cc : Cc) (f : SFmt) (s : State) : Host.Outcome State Fault Refusal := issue (.scmp cc f) false (effScmp cc f) s

/-! ## Float operations (R114) -/

/-- The environment of a scalar float operation; a generated NaN is Tag(f32, 127, pc). -/
def Issue.senv (x : Issue) : FEnv := FEnv.ofMode x.w.pcr.mode x.f.pc

/-- An operation on the f32 encodings of A, B and the old D. -/
def effSf (f : SFmt) (op : FEnv → Nat → Nat → Nat → Nat) (s : State) (x : Issue) : State :=
  x.writeS s f (BitVec.ofNat 64 (op x.senv (x.w.sreg f.aReg).toNat (x.w.sreg f.bReg).toNat (x.w.sreg f.d.toNat).toNat))

def Machine.execSfadd (f : SFmt) (s : State) : Host.Outcome State Fault Refusal :=
  issue (.sfadd f) false (effSf f fun e a b _ => FF.f32.add e 127 a b) s
def Machine.execSfsub (f : SFmt) (s : State) : Host.Outcome State Fault Refusal :=
  issue (.sfsub f) false (effSf f fun e a b _ => FF.f32.sub e 127 a b) s
def Machine.execSfmul (f : SFmt) (s : State) : Host.Outcome State Fault Refusal :=
  issue (.sfmul f) false (effSf f fun e a b _ => FF.f32.mul e 127 a b) s
def Machine.execSffma (f : SFmt) (s : State) : Host.Outcome State Fault Refusal :=
  issue (.sffma f) false (effSf f fun e a b d => FF.f32.fma e 127 a b d) s
def Machine.execSfmin (f : SFmt) (s : State) : Host.Outcome State Fault Refusal :=
  issue (.sfmin f) false (effSf f fun e a b _ => FF.f32.minmax e false a b) s
def Machine.execSfmax (f : SFmt) (s : State) : Host.Outcome State Fault Refusal :=
  issue (.sfmax f) false (effSf f fun e a b _ => FF.f32.minmax e true a b) s

/-! ## Conversion (R115) -/

def scvtVal (f : SFmt) (st : STy) (x : Issue) : Nat :=
  convElem st.vty f.ty.vty x.senv ((x.w.sval st.wide f.aReg).toNat)

def effScvt (f : SFmt) (s : State) (x : Issue) : State :=
  x.writeS s f (BitVec.ofNat 64 (scvtVal f (f.zTy.getD .s32) x))

def Machine.execScvt (f : SFmt) (s : State) : Host.Outcome State Fault Refusal := issue (.scvt f) false (effScvt f) s

/-! ## Literal reads (R116) -/

def effLdlit (f : SFmt) (s : State) (x : Issue) : State :=
  let a := x.f.pc + 4 * f.imm23.signExtend 64
  let n := if f.ty.wide then 8 else 4
  if a.toNat / 2 ^ 57 != 0 then x.trapAt s .path 0 a
  else if a.toNat % n != 0 then x.trapAt s .align 0 a
  else match readCode s x.w a n with
    | .error (c, ea) => x.trapAt s c 0 ea
    | .ok bs => x.writeS s f (BitVec.ofNat 64 (leNat bs))

def Machine.execLdlit (f : SFmt) (s : State) : Host.Outcome State Fault Refusal := issue (.ldlit f) false (effLdlit f) s

end Sys2Proof
end

