-- ==== Sys2Proof/Machine/Dispatch.lean ====
section
/-! DEFINITION. One arm for each constructor of Instr: a direct call of its meaning. -/

namespace Sys2Proof.Machine

def exec (i : Instr) (s : State) : Host.Outcome State Fault Refusal :=
  match i with
  | .nop a => Sys2Proof.Machine.execNop a s
  | .land a => Sys2Proof.Machine.execLand a s
  | .exit a => Sys2Proof.Machine.execExit a s
  | .yield a => Sys2Proof.Machine.execYield a s
  | .brk a => Sys2Proof.Machine.execBrk a s
  | .trap a => Sys2Proof.Machine.execTrap a s
  | .br a => Sys2Proof.Machine.execBr a s
  | .brc a => Sys2Proof.Machine.execBrc a s
  | .brany a => Sys2Proof.Machine.execBrany a s
  | .brall a => Sys2Proof.Machine.execBrall a s
  | .iff a => Sys2Proof.Machine.execIff a s
  | .els a => Sys2Proof.Machine.execEls a s
  | .endif a => Sys2Proof.Machine.execEndif a s
  | .loop a => Sys2Proof.Machine.execLoop a s
  | .endloop a => Sys2Proof.Machine.execEndloop a s
  | .brkLoop a => Sys2Proof.Machine.execBrkLoop a s
  | .cont a => Sys2Proof.Machine.execCont a s
  | .rejoin a => Sys2Proof.Machine.execRejoin a s
  | .call a => Sys2Proof.Machine.execCall a s
  | .ret a => Sys2Proof.Machine.execRet a s
  | .jmp a => Sys2Proof.Machine.execJmp a s
  | .jtab a => Sys2Proof.Machine.execJtab a s
  | .ctab a => Sys2Proof.Machine.execCtab a s
  | .wait a => Sys2Proof.Machine.execWait a s
  | .sadd a => Sys2Proof.Machine.execSadd a s
  | .ssub a => Sys2Proof.Machine.execSsub a s
  | .smul a => Sys2Proof.Machine.execSmul a s
  | .smulh a => Sys2Proof.Machine.execSmulh a s
  | .sand a => Sys2Proof.Machine.execSand a s
  | .sor a => Sys2Proof.Machine.execSor a s
  | .sxor a => Sys2Proof.Machine.execSxor a s
  | .sandn a => Sys2Proof.Machine.execSandn a s
  | .sshl a => Sys2Proof.Machine.execSshl a s
  | .sshr a => Sys2Proof.Machine.execSshr a s
  | .ssar a => Sys2Proof.Machine.execSsar a s
  | .smin a => Sys2Proof.Machine.execSmin a s
  | .smax a => Sys2Proof.Machine.execSmax a s
  | .spopc a => Sys2Proof.Machine.execSpopc a s
  | .sclz a => Sys2Proof.Machine.execSclz a s
  | .sctz a => Sys2Proof.Machine.execSctz a s
  | .sbfe a => Sys2Proof.Machine.execSbfe a s
  | .sbfi a => Sys2Proof.Machine.execSbfi a s
  | .sbrev a => Sys2Proof.Machine.execSbrev a s
  | .smov a => Sys2Proof.Machine.execSmov a s
  | .ssel a => Sys2Proof.Machine.execSsel a s
  | .scmp a b => Sys2Proof.Machine.execScmp a b s
  | .sfadd a => Sys2Proof.Machine.execSfadd a s
  | .sfsub a => Sys2Proof.Machine.execSfsub a s
  | .sfmul a => Sys2Proof.Machine.execSfmul a s
  | .sffma a => Sys2Proof.Machine.execSffma a s
  | .sfmin a => Sys2Proof.Machine.execSfmin a s
  | .sfmax a => Sys2Proof.Machine.execSfmax a s
  | .scvt a => Sys2Proof.Machine.execScvt a s
  | .ldlit a => Sys2Proof.Machine.execLdlit a s
  | .mand a => Sys2Proof.Machine.execMand a s
  | .mor a => Sys2Proof.Machine.execMor a s
  | .mxor a => Sys2Proof.Machine.execMxor a s
  | .mandn a => Sys2Proof.Machine.execMandn a s
  | .mnot a => Sys2Proof.Machine.execMnot a s
  | .mpopc a => Sys2Proof.Machine.execMpopc a s
  | .mffs a => Sys2Proof.Machine.execMffs a s
  | .mmov a => Sys2Proof.Machine.execMmov a s
  | .mact a => Sys2Proof.Machine.execMact a s
  | .pcrr a => Sys2Proof.Machine.execPcrr a s
  | .pcrw a => Sys2Proof.Machine.execPcrw a s
  | .vacq a => Sys2Proof.Machine.execVacq a s
  | .vrel a => Sys2Proof.Machine.execVrel a s
  | .vadd a => Sys2Proof.Machine.execVadd a s
  | .vsub a => Sys2Proof.Machine.execVsub a s
  | .vmul a => Sys2Proof.Machine.execVmul a s
  | .vmulh a => Sys2Proof.Machine.execVmulh a s
  | .vmad a => Sys2Proof.Machine.execVmad a s
  | .vfma a => Sys2Proof.Machine.execVfma a s
  | .vmin a => Sys2Proof.Machine.execVmin a s
  | .vmax a => Sys2Proof.Machine.execVmax a s
  | .vabs a => Sys2Proof.Machine.execVabs a s
  | .vneg a => Sys2Proof.Machine.execVneg a s
  | .vand a => Sys2Proof.Machine.execVand a s
  | .vor a => Sys2Proof.Machine.execVor a s
  | .vxor a => Sys2Proof.Machine.execVxor a s
  | .vandn a => Sys2Proof.Machine.execVandn a s
  | .vnot a => Sys2Proof.Machine.execVnot a s
  | .vshl a => Sys2Proof.Machine.execVshl a s
  | .vshr a => Sys2Proof.Machine.execVshr a s
  | .vsar a => Sys2Proof.Machine.execVsar a s
  | .vlut3 a => Sys2Proof.Machine.execVlut3 a s
  | .vfshl a => Sys2Proof.Machine.execVfshl a s
  | .vfshr a => Sys2Proof.Machine.execVfshr a s
  | .vpopc a => Sys2Proof.Machine.execVpopc a s
  | .vclz a => Sys2Proof.Machine.execVclz a s
  | .vctz a => Sys2Proof.Machine.execVctz a s
  | .vbfe a => Sys2Proof.Machine.execVbfe a s
  | .vbfi a => Sys2Proof.Machine.execVbfi a s
  | .vbrev a => Sys2Proof.Machine.execVbrev a s
  | .vmov a => Sys2Proof.Machine.execVmov a s
  | .vsel a => Sys2Proof.Machine.execVsel a s
  | .vcmp a b => Sys2Proof.Machine.execVcmp a b s
  | .vrcp a => Sys2Proof.Machine.execVrcp a s
  | .vrsq a => Sys2Proof.Machine.execVrsq a s
  | .vsqrt a => Sys2Proof.Machine.execVsqrt a s
  | .vfloor a => Sys2Proof.Machine.execVfloor a s
  | .vceil a => Sys2Proof.Machine.execVceil a s
  | .vtrunc a => Sys2Proof.Machine.execVtrunc a s
  | .vrint a => Sys2Proof.Machine.execVrint a s
  | .vfract a => Sys2Proof.Machine.execVfract a s
  | .vclass a => Sys2Proof.Machine.execVclass a s
  | .vldexp a => Sys2Proof.Machine.execVldexp a s
  | .vgetexp a => Sys2Proof.Machine.execVgetexp a s
  | .vgetman a => Sys2Proof.Machine.execVgetman a s
  | .vprof a b => Sys2Proof.Machine.execVprof a b s
  | .pload a => Sys2Proof.Machine.execPload a s
  | .vcvt a => Sys2Proof.Machine.execVcvt a s
  | .vmxs a => Sys2Proof.Machine.execVmxs a s
  | .vpack a => Sys2Proof.Machine.execVpack a s
  | .vunpack a => Sys2Proof.Machine.execVunpack a s
  | .vdot2 a => Sys2Proof.Machine.execVdot2 a s
  | .vdot4 a => Sys2Proof.Machine.execVdot4 a s
  | .vshfl a => Sys2Proof.Machine.execVshfl a s
  | .vbcast a => Sys2Proof.Machine.execVbcast a s
  | .vrot a => Sys2Proof.Machine.execVrot a s
  | .vballot a => Sys2Proof.Machine.execVballot a s
  | .vred a => Sys2Proof.Machine.execVred a s
  | .vscan a => Sys2Proof.Machine.execVscan a s
  | .vnzs a => Sys2Proof.Machine.execVnzs a s
  | .vmatch a => Sys2Proof.Machine.execVmatch a s
  | .vedge a => Sys2Proof.Machine.execVedge a s
  | .vmad24 a => Sys2Proof.Machine.execVmad24 a s
  | .vbfly a => Sys2Proof.Machine.execVbfly a s
  | .vsad4 a => Sys2Proof.Machine.execVsad4 a s
  | .vld a b => Sys2Proof.Machine.execVld a b s
  | .vst a b => Sys2Proof.Machine.execVst a b s
  | .vgld a b => Sys2Proof.Machine.execVgld a b s
  | .vgldl a b => Sys2Proof.Machine.execVgldl a b s
  | .vgst a b => Sys2Proof.Machine.execVgst a b s
  | .vatom a b => Sys2Proof.Machine.execVatom a b s
  | .vpref a b => Sys2Proof.Machine.execVpref a b s
  | .sld a => Sys2Proof.Machine.execSld a s
  | .sst a => Sys2Proof.Machine.execSst a s
  | .satom a b => Sys2Proof.Machine.execSatom a b s
  | .fence a b => Sys2Proof.Machine.execFence a b s
  | .swait a b => Sys2Proof.Machine.execSwait a b s
  | .tlock a => Sys2Proof.Machine.execTlock a s
  | .tunlock a => Sys2Proof.Machine.execTunlock a s
  | .xcopy a => Sys2Proof.Machine.execXcopy a s
  | .binit a => Sys2Proof.Machine.execBinit a s
  | .barr a => Sys2Proof.Machine.execBarr a s
  | .bexp a => Sys2Proof.Machine.execBexp a s
  | .bwait a => Sys2Proof.Machine.execBwait a s
  | .btest a => Sys2Proof.Machine.execBtest a s
  | .bar a => Sys2Proof.Machine.execBar a s
  | .barcl a => Sys2Proof.Machine.execBarcl a s
  | .tcfg a => Sys2Proof.Machine.execTcfg a s
  | .tld a => Sys2Proof.Machine.execTld a s
  | .tst a => Sys2Proof.Machine.execTst a s
  | .tzero a => Sys2Proof.Machine.execTzero a s
  | .vtot a => Sys2Proof.Machine.execVtot a s
  | .ttov a => Sys2Proof.Machine.execTtov a s
  | .ttr a => Sys2Proof.Machine.execTtr a s
  | .mma a => Sys2Proof.Machine.execMma a s
  | .mmaz a => Sys2Proof.Machine.execMmaz a s
  | .mmax a => Sys2Proof.Machine.execMmax a s
  | .mmaxz a => Sys2Proof.Machine.execMmaxz a s
  | .czero a => Sys2Proof.Machine.execCzero a s
  | .cst a => Sys2Proof.Machine.execCst a s
  | .cld a => Sys2Proof.Machine.execCld a s
  | .ctov a => Sys2Proof.Machine.execCtov a s
  | .crel a => Sys2Proof.Machine.execCrel a s
  | .ncall a => Sys2Proof.Machine.execNcall a s
  | .wpin a => Sys2Proof.Machine.execWpin a s
  | .wunpin a => Sys2Proof.Machine.execWunpin a s
  | .wpref a => Sys2Proof.Machine.execWpref a s
  | .rtrace a => Sys2Proof.Machine.execRtrace a s
  | .rresume a => Sys2Proof.Machine.execRresume a s
  | .wld a => Sys2Proof.Machine.execWld a s
  | .wchild a => Sys2Proof.Machine.execWchild a s
  | .wbox8 a b c => Sys2Proof.Machine.execWbox8 a b c s
  | .wpush a => Sys2Proof.Machine.execWpush a s
  | .wpop a => Sys2Proof.Machine.execWpop a s
  | .wtri a b => Sys2Proof.Machine.execWtri a b s
  | .winst a => Sys2Proof.Machine.execWinst a s
  | .whit a b => Sys2Proof.Machine.execWhit a b s
  | .wany a => Sys2Proof.Machine.execWany a s
  | .wbr a => Sys2Proof.Machine.execWbr a s
  | .wbz a b => Sys2Proof.Machine.execWbz a b s
  | .wbnz a b => Sys2Proof.Machine.execWbnz a b s
  | .wadd a b c => Sys2Proof.Machine.execWadd a b c s
  | .waddImm a b c => Sys2Proof.Machine.execWaddImm a b c s
  | .wsub a b c => Sys2Proof.Machine.execWsub a b c s
  | .wsubImm a b c => Sys2Proof.Machine.execWsubImm a b c s
  | .wand a b c => Sys2Proof.Machine.execWand a b c s
  | .wandImm a b c => Sys2Proof.Machine.execWandImm a b c s
  | .wshr a b c => Sys2Proof.Machine.execWshr a b c s
  | .wshrImm a b c => Sys2Proof.Machine.execWshrImm a b c s
  | .wmov a b => Sys2Proof.Machine.execWmov a b s
  | .wmovSpecial a b => Sys2Proof.Machine.execWmovSpecial a b s
  | .wldi a b => Sys2Proof.Machine.execWldi a b s
  | .wldiHi a b => Sys2Proof.Machine.execWldiHi a b s
  | .wld32 a b => Sys2Proof.Machine.execWld32 a b s
  | .wcmp a b c d => Sys2Proof.Machine.execWcmp a b c d s
  | .wcall a b => Sys2Proof.Machine.execWcall a b s
  | .wret a => Sys2Proof.Machine.execWret a s
  | .wfail a => Sys2Proof.Machine.execWfail a s
  | .xbuild a => Sys2Proof.Machine.execXbuild a s
  | .ralloc a => Sys2Proof.Machine.execRalloc a s
  | .rcommit a => Sys2Proof.Machine.execRcommit a s
  | .rfree a => Sys2Proof.Machine.execRfree a s
  | .pzt a => Sys2Proof.Machine.execPzt a s
  | .pwr a => Sys2Proof.Machine.execPwr a s
  | .pdone a => Sys2Proof.Machine.execPdone a s
  | .fmask a => Sys2Proof.Machine.execFmask a s
  | .fstate a => Sys2Proof.Machine.execFstate a s
  | .fresReplay a => Sys2Proof.Machine.execFresReplay a s
  | .fresComplete a => Sys2Proof.Machine.execFresComplete a s
  | .fkill a => Sys2Proof.Machine.execFkill a s
  | .fpark a => Sys2Proof.Machine.execFpark a s
  | .hcrr a => Sys2Proof.Machine.execHcrr a s
  | .hcrw a => Sys2Proof.Machine.execHcrw a s
  | .phring a b c => Sys2Proof.Machine.execPhring a b c s
  | .phretire a b => Sys2Proof.Machine.execPhretire a b s
  | .phbfx a b c => Sys2Proof.Machine.execPhbfx a b c s
  | .phbfxS a b c => Sys2Proof.Machine.execPhbfxS a b c s
  | .phwait a b c => Sys2Proof.Machine.execPhwait a b c s
  | .phdisp a b c => Sys2Proof.Machine.execPhdisp a b c s
  | .phunseal a b => Sys2Proof.Machine.execPhunseal a b s
  | .phseal a b => Sys2Proof.Machine.execPhseal a b s
  | .unassignedEncoding a b => Sys2Proof.Machine.execUnassignedEncoding a b s
  | .swaitRecheck => Sys2Proof.Machine.execSwaitRecheck s
  | .swaitTimeout => Sys2Proof.Machine.execSwaitTimeout s
  | .copyChunk => Sys2Proof.Machine.execCopyChunk s
  | .copyComplete => Sys2Proof.Machine.execCopyComplete s
  | .barto => Sys2Proof.Machine.execBarto s
  | .matrixOpStart => Sys2Proof.Machine.execMatrixOpStart s
  | .matrixOpComplete => Sys2Proof.Machine.execMatrixOpComplete s
  | .mbuPeriod => Sys2Proof.Machine.execMbuPeriod s
  | .binAgeFlush => Sys2Proof.Machine.execBinAgeFlush s
  | .sluiceJobComplete => Sys2Proof.Machine.execSluiceJobComplete s
  | .wleaf => Sys2Proof.Machine.execWleaf s
  | .winstN => Sys2Proof.Machine.execWinstN s
  | .wexit => Sys2Proof.Machine.execWexit s
  | .wdone => Sys2Proof.Machine.execWdone s
  | .build => Sys2Proof.Machine.execBuild s
  | .basinTimeout => Sys2Proof.Machine.execBasinTimeout s
  | .rasterise => Sys2Proof.Machine.execRasterise s
  | .cellEmit => Sys2Proof.Machine.execCellEmit s
  | .pixelOperation => Sys2Proof.Machine.execPixelOperation s
  | .cellWriteback => Sys2Proof.Machine.execCellWriteback s
  | .pendingPark => Sys2Proof.Machine.execPendingPark s
  | .timer => Sys2Proof.Machine.execTimer s
  | .reachSelect => Sys2Proof.Machine.execReachSelect s
  | .accessComplete => Sys2Proof.Machine.execAccessComplete s
  | .refreshWindowBegin => Sys2Proof.Machine.execRefreshWindowBegin s
  | .refreshWindowEnd => Sys2Proof.Machine.execRefreshWindowEnd s
  | .dispatch => Sys2Proof.Machine.execDispatch s
  | .handlerLaunch => Sys2Proof.Machine.execHandlerLaunch s
  | .faultService => Sys2Proof.Machine.execFaultService s
  | .budgetPeriod => Sys2Proof.Machine.execBudgetPeriod s
  | .budgetCollect => Sys2Proof.Machine.execBudgetCollect s
  | .eviction => Sys2Proof.Machine.execEviction s
  | .preemption => Sys2Proof.Machine.execPreemption s
  | .saveComplete => Sys2Proof.Machine.execSaveComplete s
  | .restore => Sys2Proof.Machine.execRestore s
  | .uncorrectableError => Sys2Proof.Machine.execUncorrectableError s
  | .halt => Sys2Proof.Machine.execHalt s
  | .launchComplete => Sys2Proof.Machine.execLaunchComplete s
  | .launch => Sys2Proof.Machine.execLaunch s
  | .fill => Sys2Proof.Machine.execFill s
  | .signal => Sys2Proof.Machine.execSignal s
  | .waitCommand => Sys2Proof.Machine.execWaitCommand s
  | .waitCommandRecheck => Sys2Proof.Machine.execWaitCommandRecheck s
  | .waitCommandTimeout => Sys2Proof.Machine.execWaitCommandTimeout s
  | .nopCommand => Sys2Proof.Machine.execNopCommand s
  | .wake => Sys2Proof.Machine.execWake s
  | .wakeWrite => Sys2Proof.Machine.execWakeWrite s
  | .ctxnew => Sys2Proof.Machine.execCtxnew s
  | .ctxset => Sys2Proof.Machine.execCtxset s
  | .ctxfree => Sys2Proof.Machine.execCtxfree s
  | .partset => Sys2Proof.Machine.execPartset s
  | .qcreate => Sys2Proof.Machine.execQcreate s
  | .qfree => Sys2Proof.Machine.execQfree s
  | .qadminPause => Sys2Proof.Machine.execQadminPause s
  | .qadminResume => Sys2Proof.Machine.execQadminResume s
  | .qadminReset => Sys2Proof.Machine.execQadminReset s
  | .qstat => Sys2Proof.Machine.execQstat s
  | .map => Sys2Proof.Machine.execMap s
  | .unmap => Sys2Proof.Machine.execUnmap s
  | .protect => Sys2Proof.Machine.execProtect s
  | .pgreg => Sys2Proof.Machine.execPgreg s
  | .pgans => Sys2Proof.Machine.execPgans s
  | .handler => Sys2Proof.Machine.execHandler s
  | .peergrant => Sys2Proof.Machine.execPeergrant s
  | .kill => Sys2Proof.Machine.execKill s
  | .evread => Sys2Proof.Machine.execEvread s
  | .resync => Sys2Proof.Machine.execResync s
  | .fwload => Sys2Proof.Machine.execFwload s
  | .fwswap => Sys2Proof.Machine.execFwswap s
  | .fwswapRollback => Sys2Proof.Machine.execFwswapRollback s
  | .attest => Sys2Proof.Machine.execAttest s
  | .xlate => Sys2Proof.Machine.execXlate s
  | .xlateTimeout => Sys2Proof.Machine.execXlateTimeout s
  | .ethring => Sys2Proof.Machine.execEthring s
  | .timeset => Sys2Proof.Machine.execTimeset s
  | .ptpcfg => Sys2Proof.Machine.execPtpcfg s
  | .mtail => Sys2Proof.Machine.execMtail s
  | .devnum => Sys2Proof.Machine.execDevnum s
  | .registerWrite => Sys2Proof.Machine.execRegisterWrite s
  | .causewayLoad => Sys2Proof.Machine.execCausewayLoad s
  | .causewayStore => Sys2Proof.Machine.execCausewayStore s
  | .causewayAtomic => Sys2Proof.Machine.execCausewayAtomic s
  | .causewayCompletion => Sys2Proof.Machine.execCausewayCompletion s
  | .causewayImage => Sys2Proof.Machine.execCausewayImage s
  | .causewayEvent => Sys2Proof.Machine.execCausewayEvent s
  | .causewayWake => Sys2Proof.Machine.execCausewayWake s
  | .causewayDiscard => Sys2Proof.Machine.execCausewayDiscard s
  | .peerTimeout => Sys2Proof.Machine.execPeerTimeout s
  | .hostTimeout => Sys2Proof.Machine.execHostTimeout s
  | .linkDown => Sys2Proof.Machine.execLinkDown s
  | .linkUp => Sys2Proof.Machine.execLinkUp s
  | .frameReceive => Sys2Proof.Machine.execFrameReceive s
  | .ptpMessage => Sys2Proof.Machine.execPtpMessage s
  | .powerCheck => Sys2Proof.Machine.execPowerCheck s
  | .tempLimit => Sys2Proof.Machine.execTempLimit s
  | .reset => Sys2Proof.Machine.execReset s
  | .boot3Timeout => Sys2Proof.Machine.execBoot3Timeout s
  | .phwaitTimeout => Sys2Proof.Machine.execPhwaitTimeout s
  | .correctableError => Sys2Proof.Machine.execCorrectableError s

end Sys2Proof.Machine
end

