-- ==== Sys2Proof/Machine/Place.lean ====
section
/-! DEFINITION. A state whose next step fetches and runs a given word (log 10): a warp, a walk or a service core with everything its
fetch needs. It stands for the loading of a program from outside the machine. -/

namespace Sys2Proof

open Machine

/-- A launch record that declares nothing but a kernel at path-0 address 0x10000 and 8 trap frames at 0x100000. -/
def Machine.LaunchRec.plain : LaunchRec :=
  { kstart := 0x10000, karg := 0, gx := 1, gy := 1, gz := 1, wx := 96, wy := 1, wz := 1, cgwg := 0, pool := 0, base32 := 64, bars := 16,
    scrl := 64, accs := 48, tiles := 16, nflush := 0, seed := 0, rlab := 0, entry := 0, dtab := 0, dtl := 0, wslen := 0, wstab := 0,
    prof := 0, walktab := 0, walkn := 0, rayslots := 0, savebase := 0, spillbase := 0, rttab := 0, frame := 0x100000, frames := 8,
    pincap := 0, rdisc := false, nnodes := 0, graph := 0, catbase := 0, catsize := 0, firstcnt := 0, firstnode := 0, firstsrc := 0,
    res := [] }

/-- A grid launch of one workgroup, already placed. -/
def Machine.Launch.plain (level : Level) (ctl : Bool) (walks : List (Option WalkProg)) : Launch :=
  { queue := none, ctx := 0, cls := .b, level := level, ctl := ctl, deadline := 0, age := 0, lrec := .plain, wsets := [], walks := walks,
    prof := [], targets := [], pins := [], nextWg := 1, taken := [], graph := none, node := 0, seqno := 0,
    records := [], cluster := none, nodes := [], slots := [], slotQ := 0, ticket := [], retired := [] }

/-- A context whose tables map the first gigabyte onto itself (top table at 0x1000, its entry 0 to 0x2000, entry 0 there a 1-GiB leaf), and whose
budgets have no limit. -/
def Machine.Ctx.plain : Ctx :=
  { desc := { ptroot := 0x1000, part := 0, classes := 31, wsbase0 := 0, wslen0 := 0, wsbase1 := 0, wslen1 := 0, hostbase := 0, hostlen := 0,
              csave := 0, csavelen := 0, wdog := 0, peerto := 0, lockcap := 0,
              budget := (List.range 40).map fun k => (k, 0xFFFFFFFF) },
    pending := none, tq := [], tqmask := 0xFFFFFFFF, events := 0, log := .empty, handler := none, hkeep := ([], [], [], []), paging := false,
    protMsgs := false, parks := [], halted := none, capture := none, nextWarp := 1, spent := [], charged := [], later := (0, []), drops := 0 }

def Machine.Wg.plain (lid gid wid : Nat) (ctl : Bool) : Wg :=
  { ctx := 0, launch := lid, linear := 0, x := 0, y := 0, z := 0, cg := gid, cls := .b, ctl := ctl, core := 0, resid := .resident,
    warps := [wid], scratch := [], lines := 64, absent := [], pool := 0, free := 0, slots := 16, rounds := [], locks := [], idle := none }

/-- The page tables of `Ctx.plain`. -/
def plainTables (m : Memory) : Memory := Memory.setLe (Memory.setLe m 0x1000 8 0x2001) 0x2000 8 0x1F

/-- A warp about to issue the word at its PC. A handler instruction is placed in a handler warp, on a control core. -/
def placeCode (s : State) (n w : Nat) : State :=
  let id := s.freshId
  let opc := w / 2 ^ 21 % 256
  let h := isHandlerOpc opc
  let L := Machine.Launch.plain (if h then .h else .u) h []
  let wp := newWarp L id id 0 0 0 0 0 0 0 0 0
  { s with
    hbm := Memory.setLe (plainTables s.hbm) 0x10000 12 (w % 2 ^ n),
    olds := Tbl.keep s.olds fun k _ => !(decide (0x4000 ≤ k) && decide (k ≤ 0x4002)),
    ctxs := Tbl.put s.ctxs 0 .plain,
    launches := Tbl.put s.launches id L,
    cgs := Tbl.put s.cgs id { launch := id, cluster := 0, wgs := [id], rounds := [] },
    wgs := Tbl.put s.wgs id (.plain id id id h),
    warps := Tbl.put s.warps id { wp with frags := [(0, { Machine.Frag.first wp.lanes0 0x10000 .running with lanes := wp.lanes0 })] },
    turns := .issue id 0 :: s.turns, freshId := id + 1 }

/-- A service core about to execute the word at its PC. -/
def placePh (s : State) (w : Nat) : State :=
  let pc := (match Tbl.find s.ph 0 with | some c => c.pc.toNat | none => 0)
  { s with sram := Memory.setLe s.sram pc 4 w, turns := .ph 0 :: s.turns }

/-- A walk about to take the step of the word at its UPC. -/
def placeWalk (s : State) (w : Nat) : State :=
  let id := s.freshId
  let prog : WalkProg := { code := [BitVec.ofNat 32 w], sign := 0, root := 0, layouts := [] }
  let L := Machine.Launch.plain .u false [some prog]
  let wp := newWarp L id id 0 0 0 0 0 0 0 0 0
  let k : Walk :=
    { warp := id, frag := 0, lane := 0, ctx := 0, cls := .b, core := 0, launch := id, access := 0, tok := 0, d := 0, park := false,
      first := false, idx := 0, prog := 0, world := List.replicate 8 0, levels := [], taddr := [], g := [], n := 0, buf := [], nb := false,
      hitv := false, u := 0, v := 0, prim := 0, inst := 0, stk := [], spl := 0, upc := 0, rebuild := false, aside := none, pend := none,
      saving := none, resid := .resident }
  { s with
    hbm := plainTables s.hbm,
    ctxs := Tbl.put s.ctxs 0 .plain,
    launches := Tbl.put s.launches id L,
    cgs := Tbl.put s.cgs id { launch := id, cluster := 0, wgs := [id], rounds := [] },
    wgs := Tbl.put s.wgs id (.plain id id id false),
    warps := Tbl.put s.warps id wp,
    walks := Tbl.put s.walks id k,
    turns := .walk id :: s.turns, freshId := id + 1 }

/-- Where a word is fetched from depends on the word space it belongs to. -/
def placeWord (s : State) (nbits w : Nat) : State :=
  match decodeTableWord nbits w with
  | some i => (match i.shape with
    | .walk _ _ _ _ _ _ => placeWalk s w
    | .ph _ _ _ _ _ _ => placePh s w
    | _ => placeCode s nbits w)
  | none => placeCode s nbits w

end Sys2Proof
end

