-- ==== Sys2Proof/Machine/Riscv.lean ====
section
/-! DEFINITION. The base instruction set of the pump house's cores (R338): RV64IMAC with Zicsr and Zifencei on the service cores, RV32IMC on the
security core. The spec names these sets and does not describe them; they are PRESUMED from the RISC-V standard, and what it leaves to
an implementation is a DESIGN CHOICE (log 6). A register of the 32-bit core holds its word sign-extended. -/

namespace Sys2Proof

open Machine

/-! ## Instructions -/

/-- An arithmetic function. -/
inductive RvAlu where
  | add | sub | sll | slt | sltu | xor | srl | sra | or | and
  | mul | mulh | mulhsu | mulhu | div | divu | rem | remu
  deriving DecidableEq, Repr

/-- The condition of a branch. -/
inductive RvCond where
  | eq | ne | lt | ge | ltu | geu
  deriving DecidableEq, Repr

/-- What an atomic operation stores. -/
inductive RvAmo where
  | swap | add | xor | and | or | min | max | minu | maxu
  deriving DecidableEq, Repr

/-- What becomes of a control and status register. -/
inductive RvCsr where
  | write | set | clear
  deriving DecidableEq, Repr

/-- The second source of an arithmetic instruction, or the source of a register write: a register or an immediate. -/
inductive RvSrc where
  | reg (r : BitVec 5)
  | imm (v : DWord)
  deriving DecidableEq, Repr

/-- An instruction; `word` is that of the 32-bit forms of RV64, and `n` counts bytes. -/
inductive RvOp where
  | upper (pcrel : Bool) (rd : BitVec 5) (v : DWord)
  | jump (rd : BitVec 5) (off : DWord)
  | jumpReg (rd rs1 : BitVec 5) (off : DWord)
  | branch (c : RvCond) (rs1 rs2 : BitVec 5) (off : DWord)
  | load (n : Nat) (sign : Bool) (rd rs1 : BitVec 5) (off : DWord)
  | store (n : Nat) (rs1 rs2 : BitVec 5) (off : DWord)
  | alu (f : RvAlu) (word : Bool) (rd rs1 : BitVec 5) (b : RvSrc)
  | fence
  | ecall
  | ebreak
  | mret
  | csr (f : RvCsr) (rd : BitVec 5) (src : RvSrc) (num : Nat)
  | lr (n : Nat) (rd rs1 : BitVec 5)
  | sc (n : Nat) (rd rs1 rs2 : BitVec 5)
  | amo (f : RvAmo) (n : Nat) (rd rs1 rs2 : BitVec 5)
  deriving DecidableEq, Repr

/-! ## Decoding -/

/-- Bits hi to lo of a word. -/
def rvBits (w hi lo : Nat) : Nat := w / 2 ^ lo % 2 ^ (hi - lo + 1)

/-- A register field. -/
def rvReg (w lo : Nat) : BitVec 5 := BitVec.ofNat 5 (w / 2 ^ lo)

/-- An n-bit number, sign-extended. -/
def rvSext (n v : Nat) : DWord := BitVec.ofInt 64 (toI true n (v % 2 ^ n))

/-- Fields of a scattered immediate: pieces of a word, each from bit `lo` with a width, to the place `dst`. -/
def rvGather (w : Nat) (ps : List (Nat × Nat × Nat)) : Nat := ps.foldl (fun v p => v + w / 2 ^ p.1 % 2 ^ p.2.1 * 2 ^ p.2.2) 0

def rvImmI (w : Nat) : DWord := rvSext 12 (rvBits w 31 20)

def rvImmS (w : Nat) : DWord := rvSext 12 (rvGather w [(7, 5, 0), (25, 7, 5)])

def rvImmB (w : Nat) : DWord := rvSext 13 (rvGather w [(8, 4, 1), (25, 6, 5), (7, 1, 11), (31, 1, 12)])

def rvImmJ (w : Nat) : DWord := rvSext 21 (rvGather w [(21, 10, 1), (20, 1, 11), (12, 8, 12), (31, 1, 20)])

def rvImmU (w : Nat) : DWord := rvSext 32 (w / 4096 * 4096)

/-- Function of a register form, by funct7 and funct3. -/
def rvAluReg (f7 f3 : Nat) : Option RvAlu :=
  if f7 = 0 then [RvAlu.add, .sll, .slt, .sltu, .xor, .srl, .or, .and][f3]?
  else if f7 = 1 then [RvAlu.mul, .mulh, .mulhsu, .mulhu, .div, .divu, .rem, .remu][f3]?
  else if f7 = 0x20 && f3 == 0 then some .sub
  else if f7 = 0x20 && f3 == 5 then some .sra
  else none

/-- Functions that have a 32-bit form on RV64. -/
def RvAlu.hasWord (f : RvAlu) : Bool := [RvAlu.add, .sub, .sll, .srl, .sra, .mul, .div, .divu, .rem, .remu].contains f

/-- A shift amount of `n` bits with the bits above it. -/
def rvShift (left : Bool) (n w : Nat) : Option (RvAlu × DWord) :=
  let sh := BitVec.ofNat 64 (rvBits w 31 20 % 2 ^ n)
  let top := rvBits w 31 20 / 2 ^ n * 2 ^ n
  if left then (if top = 0 then some (.sll, sh) else none)
  else if top = 0 then some (.srl, sh)
  else if top = 0x400 then some (.sra, sh)
  else none

/-- An immediate form with shift amounts of `n` bits. -/
def rvAluImm (n w : Nat) : Option (RvAlu × DWord) :=
  match rvBits w 14 12 with
  | 0 => some (.add, rvImmI w)
  | 1 => rvShift true n w
  | 2 => some (.slt, rvImmI w)
  | 3 => some (.sltu, rvImmI w)
  | 4 => some (.xor, rvImmI w)
  | 5 => rvShift false n w
  | 6 => some (.or, rvImmI w)
  | _ => some (.and, rvImmI w)

def rvCond (f3 : Nat) : Option RvCond := [some RvCond.eq, some .ne, none, none, some .lt, some .ge, some .ltu, some .geu][f3]?.join

/-- The atomic operation of funct5. -/
def rvAmo (f5 : Nat) : Option RvAmo :=
  match f5 with
  | 0x01 => some .swap
  | 0x00 => some .add
  | 0x04 => some .xor
  | 0x0C => some .and
  | 0x08 => some .or
  | 0x10 => some .min
  | 0x14 => some .max
  | 0x18 => some .minu
  | 0x1C => some .maxu
  | _ => none

/-- The system opcode: funct3 0 holds `ecall`, `ebreak`, `mret` and `wfi`, the others the register forms of Zicsr. -/
def rvSystem (zicsr : Bool) (w : Nat) : Option RvOp :=
  let f3 := rvBits w 14 12
  let src : RvSrc := if f3 < 4 then .reg (rvReg w 15) else .imm (BitVec.ofNat 64 (rvBits w 19 15))
  if w = 0x00000073 then some .ecall
  else if w = 0x00100073 then some .ebreak
  else if w = 0x30200073 then some .mret
  else if w = 0x10500073 then some .fence
  else if !zicsr then none
  else match f3 % 4 with
    | 1 => some (.csr .write (rvReg w 7) src (rvBits w 31 20))
    | 2 => some (.csr .set (rvReg w 7) src (rvBits w 31 20))
    | 3 => some (.csr .clear (rvReg w 7) src (rvBits w 31 20))
    | _ => none

/-- The atomic opcode. -/
def rvAtomic (w : Nat) : Option RvOp :=
  let n := if rvBits w 14 12 = 2 then 4 else 8
  let f5 := rvBits w 31 27
  if rvBits w 14 12 != 2 && rvBits w 14 12 != 3 then none
  else if f5 = 2 then (if rvReg w 20 = 0 then some (.lr n (rvReg w 7) (rvReg w 15)) else none)
  else if f5 = 3 then some (.sc n (rvReg w 7) (rvReg w 15) (rvReg w 20))
  else (rvAmo f5).map fun f => .amo f n (rvReg w 7) (rvReg w 15) (rvReg w 20)

/-- A 32-bit instruction; `wide` is RV64IMAC with Zicsr and Zifencei, else RV32IM. -/
def rvDecode32 (wide : Bool) (w : Nat) : Option RvOp :=
  let rd := rvReg w 7
  let rs1 := rvReg w 15
  let rs2 := rvReg w 20
  let f3 := rvBits w 14 12
  match w % 128 with
  | 0x37 => some (.upper false rd (rvImmU w))
  | 0x17 => some (.upper true rd (rvImmU w))
  | 0x6F => some (.jump rd (rvImmJ w))
  | 0x67 => if f3 = 0 then some (.jumpReg rd rs1 (rvImmI w)) else none
  | 0x63 => (rvCond f3).map fun c => .branch c rs1 rs2 (rvImmB w)
  | 0x03 =>
    if f3 = 7 || (!wide && (f3 == 3 || f3 == 6)) then none else some (.load (2 ^ (f3 % 4)) (decide (f3 < 4)) rd rs1 (rvImmI w))
  | 0x23 => if 3 < f3 || (!wide && f3 == 3) then none else some (.store (2 ^ f3) rs1 rs2 (rvImmS w))
  | 0x13 => (rvAluImm (if wide then 6 else 5) w).map fun p => .alu p.1 false rd rs1 (.imm p.2)
  | 0x33 => (rvAluReg (rvBits w 31 25) f3).map fun f => .alu f false rd rs1 (.reg rs2)
  | 0x1B =>
    if wide && (f3 == 0 || f3 == 1 || f3 == 5) then (rvAluImm 5 w).map fun p => .alu p.1 true rd rs1 (.imm p.2) else none
  | 0x3B =>
    if wide then ((rvAluReg (rvBits w 31 25) f3).filter RvAlu.hasWord).map fun f => .alu f true rd rs1 (.reg rs2) else none
  | 0x0F => if f3 = 0 || (wide && f3 == 1) then some .fence else none
  | 0x2F => if wide then rvAtomic w else none
  | 0x73 => rvSystem wide w
  | _ => none

/-- Registers x8 to x15. -/
def rvcReg (h lo : Nat) : BitVec 5 := BitVec.ofNat 5 (8 + h / 2 ^ lo % 8)

/-- The 6-bit immediate of a compressed form. -/
def rvcImm (h : Nat) : Nat := rvGather h [(2, 5, 0), (12, 1, 5)]

/-- Compressed forms whose low bits are 00. -/
def rvcZero (wide : Bool) (h : Nat) : Option RvOp :=
  let rd := rvcReg h 2
  let rs1 := rvcReg h 7
  let sp4 := rvGather h [(6, 1, 2), (5, 1, 3), (11, 2, 4), (7, 4, 6)]
  let o4 := BitVec.ofNat 64 (rvGather h [(6, 1, 2), (10, 3, 3), (5, 1, 6)])
  let o8 := BitVec.ofNat 64 (rvGather h [(10, 3, 3), (5, 2, 6)])
  match h / 8192 with
  | 0 => if sp4 = 0 then none else some (.alu .add false rd 2 (.imm (BitVec.ofNat 64 sp4)))
  | 2 => some (.load 4 true rd rs1 o4)
  | 3 => if wide then some (.load 8 true rd rs1 o8) else none
  | 6 => some (.store 4 rs1 rd o4)
  | 7 => if wide then some (.store 8 rs1 rd o8) else none
  | _ => none

/-- Compressed arithmetic on x8 to x15. -/
def rvcArith (wide : Bool) (h : Nat) : Option RvOp :=
  let rd := rvcReg h 7
  let sh : RvSrc := .imm (BitVec.ofNat 64 (rvcImm h))
  match rvBits h 11 10 with
  | 0 => if !wide && 32 ≤ rvcImm h then none else some (.alu .srl false rd rd sh)
  | 1 => if !wide && 32 ≤ rvcImm h then none else some (.alu .sra false rd rd sh)
  | 2 => some (.alu .and false rd rd (.imm (rvSext 6 (rvcImm h))))
  | _ =>
    if h / 4096 % 2 = 0 then ([RvAlu.sub, .xor, .or, .and][rvBits h 6 5]?).map fun f => .alu f false rd rd (.reg (rvcReg h 2))
    else if wide then ([RvAlu.sub, .add][rvBits h 6 5]?).map fun f => .alu f true rd rd (.reg (rvcReg h 2))
    else none

/-- Compressed forms whose low bits are 01. -/
def rvcOne (wide : Bool) (h : Nat) : Option RvOp :=
  let rd := rvReg h 7
  let imm := rvSext 6 (rvcImm h)
  let sp := rvSext 10 (rvGather h [(6, 1, 4), (2, 1, 5), (5, 1, 6), (3, 2, 7), (12, 1, 9)])
  let off := rvSext 12 (rvGather h [(3, 3, 1), (11, 1, 4), (2, 1, 5), (7, 1, 6), (6, 1, 7), (9, 2, 8), (8, 1, 10), (12, 1, 11)])
  let near := rvSext 9 (rvGather h [(3, 2, 1), (10, 2, 3), (2, 1, 5), (5, 2, 6), (12, 1, 8)])
  match h / 8192 with
  | 0 => some (.alu .add false rd rd (.imm imm))
  | 1 => if !wide then some (.jump 1 off) else if rd = 0 then none else some (.alu .add true rd rd (.imm imm))
  | 2 => some (.alu .add false rd 0 (.imm imm))
  | 3 =>
    if rvcImm h = 0 then none
    else if rd = 2 then some (.alu .add false 2 2 (.imm sp))
    else some (.upper false rd (imm <<< 12))
  | 4 => rvcArith wide h
  | 5 => some (.jump 0 off)
  | 6 => some (.branch .eq (rvcReg h 7) 0 near)
  | _ => some (.branch .ne (rvcReg h 7) 0 near)

/-- Compressed forms whose low bits are 10. -/
def rvcTwo (wide : Bool) (h : Nat) : Option RvOp :=
  let rd := rvReg h 7
  let rs2 := rvReg h 2
  let l4 := BitVec.ofNat 64 (rvGather h [(4, 3, 2), (12, 1, 5), (2, 2, 6)])
  let l8 := BitVec.ofNat 64 (rvGather h [(5, 2, 3), (12, 1, 5), (2, 3, 6)])
  let s4 := BitVec.ofNat 64 (rvGather h [(9, 4, 2), (7, 2, 6)])
  let s8 := BitVec.ofNat 64 (rvGather h [(10, 3, 3), (7, 3, 6)])
  match h / 8192 with
  | 0 => if !wide && 32 ≤ rvcImm h then none else some (.alu .sll false rd rd (.imm (BitVec.ofNat 64 (rvcImm h))))
  | 2 => if rd = 0 then none else some (.load 4 true rd 2 l4)
  | 3 => if rd = 0 || !wide then none else some (.load 8 true rd 2 l8)
  | 4 =>
    if h / 4096 % 2 = 0 then
      (if rs2 != 0 then some (.alu .add false rd 0 (.reg rs2)) else if rd = 0 then none else some (.jumpReg 0 rd 0))
    else if rs2 != 0 then some (.alu .add false rd rd (.reg rs2))
    else if rd = 0 then some .ebreak
    else some (.jumpReg 1 rd 0)
  | 6 => some (.store 4 2 rs2 s4)
  | 7 => if wide then some (.store 8 2 rs2 s8) else none
  | _ => none

/-- Bytes of the instruction that begins with a word. -/
def rvLength (w : Nat) : Nat := if w % 4 = 3 then 4 else 2

/-- The instruction that begins with a word. -/
def rvDecode (wide : Bool) (w : Nat) : Option RvOp :=
  match w % 4 with
  | 0 => rvcZero wide (w % 65536)
  | 1 => rvcOne wide (w % 65536)
  | 2 => rvcTwo wide (w % 65536)
  | _ => rvDecode32 wide w

/-! ## Arithmetic -/

/-- A number as a register of `xl` bits holds it. -/
def rvFit (xl : Nat) (v : Int) : DWord := BitVec.ofInt 64 (toI true xl (wrapI xl v))

/-- A function on the low `xl` bits of its operands. -/
def RvAlu.apply (xl : Nat) (f : RvAlu) (x y : DWord) : DWord :=
  let a := x.toNat % 2 ^ xl
  let b := y.toNat % 2 ^ xl
  let sa := toI true xl a
  let sb := toI true xl b
  let sh := b % xl
  rvFit xl (match f with
    | .add => a + b
    | .sub => a - b
    | .sll => a * 2 ^ sh
    | .slt => if sa < sb then 1 else 0
    | .sltu => if a < b then 1 else 0
    | .xor => (a ^^^ b : Nat)
    | .srl => (a / 2 ^ sh : Nat)
    | .sra => sa / 2 ^ sh
    | .or => (a ||| b : Nat)
    | .and => (a &&& b : Nat)
    | .mul => a * b
    | .mulh => sa * sb / 2 ^ xl
    | .mulhsu => sa * b / 2 ^ xl
    | .mulhu => (a * b / 2 ^ xl : Nat)
    | .div => if b = 0 then -1 else Int.tdiv sa sb
    | .divu => if b = 0 then -1 else (a / b : Nat)
    | .rem => if b = 0 then sa else Int.tmod sa sb
    | .remu => if b = 0 then a else (a % b : Nat))

def RvCond.holds (c : RvCond) (x y : DWord) : Bool :=
  match c with
  | .eq => x == y
  | .ne => x != y
  | .lt => decide (x.toInt < y.toInt)
  | .ge => decide (y.toInt ≤ x.toInt)
  | .ltu => decide (x.toNat < y.toNat)
  | .geu => decide (y.toNat ≤ x.toNat)

/-- What an atomic operation on `xl` bits stores: `a` is in memory, `b` the operand. -/
def RvAmo.apply (xl : Nat) (f : RvAmo) (a b : Nat) : Nat :=
  let sa := toI true xl a
  let sb := toI true xl b
  match f with
  | .swap => b
  | .add => (a + b) % 2 ^ xl
  | .xor => a ^^^ b
  | .and => a &&& b
  | .or => a ||| b
  | .min => if sa < sb then a else b
  | .max => if sa < sb then b else a
  | .minu => Nat.min a b
  | .maxu => Nat.max a b

/-! ## Control and status registers -/

/-- A core: one of the four service cores, or the security core. -/
inductive Hart where
  | service (k : Nat)
  | security
  deriving DecidableEq, Repr

def Hart.wide (h : Hart) : Bool := h != .security

def Hart.xlen (h : Hart) : Nat := if h.wide then 64 else 32

def hartOf (s : State) (h : Hart) : Option PhCore :=
  match h with
  | .service k => Tbl.find s.ph k
  | .security => some s.sec

def setHart (s : State) (h : Hart) (c : PhCore) : State :=
  match h with
  | .service k => { s with ph := Tbl.put s.ph k c }
  | .security => { s with sec := c }

/-- Cycles of a core at 1.5 GHz since reset (R338). -/
def coreCycles (s : State) : Nat := 5 * clkNat s / 7

/-- The CSR of the model's own that sets the translation of device memory: bit 0 set for a context's tables, the context in [25:16].
DESIGN CHOICE (log 6). -/
def windowCsr : Nat := 0x7C0

/-- A control and status register read; none for one that a core does not have. The security core has no Zicsr. -/
def csrRead (s : State) (k : Nat) (c : PhCore) (n : Nat) : Option DWord :=
  let kept := Tbl.read 0 c.csr n
  if n = 0x300 then some (c.mstatus ||| 0x200000000)
  else if n = 0x301 then some 0x8000000000101105
  else if n = 0x305 then some c.mtvec
  else if n = 0x341 then some c.mepc
  else if n = 0x342 then some c.mcause
  else if n = 0x343 then some c.mtval
  else if n = 0xF14 then some (BitVec.ofNat 64 k)
  else if n = 0xB00 then some (kept + BitVec.ofNat 64 (coreCycles s))
  else if [0x304, 0x306, 0x340, 0xB02, windowCsr].contains n then some kept
  else if n = 0x344 || n = 0x30A || n = 0x320 || (0xF11 ≤ n && n ≤ 0xF15) || (0x323 ≤ n && n ≤ 0x33F) || (0xB03 ≤ n && n ≤ 0xB1F) then some 0
  else none

/-- The legal value that a write of mstatus leaves: MIE, MPIE, MPRV and an MPP of machine or user mode. -/
def legalStatus (v : DWord) : DWord := (v &&& 0x20088) ||| (if v &&& 0x1800 = 0x1800 then 0x1800 else 0)

/-- A control and status register written. -/
def csrWrite (s : State) (c : PhCore) (n : Nat) (v : DWord) : PhCore :=
  let keep (v : DWord) : PhCore := { c with csr := Tbl.write 0 c.csr n v }
  if n = 0x300 then { c with mstatus := legalStatus v }
  else if n = 0x305 then { c with mtvec := v &&& ~~~(2 : DWord) }
  else if n = 0x341 then { c with mepc := v &&& ~~~(1 : DWord) }
  else if n = 0x342 then { c with mcause := v }
  else if n = 0x343 then { c with mtval := v }
  else if n = 0x304 then keep (v &&& 0x888)
  else if n = 0x306 then keep (v &&& 7)
  else if n = windowCsr then keep (v &&& 0x3FF0001)
  else if n = 0xB00 then keep (v - BitVec.ofNat 64 (coreCycles s))
  else if n = 0x340 || n = 0xB02 then keep v
  else c

/-! ## Memory -/

/-- Where an address of a core leads (R338). -/
inductive RvPlace where
  | sram (a : Nat)
  | own (a : Nat)
  | device (ctx : Option Nat) (a : Nat)
  deriving DecidableEq, Repr

/-- Pump-house SRAM stands from 0 up. The security core finds its own memory above it, and a service core device memory at addresses with bit 63
set. DESIGN CHOICE (log 6): where these two stand. -/
def rvPlace (h : Hart) (c : PhCore) (a : DWord) (n : Nat) : Option RvPlace :=
  let v := Tbl.read 0 c.csr windowCsr
  if h.wide then
    if a.getLsbD 63 then some (.device (if v.getLsbD 0 then some (v.toNat / 2 ^ 16 % 1024) else none) (a.toNat % 2 ^ 63))
    else if a.toNat + n ≤ 0x400000 then some (.sram a.toNat)
    else none
  else
    let a := a.toNat % 2 ^ 32
    if a + n ≤ 0x400000 then some (.sram a) else if 0x400000 ≤ a && a + n ≤ 2 ^ 32 then some (.own a) else none

/-- A physical address that HBM has (R321). -/
def hbmHas (s : State) (pa n : Nat) : Bool :=
  decide (pa + n ≤ 2 ^ 39) && decide (pa % 2 ^ 33 + n ≤ 0x180000000) && s.board.cfg.chmask.getLsbD (8 * (pa / 2 ^ 36 % 8) + pa / 2 ^ 33 % 8)

/-- Bytes read; none on an access fault. -/
def rvRead (s : State) (p : RvPlace) (n : Nat) : Option (List Byte) :=
  match p with
  | .sram a => some (Memory.bytes s.sram a n)
  | .own a => some (Memory.bytes s.secMem a n)
  | .device (some ctx) a => tableRead s ctx (BitVec.ofNat 64 a) n
  | .device none a => if hbmHas s a n then some (Memory.bytes s.hbm a n) else none

/-- Bytes written; none on an access fault. -/
def rvWrite (s : State) (p : RvPlace) (bs : List Byte) : Option State :=
  match p with
  | .sram a => some (storeSram s a bs)
  | .own a => some { s with secMem := Memory.stores s.secMem a bs }
  | .device (some ctx) a =>
    if a / 2 ^ 57 != 0 then none
    else match writeVirt s { ctx := ctx, wg := none } (BitVec.ofNat 64 a) bs with
      | .ok t => some t
      | .error _ => none
  | .device none a => if hbmHas s a bs.length then some (storeHbm s a bs) else none

/-! ## Execution -/

/-- What an instruction does: an exception, or registers and the PC on its core, and the state otherwise. -/
inductive RvRes where
  | trap (cause : Nat) (tval : DWord)
  | done (c : PhCore) (s : State)
  deriving DecidableEq, Repr

/-- An access of n bytes: aligned, and to a place that there is, or its exception, of a load 4 and 5, of a store 6 and 7. -/
def rvAccess (h : Hart) (c : PhCore) (store : Bool) (a : DWord) (n : Nat) (go : RvPlace → Option RvRes) : RvRes :=
  if a.toNat % n != 0 then .trap (if store then 6 else 4) a
  else match (rvPlace h c a n).bind go with
    | some r => r
    | none => .trap (if store then 7 else 5) a

/-- An atomic access, which only pump-house SRAM supports (log 6). -/
def rvAtomicOn (p : RvPlace) (go : Nat → RvRes) : Option RvRes :=
  match p with
  | .sram a => some (go a)
  | _ => none

/-- A loaded number in a register. -/
def rvLoaded (sign : Bool) (bs : List Byte) : DWord := BitVec.ofInt 64 (toI sign (8 * bs.length) (leNat bs))

/-- Control and status registers: machine mode only, and the upper ones read only. -/
def rvCsr (s : State) (h : Hart) (c : PhCore) (w next : DWord) (f : RvCsr) (rd : BitVec 5) (src : RvSrc) (num : Nat) : RvRes :=
  let k := match h with
    | .service k => k
    | .security => 4
  let v := match src with
    | .reg r => c.reg r
    | .imm v => v
  let writes := f == .write || (match src with | .reg r => r != 0 | .imm v => v != 0)
  match (if c.machine && !(writes && 0xC00 ≤ num) then csrRead s k c num else none) with
  | none => .trap 2 w
  | some old =>
    let new := match f with
      | .write => v
      | .set => old ||| v
      | .clear => old &&& ~~~v
    let c := (c.setReg rd old).retired next
    .done (if writes then csrWrite s c num new else c) s

/-- The state after `mret`. -/
def Machine.PhCore.back (c : PhCore) : PhCore :=
  let m := c.mstatus.getLsbD 11
  { c.retired c.mepc with
    machine := m,
    mstatus := (c.mstatus &&& (if m then 0x20000 else 0)) ||| (if c.mstatus.getLsbD 7 then 0x8 else 0) ||| 0x80 }

/-- An instruction `i` of the word `w` on a core, `next` being the address behind it. -/
def rvExec (s : State) (h : Hart) (c : PhCore) (w next : DWord) (i : RvOp) : RvRes :=
  let xl := h.xlen
  let fit (v : DWord) : DWord := rvFit xl v.toNat
  let put (rd : BitVec 5) (v : DWord) : RvRes := .done ((c.setReg rd v).retired next) s
  match i with
  | .upper pcrel rd v => put rd (fit (if pcrel then c.pc + v else v))
  | .jump rd off => .done ((c.setReg rd next).retired (fit (c.pc + off))) s
  | .jumpReg rd rs1 off => .done ((c.setReg rd next).retired (fit ((c.reg rs1 + off) &&& ~~~(1 : DWord)))) s
  | .branch k rs1 rs2 off => .done (c.retired (if k.holds (c.reg rs1) (c.reg rs2) then fit (c.pc + off) else next)) s
  | .load n sign rd rs1 off =>
    rvAccess h c false (fit (c.reg rs1 + off)) n fun p => (rvRead s p n).map fun bs => put rd (rvLoaded sign bs)
  | .store n rs1 rs2 off =>
    rvAccess h c true (fit (c.reg rs1 + off)) n fun p =>
      (rvWrite s p (leBytes n (c.reg rs2).toNat)).map fun t => .done (((hartOf t h).getD c).retired next) t
  | .alu f word rd rs1 b =>
    let y := match b with
      | .reg r => c.reg r
      | .imm v => v
    put rd (f.apply (if word then 32 else xl) (c.reg rs1) y)
  | .fence => .done (c.retired next) s
  | .ecall => .trap (if c.machine then 11 else 8) 0
  | .ebreak => .trap 3 0
  | .mret => if c.machine then .done c.back s else .trap 2 w
  | .csr f rd src num => rvCsr s h c w next f rd src num
  | .lr n rd rs1 =>
    rvAccess h c false (c.reg rs1) n fun p => rvAtomicOn p fun a =>
      .done { (c.setReg rd (rvLoaded true (Memory.bytes s.sram a n))).retired next with resv := some (a, n) } s
  | .sc n rd rs1 rs2 =>
    rvAccess h c true (c.reg rs1) n fun p => rvAtomicOn p fun a =>
      if c.resv = some (a, n) then
        .done { (c.setReg rd 0).retired next with resv := none } (storeSram s a (leBytes n (c.reg rs2).toNat))
      else .done { (c.setReg rd 1).retired next with resv := none } s
  | .amo f n rd rs1 rs2 =>
    rvAccess h c true (c.reg rs1) n fun p => rvAtomicOn p fun a =>
      let old := Memory.le s.sram a n
      let t := storeSram s a (leBytes n (f.apply (8 * n) old ((c.reg rs2).toNat % 2 ^ (8 * n))))
      .done ((((hartOf t h).getD c).setReg rd (rvLoaded true (Memory.bytes s.sram a n))).retired next) t

/-- A word of a core's program from an address, and none where there is no memory: device memory holds no program of a core (log 6). -/
def rvFetch (s : State) (h : Hart) (c : PhCore) : Option Nat :=
  let half (a : DWord) : Option Nat := (rvPlace h c a 2).bind fun p =>
    match p with
    | .device _ _ => none
    | p => (rvRead s p 2).map leNat
  (half c.pc).bind fun lo => if rvLength lo = 2 then some lo else (half (c.pc + 2)).map fun hi => lo + 65536 * hi

/-- The next instruction of a core that is not one of Table 17.1. -/
def stepBase (s : State) (h : Hart) (c : PhCore) (w : Nat) : State :=
  let word := BitVec.ofNat 64 (if rvLength w = 2 then w % 65536 else w)
  match (rvDecode h.wide w).map (rvExec s h c word (rvFit h.xlen (c.pc.toNat + rvLength w))) with
  | some (.done c t) => setHart t h c
  | some (.trap cause tval) => setHart s h (c.trap cause tval)
  | none => setHart s h (c.trap 2 word)

end Sys2Proof
end

