-- ==== Sys2Proof/Machine/Step.lean ====
section
/-! DEFINITION. One step of the machine: the agent whose turn it is moves (log 1). Fetch, focus and time stand in Machine/Turns.lean,
the placing of a word in Machine/Place.lean. -/

namespace Sys2Proof.Machine

/-- A running fragment executes its next instruction. -/
def stepFrag (s : State) (wid fid : Nat) : Host.Outcome State Fault Refusal :=
  match findFrag s wid fid with
  | none => .next s
  | some (w, f) =>
    if !mayIssue s w f then .next s
    else if landMissing s w f then .next (landTrap s wid fid w f)
    else exec (nextOfFrag s w f) (focusFrag (landSeen s wid w f) wid fid)

/-- A walk takes its next step (R240). -/
def stepWalk (s : State) (id : Nat) : Host.Outcome State Fault Refusal :=
  match Tbl.find s.walks id with
  | none => .next s
  | some k =>
    if !walkMay s k then .next s
    else if k.rebuild then .next (rebuildStep s id k)
    else
      match walkInstr s k with
      | some i => exec i { s with focus := some (.walk id) }
      | none => .next s

/-- A service core executes its next instruction: one of Table 17.1, or one of its base set (R338, R339). -/
def stepPh (s : State) (core : Nat) : Host.Outcome State Fault Refusal :=
  match Tbl.find s.ph core with
  | none => .next s
  | some c =>
    match rvFetch s (.service core) c with
    | none => .next (phTrap s core 1 c.pc)
    | some w =>
      if isCustom (BitVec.ofNat 32 w) then
        match decodePh (BitVec.ofNat 32 w) with
        | some i => exec i { s with focus := some (.ph core) }
        | none => .next (phTrap s core 2 (BitVec.ofNat 64 w))
      else .next (stepBase s (.service core) c w)

/-- The security core executes its next instruction (R338). -/
def stepSec (s : State) : State :=
  match rvFetch s .security s.sec with
  | none => setHart s .security (s.sec.trap 1 s.sec.pc)
  | some w => stepBase s .security s.sec w

/-- The machine's step. -/
def step (s : State) : Host.Outcome State Fault Refusal :=
  let r := nextTurn s
  match r.1 with
  | .clock n => .next (tick r.2 n)
  | .issue wid fid => stepFrag r.2 wid fid
  | .walk id => stepWalk r.2 id
  | .ph core => stepPh r.2 core
  | .sec => .next (stepSec r.2)
  | .boot pass => .next (bootStep r.2 pass)
  | .hostRead bar off n => .next (hostRead r.2 bar off n)
  | .vecWrite off v => .next (vecWrite r.2 off v)
  | .event i args => if i.isEvent then exec i { r.2 with ev := args } else .next r.2
  | .hostWrite a bs => .next (hostWrite r.2 a bs)
  | .drain => .next (drainAll r.2)

/-- A state that runs a given instruction word next (log 10). -/
def State.withFetchWord (s : State) (nbits w : Nat) : State := placeWord s nbits w

end Sys2Proof.Machine
end

