-- ==== Sys2Proof/Safety.lean ====
section
/-! DEFINITION. The words that claims are stated in: when an instruction executes, what it leaves when it goes on, and what a safe state
and a safe run are. -/

namespace Sys2Proof

open Machine

/-! ## Instructions of a fragment -/

/-- The checks that every Decmen instruction shares let it through: it is no later step of a deprecated form (R158), its level and core may run
it (R98), its latches are there and NW keeps its rule (R26, R28), its registers are below T (R36), no register that it names has a write
pending (R30), no walk of the fragment stands before its accesses (R223), and no error waits for it (R211). -/
def Issue.clear (x : Issue) (s : State) : Prop :=
  x.f.hidden = [] ∧ (isHandlerOpc x.i.opc = true → x.w.level = .h) ∧ (isMainOnly x.i.opc = true → x.w.ctl = false) ∧ x.badLatch = false ∧
  x.badNw = false ∧ x.regHigh = false ∧ x.pending = false ∧ x.behindWalks s = false ∧ x.rowError x.act (x.i.vSrc ++ x.vDst) = none

/-- Fragment `fid` of warp `wid`, which stand as `f` and `w`, is about to execute `i` and nothing that R13 to R36 check stands in its way. -/
def Executes (s : State) (i : Instr) (wid fid : Nat) (w : Warp) (f : Frag) : Prop :=
  s.focus = some (.frag wid fid) ∧ findFrag s wid fid = some (w, f) ∧ (mkIssue i wid fid w f).clear s

/-- Some lane is active, so the instruction has its effect (R14). -/
abbrev Active (i : Instr) (w : Warp) (f : Frag) : Prop := w.act f i.guard ≠ 0

/-- A state in which warp `wid` and its fragment `fid` are as given and all else is as in `s`. -/
def withFrag (s : State) (wid fid : Nat) (w : Warp) (f : Frag) : State :=
  { s with warps := Tbl.put s.warps wid { w with frags := Tbl.put w.frags fid f } }

/-- The address after an instruction (R23). -/
def afterPc (i : Instr) (f : Frag) : DWord := f.pc + BitVec.ofNat 64 (4 * i.size)

/-- The fragment has completed `i` and goes on behind it: warp and fragment as given otherwise, all else as in `s`. -/
def goesOn (s : State) (i : Instr) (wid fid : Nat) (w : Warp) (f : Frag) : State := withFrag s wid fid w (f.retire i (afterPc i f) false)

/-! ## How an instruction of a fragment ends

Where lanes have ended, the warp settles: freed fragments, joins, barriers and the pools (R12, R20, R122). Where the alive mask is as it
was, nothing does. -/

/-- `i` completes, the fragment goes on behind it, and warp `w'` is all else that changes. -/
def Completes (s : State) (i : Instr) (wid fid : Nat) (w : Warp) (f : Frag) (w' : Warp) : Prop :=
  Machine.exec i s = .next (settleIfRetired w.alive (goesOn s i wid fid w' f) wid)

/-- `i` completes at an address of its own and ends the reach (R23, R24). -/
def Transfers (s : State) (i : Instr) (wid fid : Nat) (w : Warp) (f : Frag) (w' : Warp) (pc : DWord) : Prop :=
  Machine.exec i s = .next (settleIfRetired w.alive (withFrag s wid fid w' (f.retire i pc true)) wid)

/-- `i` takes an exception in place of its effect: cause and subcode, every active lane left over, the per-lane area and the fault
address (R304). -/
def Faults (s : State) (i : Instr) (wid fid : Nat) (w : Warp) (f : Frag) (cause : Cause) (sub : Nat) (info : Tbl Word) (faddr : DWord) :
    Prop :=
  Machine.exec i s = .next (settleIfRetired w.alive (takeTrap s wid fid i cause sub (w.act f i.guard) info faddr false) wid)

/-- Lane values for the active lanes of an instruction. -/
def perLane (i : Instr) (w : Warp) (f : Frag) (r : Nat → DWord) : List (Nat × DWord) := (lanesOf (w.act f i.guard)).map fun l => (l, r l)

/-- A producing instruction completes with `r` in the active lanes of register D, unless NW, and in a new latch, whose other lanes hold D
as it stands (R26, R137). `w0` is the warp but for D. -/
def Produces (s : State) (i : Instr) (wid fid : Nat) (w : Warp) (f : Frag) (t : VFmt) (wide : Bool) (w0 : Warp) (r : Nat → DWord) : Prop :=
  Machine.exec i s = .next (goesOn { s with freeCtr := s.freeCtr + latchDraws wide } i wid fid
    (if t.nw then w0 else w0.setVlanes wide t.d.toNat (perLane i w f r))
    { f with latches := (latchOf w wide s.freeCtr t.d.toNat (perLane i w f r) :: f.latches).take 4 })

/-- An element rule on same-numbered elements of the three sources (R137). -/
def byElement (w : Warp) (fid : Nat) (f : Frag) (t : VFmt) (op : Nat → Nat → Nat → Nat) (l : Nat) : DWord :=
  t.ty.pack ((List.range t.ty.count).map fun k =>
    op (elemAt t.ty.width (selVal w fid f t.ty 0 t.a l) k) (elemAt t.ty.width (selVal w fid f t.ty 1 t.b l) k)
      (elemAt t.ty.width (selVal w fid f t.ty 2 t.c l) k))

/-- Rounding, saturation and flushing of a vector instruction at a lane's PC (R68, R69). -/
def vectorEnv (w : Warp) (f : Frag) (t : VFmt) : FEnv := { FEnv.ofMode w.pcr.mode f.pc with rm := rcMode t.rc w.pcr.mode, sat := t.sat }

/-- A code address that R99 lets a transfer go to. -/
abbrev CodeTarget (t : DWord) : Prop := t.toNat < 2 ^ 57 ∧ t.toNat % 4 = 0

/-- `i` goes to `t`, or takes the exception of R99 there: PATH outside path 0x0, ALIGN at an address that is no multiple of 4. Table 15.3a
puts the address into words 0 and 1 of the per-lane area. -/
def GoesTo (s : State) (i : Instr) (wid fid : Nat) (w : Warp) (f : Frag) (w' : Warp) (t : DWord) : Prop :=
  (CodeTarget t → Transfers s i wid fid w f w' t) ∧
  (¬ CodeTarget t → ∃ info, Tbl.read 0 info 0 = t.setWidth 32 ∧ Tbl.read 0 info 1 = t.extractLsb' 32 32 ∧
    Faults s i wid fid w f (if 2 ^ 57 ≤ t.toNat then .path else .align) 0 info t)

/-- The condition of a CX instruction in lane `l` (R126, R127). -/
def condIn (w : Warp) (c : CXFmt) (l : Nat) : Bool :=
  (match c.cond with
   | .mask m => (w.triple m.toNat).getLsbD l
   | .vec v => (w.vreg v.toNat l).getLsbD 0
   | .scal n => w.sreg n.toNat != 0) != c.neg

/-- Depth counters of a list of lanes set by a rule on the old ones. -/
def newDepths (w : Warp) (m : LaneMask) (g : Nat → Nat → Nat) : List (Nat × Nat) := (lanesOf m).map fun l => (l, g l (w.depthOf l))

/-- Whenever `i` executes with an active lane, what is said of it holds. -/
def Whenever (i : Instr) (p : State → Nat → Nat → Warp → Frag → Prop) : Prop :=
  ∀ (s : State) (wid fid : Nat) (w : Warp) (f : Frag), Executes s i wid fid w f → Active i w f → p s wid fid w f

/-! ## Accesses to memory -/

/-- An access of `n` bytes at `a` meets nothing in its way (R160 steps 2 to 5, R53, R173, R174) and lands at a place of this device. -/
abbrev Lands (s : State) (w : Warp) (k : Kind) (n : Nat) (a : DWord) (l : Loc) : Prop :=
  pathCheck a k = none ∧ a.toNat % n = 0 ∧ absentLines s w.wg [(a, n)] = [] ∧ inRefresh s a = false ∧ lockMiss s w.wg a = false ∧
  resolve s { ctx := w.ctx, wg := some w.wg } a n k = .ok l ∧ l.remote = false

/-- As `Lands`, for the bytes of a tile's row, which no alignment of their own binds (R191). -/
abbrev Reaches (s : State) (w : Warp) (k : Kind) (n : Nat) (a : DWord) (l : Loc) : Prop :=
  pathCheck a k = none ∧ absentLines s w.wg [(a, n)] = [] ∧ inRefresh s a = false ∧ lockMiss s w.wg a = false ∧
  resolve s { ctx := w.ctx, wg := some w.wg } a n k = .ok l ∧ l.remote = false

/-- The accesses of a vector form, one or more for each active lane (R164, R165, R167). -/
def Issue.accesses (x : Issue) : Option (List LAcc) :=
  match x.i with
  | .vld fn t => some (x.oneEach t fn.bytes)
  | .vst fn t => some (x.oneEach t fn.bytes)
  | .vgld fn t => some (x.listEach t fn.bytes)
  | .vgst fn t => some (x.listEach t fn.bytes)
  | .vatom _ t => some (x.oneEach t (atomBytes t.ty))
  | _ => none

/-- The one access of a scalar form: its address and size (R170, R172). -/
def Issue.scalarAccess (x : Issue) : Option (DWord × Nat) :=
  match x.i with
  | .sld t => some (x.sea t, (sldFn t.z.toNat).bytes)
  | .sst t => some (x.sea t, sstBytes t.z.toNat)
  | .satom _ t => some (x.sea t, if t.ty.wide then 8 else 4)
  | .swait _ t => some (x.w.spair t.aReg, t.ty.bytes)
  | _ => none

/-- Accesses of a list that a lane makes, in order. -/
def ofLane (as : List LAcc) (l : Nat) : List LAcc := as.filter fun a => a.lane == l

/-- The cause and address of a lane's first access that fails step 5 of R160, if one does. -/
def Issue.laneFault (x : Issue) (s : State) (as : List LAcc) (l : Nat) : Option (Cause × DWord) :=
  (ofLane as l).findSome? fun a => match resolve s x.who a.addr a.n x.i.memKind with
    | .error c => some (c, a.addr)
    | .ok _ => none

/-- No write of the warp is in flight, and no matrix operation of it is queued or chained to a copy, so nothing stalls (R187). -/
abbrev BoardFree (s : State) (wid : Nat) (w : Warp) : Prop := w.access = [] ∧ mopsOf s wid = []

/-- The token of an asynchronous instruction is free (R29). -/
def TokenFree (i : Instr) (w : Warp) : Prop := ∀ k, i.token = some k → w.tokBusy k = false

/-- The byte in which VALID of a signature entry stands that a store to its cell clears (R276). -/
def isSigByte (s : State) (p : Loc) : Prop := ∃ q ∈ s.sigs, p = .hbm (q.2.1 + 4)

/-- A warp with one more access in flight, on its token if it has one. -/
def inFlight (w : Warp) (id : Nat) (a : Access) : Warp :=
  let w : Warp := match a.tok with
    | some k => w.tokAdd k
    | none => w
  { w with access := Tbl.put w.access id a }

/-- Words that land in consecutive vector registers of a lane. -/
def landsInLane (vd : Tbl Word) (r l : Nat) (ws : List Word) : Prop := ∀ j, j < ws.length → Tbl.find vd (vkey (r + j) l) = ws[j]?

/-- What memory holds after the stores `as` at `loc`: their data where no other of them stores, and elsewhere what it held; the signature
entries of cells that a store meets excepted (R276). -/
def StoredAt (s t : State) (as : List LAcc) (loc : LAcc → Loc) (data : LAcc → List Byte) : Prop :=
  (∀ p : Loc, p.remote = false → ¬ isSigByte s p → (∀ a ∈ as, ∀ k, k < a.n → p ≠ (loc a).plus k) → readLoc t p 1 = readLoc s p 1) ∧
  (∀ a ∈ as, ∀ k, k < a.n → ¬ isSigByte s ((loc a).plus k) →
    (∀ b ∈ as, b ≠ a → ∀ j, j < b.n → (loc b).plus j ≠ (loc a).plus k) → readLoc t ((loc a).plus k) 1 = [(data a).getD k 0])

/-- A word of a workgroup's scratchpad. -/
def wordAt (s : State) (wg o : Nat) : Nat := leNat (readLoc s (.scratch wg o) 4)

/-- What a fragment holds when an instruction has made it wait or stall: the instruction's address, the kind of wait and its argument. -/
def Machine.Frag.waitsIn (g : Frag) (f : Frag) (st : FragSt) (k : WKind) (arg : Nat) : Prop :=
  g.st = st ∧ g.wkind = k ∧ g.warg = BitVec.ofNat 28 arg ∧ g.pc = f.pc ∧ g.lanes = f.lanes ∧ g.s = f.s ∧ g.j = f.j

/-! ## Walks -/

/-- Walk `id`, which stands as `k`, takes its next step. -/
abbrev Walks (s : State) (id : Nat) (k : Walk) : Prop := s.focus = some (.walk id) ∧ Tbl.find s.walks id = some k

/-- The step completes with spill writes that leave `u`: it is charged (R256), and the walk goes on as `k'`, or ends CANCELLED where its UPC
has reached LEN (R241). -/
def WalkGoes (s : State) (i : Instr) (id : Nat) (k k' : Walk) (u : State) : Prop :=
  Machine.exec i s = .next (
    let t := chargeBudget u k.ctx k.cls 4 1
    if (progOf u k').code.length ≤ k'.upc then endWalk t id k' (.cancelled 0xFFFFFFF4) else { t with walks := Tbl.put u.walks id k' })

/-- The step ends the walk. -/
def WalkEnds (s : State) (i : Instr) (id : Nat) (k k' : Walk) (e : WalkEnd) : Prop :=
  Machine.exec i s = .next (endWalk (chargeBudget s k.ctx k.cls 4 1) id k' e)

/-- The step takes no effect: the walk faults as it stood (R247). -/
def WalkFaults (s : State) (i : Instr) (id : Nat) (k : Walk) (e : WFault) : Prop := Machine.exec i s = .next (walkFault s id k e)

/-! ## Safe states and runs -/

/-- Every memory of the device and of the host is in canonical form, every workgroup's scratchpad too. -/
def Machine.State.MemOk (s : State) : Prop :=
  Memory.wf s.hbm = true ∧ Memory.wf s.wstore = true ∧ Memory.wf s.host = true ∧ Memory.wf s.sram = true ∧
  Memory.wf s.secMem = true ∧
  ∀ p ∈ s.wgs, Memory.wf p.2.scratch = true

/-- A run of steps. -/
inductive Machine.Run : State → State → Prop where
  | refl (s : State) : Run s s
  | step {s t u : State} (h : Machine.step s = .next t) (r : Run t u) : Run s u

/-- A state from which no run stops in a fault. -/
def Machine.State.Safe (s : State) : Prop := ∀ t, Run s t → ∀ f, Machine.step t ≠ .fault f

end Sys2Proof
end

