-- ==== Sys2Proof/Certificates/Slice0/Obligations.lean ====
section
/-! DEFINITION. The statements for the provers. Each says what the spec's rules give an instruction, an event or the whole machine. -/

open Sys2Proof Sys2Proof.Machine

/-! ## Scalar instructions -/

/-- R109 to R111, Table 05.1: the integer operations on s(A) and op2 write D modulo 2^w. Where D is one of s0 to s2, the write obeys R11
(see `MasksLiteralsAndProfiles`), and the warp settles.

R111, Table 05.1 FN 3, 11 and 12: the high half of the exact product, and the smaller and the larger operand, signed for s types and
unsigned for n types.

R111, R112, Table 05.1 FN 13 to 18 and 20: counts, the reversal, the bit fields and the select.

R113: `scmp` writes 1 where the relation holds and 0 otherwise: signed for s types, unsigned for n types, and for f32 after the flush
of MODE.FTZ32 with −0 equal to +0, where a NaN makes ne hold and every other condition fail. -/
def Obligations.ScalarIntegerAndBitResults : Prop :=
  ((∀ r ∈ ([(.sadd, fun _ a b => a + b), (.ssub, fun _ a b => a - b), (.smul, fun _ a b => a * b),
          (.sand, fun _ a b => a &&& b), (.sor, fun _ a b => a ||| b), (.sxor, fun _ a b => a ^^^ b), (.sandn, fun _ a b => a &&& ~~~b),
          (.sshl, fun n a b => a <<< (b.toNat % n)), (.sshr, fun n a b => a >>> (b.toNat % n)),
          (.ssar, fun n a b => a.sshiftRight (b.toNat % n)),
          (.smov, fun _ _ b => b)] : List ((SFmt → Instr) × ((n : Nat) → BitVec n → BitVec n → BitVec n))),
  ∀ t : SFmt, Whenever (r.1 t) fun s wid fid w f =>
    Completes s (r.1 t) wid fid w f (w.setSval f.lanes t.ty.wide t.d.toNat
      (if t.ty.wide then r.2 64 (w.spair t.aReg) (t.op2 w) else (r.2 32 (w.sreg t.aReg) ((t.op2 w).setWidth 32)).setWidth 64))) ∧
  ((∀ t : SFmt, Whenever (.smulh t) fun s wid fid w f =>
    Completes s (.smulh t) wid fid w f (w.setSval f.lanes t.ty.wide t.d.toNat
      (if t.ty.wide then
        (if t.ty.isSigned then BitVec.ofInt 64 ((w.spair t.aReg).toInt * (t.op2 w).toInt / 2 ^ 64)
         else BitVec.ofNat 64 ((w.spair t.aReg).toNat * (t.op2 w).toNat / 2 ^ 64))
       else
        (if t.ty.isSigned then (BitVec.ofInt 32 ((w.sreg t.aReg).toInt * ((t.op2 w).setWidth 32 : Word).toInt / 2 ^ 32)).setWidth 64
         else (BitVec.ofNat 32 ((w.sreg t.aReg).toNat * ((t.op2 w).setWidth 32 : Word).toNat / 2 ^ 32)).setWidth 64)))) ∧
  ∀ r ∈ ([(.smin, fun lt a b => if lt b a then b else a), (.smax, fun lt a b => if lt a b then b else a)] :
      List ((SFmt → Instr) × ((Int → Int → Bool) → Int → Int → Int))),
  ∀ t : SFmt, Whenever (r.1 t) fun s wid fid w f =>
    Completes s (r.1 t) wid fid w f (w.setSval f.lanes t.ty.wide t.d.toNat
      (let less : Int → Int → Bool := fun x y => decide (x < y)
       if t.ty.wide then
        (if t.ty.isSigned then BitVec.ofInt 64 (r.2 less (w.spair t.aReg).toInt (t.op2 w).toInt)
         else BitVec.ofInt 64 (r.2 less (w.spair t.aReg).toNat (t.op2 w).toNat))
       else
        (if t.ty.isSigned then (BitVec.ofInt 32 (r.2 less (w.sreg t.aReg).toInt ((t.op2 w).setWidth 32 : Word).toInt)).setWidth 64
         else (BitVec.ofInt 32 (r.2 less (w.sreg t.aReg).toNat ((t.op2 w).setWidth 32 : Word).toNat)).setWidth 64))))) ∧
  (((∀ t : SFmt, Whenever (.spopc t) fun s wid fid w f =>
    Completes s (.spopc t) wid fid w f (w.setSval f.lanes t.ty.wide t.d.toNat
      (BitVec.ofNat 64 ((List.range t.ty.bits).filter fun i => (w.sval t.ty.wide t.aReg).getLsbD i).length))) ∧
  (∀ t : SFmt, Whenever (.sclz t) fun s wid fid w f =>
    ∃ r, r ≤ t.ty.bits ∧ (∀ i, t.ty.bits - r ≤ i → (w.sval t.ty.wide t.aReg).getLsbD i = false) ∧
      (r < t.ty.bits → (w.sval t.ty.wide t.aReg).getLsbD (t.ty.bits - 1 - r) = true) ∧
      Completes s (.sclz t) wid fid w f (w.setSval f.lanes t.ty.wide t.d.toNat (BitVec.ofNat 64 r))) ∧
  (∀ t : SFmt, Whenever (.sctz t) fun s wid fid w f =>
    ∃ r, r ≤ t.ty.bits ∧ (∀ i, i < r → (w.sval t.ty.wide t.aReg).getLsbD i = false) ∧
      (r < t.ty.bits → (w.sval t.ty.wide t.aReg).getLsbD r = true) ∧
      Completes s (.sctz t) wid fid w f (w.setSval f.lanes t.ty.wide t.d.toNat (BitVec.ofNat 64 r))) ∧
  (∀ t : SFmt, Whenever (.sbrev t) fun s wid fid w f =>
    ∃ v : DWord, (∀ i, i < t.ty.bits → v.getLsbD i = (w.sval t.ty.wide t.aReg).getLsbD (t.ty.bits - 1 - i)) ∧
      Completes s (.sbrev t) wid fid w f (w.setSval f.lanes t.ty.wide t.d.toNat v)) ∧
  (∀ t : SFmt, t.fieldPos + t.fieldWidth ≤ t.ty.bits → Whenever (.sbfe t) fun s wid fid w f =>
    ∃ v : DWord, (∀ i, i < t.ty.bits → v.getLsbD i =
        if i < t.fieldWidth then (w.sval t.ty.wide t.aReg).getLsbD (t.fieldPos + i)
        else t.ty.isSigned && (w.sval t.ty.wide t.aReg).getLsbD (t.fieldPos + t.fieldWidth - 1)) ∧
      Completes s (.sbfe t) wid fid w f (w.setSval f.lanes t.ty.wide t.d.toNat v)) ∧
  (∀ t : SFmt, t.fieldPos + t.fieldWidth ≤ t.ty.bits → Whenever (.sbfi t) fun s wid fid w f =>
    ∃ v : DWord, (∀ i, i < t.ty.bits → v.getLsbD i =
        if t.fieldPos ≤ i && decide (i < t.fieldPos + t.fieldWidth) then (t.op2 w).getLsbD (i - t.fieldPos)
        else (w.sval t.ty.wide t.aReg).getLsbD i) ∧
      Completes s (.sbfi t) wid fid w f (w.setSval f.lanes t.ty.wide t.d.toNat v)) ∧
  (∀ t : SFmt, Whenever (.ssel t) fun s wid fid w f =>
    Completes s (.ssel t) wid fid w f (w.setSval f.lanes t.ty.wide t.d.toNat
      (w.sval t.ty.wide (if w.sreg (t.imm14.toNat % 512) = 0 then t.bReg else t.aReg))))) ∧
  (∀ (cc : Cc) (t : SFmt), Whenever (.scmp cc t) fun s wid fid w f =>
    let rel (lt eq : Bool) : Bool := match cc with
      | .eq => eq | .ne => !eq | .lt => lt | .le => lt || eq | .gt => !(lt || eq) | .ge => !lt
    let a := w.sval t.ty.wide t.aReg
    let b := t.op2 w
    let flush (x : Nat) : FVal := FF.f32.dec (if w.pcr.mode.getLsbD 2 && FF.f32.isSub x then FF.f32.signed (FF.f32.neg x) 0 else x)
    let holds : Bool :=
      if t.ty = .f32 then
        if FF.f32.isNan a.toNat || FF.f32.isNan b.toNat then cc == .ne
        else rel (FVal.ltNum (flush a.toNat) (flush b.toNat)) (FVal.eqNum (flush a.toNat) (flush b.toNat))
      else if t.ty.wide then
        (if t.ty.isSigned then rel (decide (a.toInt < b.toInt)) (a == b) else rel (decide (a.toNat < b.toNat)) (a == b))
      else
        let a : Word := a.setWidth 32
        let b : Word := b.setWidth 32
        (if t.ty.isSigned then rel (decide (a.toInt < b.toInt)) (a == b) else rel (decide (a.toNat < b.toNat)) (a == b))
    Completes s (.scmp cc t) wid fid w f (w.setSval f.lanes t.ty.wide t.d.toNat (if holds then 1 else 0))))


/-- R114, R115, Table 05.2: the float operations take s(A), s(B) and the old D, round by MODE.RM and flush by MODE.FTZ32, and name
lane 127 in a generated NaN; `scvt` converts from the type in Z to the type in TY.

R65 to R76 on f32 as all float instructions use them: where the operands are finite and the exact result is not zero, an addition, a
subtraction, a product and a fused multiply-add encode the exact rational rounded once; and a NaN operand comes back quieted, the first
in operand order. -/
def Obligations.ScalarFloatResults : Prop :=
  ((∀ r ∈ ([(.sfadd, fun e a b _ => FF.f32.add e 127 a b), (.sfsub, fun e a b _ => FF.f32.sub e 127 a b),
           (.sfmul, fun e a b _ => FF.f32.mul e 127 a b), (.sffma, fun e a b d => FF.f32.fma e 127 a b d),
           (.sfmin, fun e a b _ => FF.f32.minmax e false a b), (.sfmax, fun e a b _ => FF.f32.minmax e true a b)] :
        List ((SFmt → Instr) × (FEnv → Nat → Nat → Nat → Nat))),
   ∀ t : SFmt, t.ty = .f32 → Whenever (r.1 t) fun s wid fid w f =>
    Completes s (r.1 t) wid fid w f (w.setSreg f.lanes t.d.toNat
      (BitVec.ofNat 32 (r.2 (FEnv.ofMode w.pcr.mode f.pc) (w.sreg t.aReg).toNat (w.sreg t.bReg).toNat (w.sreg t.d.toNat).toNat)))) ∧
  (∀ (t : SFmt) (z : STy), t.zTy = some z → Whenever (.scvt t) fun s wid fid w f =>
    Completes s (.scvt t) wid fid w f (w.setSval f.lanes t.ty.wide t.d.toNat
      (BitVec.ofNat 64 (convElem z.vty t.ty.vty (FEnv.ofMode w.pcr.mode f.pc) (w.sval z.wide t.aReg).toNat))))) ∧
  (let mag (q : Rat) : Rat := if q < 0 then -q else q
  ∀ (e : FEnv) (l a b c : Nat) (x y z : Rat), e.ftz32 = false → a < 2 ^ 32 → b < 2 ^ 32 → c < 2 ^ 32 →
    (FF.f32.isNan a = false → FF.f32.isInf a = false → FF.f32.isNan b = false → FF.f32.isInf b = false →
     FF.f32.isNan c = false → FF.f32.isInf c = false →
     (FF.f32.dec a).rat = x → (FF.f32.dec b).rat = y → (FF.f32.dec c).rat = z →
      (x + y ≠ 0 → FF.f32.add e l a b = FF.f32.roundFin e.rm e.sat false (decide (x + y < 0)) (mag (x + y))) ∧
      (x - y ≠ 0 → FF.f32.sub e l a b = FF.f32.roundFin e.rm e.sat false (decide (x - y < 0)) (mag (x - y))) ∧
      (x * y ≠ 0 → FF.f32.mul e l a b = FF.f32.roundFin e.rm e.sat false (decide (x * y < 0)) (mag (x * y))) ∧
      (x * y ≠ 0 → x * y + z ≠ 0 → FF.f32.fma e l a b c = FF.f32.roundFin e.rm e.sat false (decide (x * y + z < 0)) (mag (x * y + z)))) ∧
    (FF.f32.isNan a = true → FF.f32.add e l a b = FF.f32.quiet a ∧ FF.f32.mul e l a b = FF.f32.quiet a) ∧
    (FF.f32.isNan a = false → FF.f32.isNan b = true → FF.f32.add e l a b = FF.f32.quiet b ∧ FF.f32.mul e l a b = FF.f32.quiet b))

/-! ## Masks, control registers, register blocks -/

/-- R117, Table 05.3: the triple operations, read whole and written whole.

R11, R12: a write by a fragment to one of s0 to s2 keeps every bit of other fragments' lanes, can clear a bit of its own lanes and
sets none; no other scalar register constrains its writes; and while the alive mask is as it was, nothing settles.

R116: `ldlit` reads 4 or 8 bytes of code at pc + 4 × IMM23 into D; an address off path 0x0 faults PATH, an 8-byte literal off its
alignment ALIGN, and a read that fails faults with its own cause and address.

R147: `pload` replaces the warp's profile table by the 1,312 bytes at the pair's address, where every word of them can be read. -/
def Obligations.MasksLiteralsAndProfiles : Prop :=
  (((∀ r ∈ ([(.mand, fun a b => a &&& b), (.mor, fun a b => a ||| b), (.mxor, fun a b => a ^^^ b), (.mandn, fun a b => a &&& ~~~b),
           (.mnot, fun a _ => ~~~a), (.mmov, fun a _ => a)] : List ((SFmt → Instr) × (LaneMask → LaneMask → LaneMask))),
   ∀ t : SFmt, Whenever (r.1 t) fun s wid fid w f =>
    Completes s (r.1 t) wid fid w f (w.setTriple f.lanes t.d.toNat (r.2 (w.triple t.aReg) (w.triple t.bReg)))) ∧
  (∀ t : SFmt, Whenever (.mact t) fun s wid fid w f =>
    Completes s (.mact t) wid fid w f (w.setTriple f.lanes t.d.toNat (w.act f none))) ∧
  (∀ t : SFmt, Whenever (.mpopc t) fun s wid fid w f =>
    Completes s (.mpopc t) wid fid w f (w.setSreg f.lanes t.d.toNat
      (BitVec.ofNat 32 ((List.range 96).filter fun l => (w.triple t.aReg).getLsbD l).length))) ∧
  (∀ t : SFmt, Whenever (.mffs t) fun s wid fid w f =>
    (w.triple t.aReg = 0 → Completes s (.mffs t) wid fid w f (w.setSreg f.lanes t.d.toNat 0xFFFFFFFF)) ∧
    (∀ l, (w.triple t.aReg).getLsbD l = true → (∀ k, k < l → (w.triple t.aReg).getLsbD k = false) →
      Completes s (.mffs t) wid fid w f (w.setSreg f.lanes t.d.toNat (BitVec.ofNat 32 l))))) ∧
  ((∀ (w : Warp) (lanes : LaneMask) (n k : Nat) (v : Word), k ≠ n → (w.setSreg lanes n v).sreg k = w.sreg k) ∧
  (∀ (w : Warp) (lanes : LaneMask) (n : Nat) (v : Word), 3 ≤ n → (w.setSreg lanes n v).sreg n = v) ∧
  (∀ (w : Warp) (lanes : LaneMask) (n i : Nat) (v : Word), n < 3 → i < 32 →
    ((w.setSreg lanes n v).sreg n).getLsbD i = ((w.sreg n).getLsbD i && (v.getLsbD i || !(lanes.getLsbD (32 * n + i))))) ∧
  (∀ (w : Warp) (l : Nat), l < 96 → w.alive.getLsbD l = (w.sreg (l / 32)).getLsbD (l % 32)) ∧
  (∀ (w : Warp) (lanes : LaneMask) (wide : Bool) (n : Nat) (v : DWord), 3 ≤ n → (w.setSval lanes wide n v).alive = w.alive) ∧
  (∀ (s : State) (i : Instr) (wid fid : Nat) (w w' : Warp) (f : Frag), w'.alive = w.alive → Completes s i wid fid w f w' →
    Machine.exec i s = .next (goesOn s i wid fid w' f)))) ∧
  ((∀ t : SFmt, Whenever (.ldlit t) fun s wid fid w f =>
    let a := f.pc + 4 * t.imm23.signExtend 64
    let n := if t.ty.wide then 8 else 4
    (2 ^ 57 ≤ a.toNat → ∃ info, Faults s (.ldlit t) wid fid w f .path 0 info a) ∧
    (a.toNat < 2 ^ 57 → a.toNat % n ≠ 0 → ∃ info, Faults s (.ldlit t) wid fid w f .align 0 info a) ∧
    (a.toNat < 2 ^ 57 → a.toNat % n = 0 →
      (∀ bs, readCode s w a n = .ok bs →
        Completes s (.ldlit t) wid fid w f (w.setSval f.lanes t.ty.wide t.d.toNat (BitVec.ofNat 64 (leNat bs)))) ∧
      (∀ c ea, readCode s w a n = .error (c, ea) → ∃ info, Faults s (.ldlit t) wid fid w f c 0 info ea))) ∧
  (∀ (t : VFmt) (n : BitVec 9), t.a = .sreg n → Whenever (.pload t) fun s wid fid w f => ∀ bs l,
    let a := w.sreg (n.toNat + 1) ++ w.sreg n.toNat
    (mkIssue (.pload t) wid fid w f).earlyWords s a 1312 = none →
    resolve s { ctx := w.ctx, wg := some w.wg } a 4 .ld = .ok l → l.remote = false →
    readVirt s { ctx := w.ctx, wg := some w.wg } a 1312 = .ok bs →
    ∃ p : Tbl Word, (∀ k, k < 328 → (Tbl.read 0 p k).toNat = leNat ((bs.drop (4 * k)).take 4)) ∧
      Completes s (.pload t) wid fid w f { w with prof := p }))

/-- R44 to R53, R118: what `pcrr` reads of each control register, and what `pcrw` leaves: MODE keeps five bits and ends the reach, NFLUSH
holds at least 64, SEED starts the stochastic states anew. A word that reads an index above 63, or writes a read-only register, index 15
or an index above 31, is no instruction and takes the ILL of `SoftwareTraps`.

R35, R119: `vacq` with n = 0 has no effect, faults REGX for more than the pool or v2047 can give, and takes n blocks at once where
nobody waits before it and they are free; `vrel` faults REGX for more than the warp holds, and otherwise lowers T and returns the
blocks. -/
def Obligations.ControlRegistersAndBlocks : Prop :=
  ((∀ t : SFmt, t.imm14.toNat < 64 → Whenever (.pcrr t) fun s wid fid w f =>
    let k := t.imm14.toNat
    (k ≠ 5 → k ≠ 7 → Completes s (.pcrr t) wid fid w f (w.setSreg f.lanes t.d.toNat
      (if k = 0 then w.pcr.mode else if k = 2 then w.pcr.rlab else if k = 3 then w.pcr.dtl else if k = 4 then BitVec.ofNat 32 fid
       else if k = 6 then w.pcr.clkHi else if k = 8 then w.pcr.timeHi else if k = 9 then w.pcr.wtim else if k = 10 then w.pcr.wtcmp
       else if k = 11 then w.pcr.nflush else if k = 12 then w.pcr.seed else if k = 13 then wsref s (halfOf w.ctl w.core)
       else if k = 14 then w.pcr.mbu else if 16 ≤ k ∧ k ≤ 31 then Tbl.read 0 w.pcr.tsh (k - 16) else 0))) ∧
    (k = 5 → Completes s (.pcrr t) wid fid w f
      (({ w with pcr := { w.pcr with clkHi := s.clock.clk.extractLsb' 32 32 } } : Warp).setSreg f.lanes t.d.toNat (s.clock.clk.setWidth 32))) ∧
    (k = 7 → Completes s (.pcrr t) wid fid w f
      (({ w with pcr := { w.pcr with timeHi := s.clock.time.extractLsb' 32 32 } } : Warp).setSreg f.lanes t.d.toNat
        (s.clock.time.setWidth 32)))) ∧
  (∀ t : SFmt, Whenever (.pcrw t) fun s wid fid w f =>
    let k := t.imm14.toNat
    let v := w.sreg t.aReg
    (k = 0 → Transfers s (.pcrw t) wid fid w f { w with pcr := { w.pcr with mode := v &&& 0x1F } } (afterPc (.pcrw t) f)) ∧
    (k = 2 → Completes s (.pcrw t) wid fid w f { w with pcr := { w.pcr with rlab := v } }) ∧
    (k = 9 → Completes s (.pcrw t) wid fid w f { w with pcr := { w.pcr with wtim := v } }) ∧
    (k = 10 → Completes s (.pcrw t) wid fid w f { w with pcr := { w.pcr with wtcmp := v } }) ∧
    (k = 11 → Completes s (.pcrw t) wid fid w f
      { w with pcr := { w.pcr with nflush := BitVec.ofNat 32 (max 64 (v.toNat % 2 ^ 16)) } }) ∧
    (k = 12 → Completes s (.pcrw t) wid fid w f { w with pcr := { w.pcr with seed := v }, srs := [] }) ∧
    (16 ≤ k → k ≤ 31 → Completes s (.pcrw t) wid fid w f { w with pcr := { w.pcr with tsh := Tbl.write 0 w.pcr.tsh (k - 16) v } })) ∧
  (∀ g0 g1 g2 : Word, (field g0 21 8).toNat = 0x15 →
    let fn := (field g0 16 5).toNat
    let k := (field g1 0 14).toNat
    ((fn = 0 ∧ 64 ≤ k) ∨ (fn = 1 ∧ (k = 1 ∨ (3 ≤ k ∧ k ≤ 8) ∨ (13 ≤ k ∧ k ≤ 15) ∨ 32 ≤ k)) →
      decodeGranules g0 g1 g2 = .error .early ∨ decodeGranules g0 g1 g2 = .error .late) ∧
    (∀ t, decodeGranules g0 g1 g2 = .ok (.pcrr t) ∨ decodeGranules g0 g1 g2 = .ok (.pcrw t) → t.imm14.toNat = k))) ∧
  ((∀ t : SFmt, Whenever (.vacq t) fun s wid fid w f =>
    ∀ g, Tbl.find s.wgs w.wg = some g →
      let n := t.count w
      let held := (w.top - w.base) / 64
      (n = 0 → Completes s (.vacq t) wid fid w f w) ∧
      (n ≠ 0 → (g.pool - held < n ∨ 2048 < w.top + 64 * n) → Faults s (.vacq t) wid fid w f .regx 0 [] 0) ∧
      (n ≠ 0 → n ≤ g.pool - held → w.top + 64 * n ≤ 2048 → n ≤ g.free → vacqWaiters s g = [] →
        Machine.exec (.vacq t) s = .next (withFrag { s with wgs := Tbl.put s.wgs w.wg { g with free := g.free - n } } wid fid
          { w with top := w.top + 64 * n } (f.retire (.vacq t) (afterPc (.vacq t) f) false)))) ∧
  (∀ t : SFmt, Whenever (.vrel t) fun s wid fid w f =>
    ∀ g, Tbl.find s.wgs w.wg = some g →
      let n := t.count w
      let held := (w.top - w.base) / 64
      (n = 0 → Completes s (.vrel t) wid fid w f w) ∧
      (held < n → Faults s (.vrel t) wid fid w f .regx 0 [] 0) ∧
      (n ≠ 0 → n ≤ held → w.access = [] → Machine.exec (.vrel t) s = .next
        (settleIfRetired w.alive (poolSettle (withFrag { s with wgs := Tbl.put s.wgs w.wg { g with free := g.free + n } } wid fid
          { w with top := w.top - 64 * n, vregs := Tbl.keep w.vregs fun k _ => decide (k < 96 * (w.top - 64 * n)) }
          (f.retire (.vrel t) (afterPc (.vrel t) f) false)) w.wg) wid))))

/-! ## Control -/

/-- R121, R169, R171: `nop`, `land`, `vpref` and `fence` change nothing but the fragment's place (log 7: with one
coherent memory, nothing is left for a fence or a prefetch to do).

R122, R123, R24: `exit` clears the alive bits of the active lanes, and the rest of the fragment goes on behind it; `yield` goes on and
leaves the slot to every fragment of the quarter that is ready now. Both end the reach.

R29, R135, R179: `wait` goes on when every token it names is free and no error waits on one of them; while one is busy the fragment
stalls with the busy ones in TOKW. -/
def Obligations.HintsExitYieldAndWait : Prop :=
  (((∀ c : CFmt, Whenever (.nop c) fun s wid fid w f => Completes s (.nop c) wid fid w f w) ∧
  (∀ c : CFmt, Whenever (.land c) fun s wid fid w f => Completes s (.land c) wid fid w f w) ∧
  (∀ (k : PrefKind) (m : VMFmt), Whenever (.vpref k m) fun s wid fid w f => Completes s (.vpref k m) wid fid w f w) ∧
  (∀ (o : FenceOrd) (t : SFmt), Whenever (.fence o t) fun s wid fid w f => Completes s (.fence o t) wid fid w f w)) ∧
  ((∀ c : CFmt, Whenever (.exit c) fun s wid fid w f =>
    Completes s (.exit c) wid fid w f (w.kill (w.act f none))) ∧
  (∀ (w : Warp) (m : LaneMask) (l : Nat), l < 96 → (w.kill m).alive.getLsbD l = (w.alive.getLsbD l && !m.getLsbD l)) ∧
  (∀ c : CFmt, Whenever (.yield c) fun s wid fid w f =>
    Machine.exec (.yield c) s =
      .next (withFrag s wid fid w { f.retire (.yield c) (afterPc (.yield c) f) true with yield := otherReady s wid fid w })) ∧
  (∀ (c : CFmt) (f : Frag) (pc : DWord), (f.retire (.exit c) pc false).reach = 0 ∧ (f.retire (.exit c) pc false).st = .ready))) ∧
  (∀ c : CFmt, Whenever (.wait c) fun s wid fid w f =>
    ((∀ k, c.imm.getLsbD k = true → w.tokBusy k = false) → (∀ e ∈ w.errs, c.imm.getLsbD e.tok = false) →
      Completes s (.wait c) wid fid w f w) ∧
    ((∃ k, k < 16 ∧ c.imm.getLsbD k = true ∧ w.tokBusy k = true) → s.bins = [] → ∃ w' f',
      Machine.exec (.wait c) s = .next { s with freshId := s.freshId + 1, warps := Tbl.put s.warps wid w' } ∧
      w' = { w with frags := Tbl.put w.frags fid f' } ∧ f'.st = .stalled ∧ f'.wkind = .wait ∧ f'.pc = f.pc ∧
      ∀ k, k < 16 → f'.tokw.getLsbD k = (c.imm.getLsbD k && w.tokBusy k)))

/-- R120, R125, R99: `br` goes to pc + 4 × IMM16; `brc` goes there when (s(CR) ≠ 0) XOR NEG and falls through otherwise. -/
def Obligations.ScalarBranches : Prop :=
  (∀ c : CFmt, Whenever (.br c) fun s wid fid w f => GoesTo s (.br c) wid fid w f w (f.pc + 4 * c.imm.signExtend 64)) ∧
  (∀ (c : CXFmt) (n : BitVec 11), c.cond = .scal n → Whenever (.brc c) fun s wid fid w f =>
    (((w.sreg n.toNat != 0) != c.neg) = true → GoesTo s (.brc c) wid fid w f w (f.pc + 4 * c.imm.signExtend 64)) ∧
    (((w.sreg n.toNat != 0) != c.neg) = false → Completes s (.brc c) wid fid w f w))

/-- R126, R99: `brany` is taken when some active lane's condition holds, `brall` when every active lane's does; the whole fragment moves
or stays.

R130, R131: `jmp`, `ret` and `call` go to pc + 4 × IMM23 or to the address in the pair s(A); `call` writes the link pc + 8 into the
pair s(D), the target read first. -/
def Obligations.BranchesCallsAndJumps : Prop :=
  ((∀ c : CXFmt, Whenever (.brany c) fun s wid fid w f =>
    ((∃ l, (w.act f none).getLsbD l = true ∧ condIn w c l = true) → GoesTo s (.brany c) wid fid w f w (f.pc + 4 * c.imm.signExtend 64)) ∧
    ((∀ l, (w.act f none).getLsbD l = true → condIn w c l = false) → Completes s (.brany c) wid fid w f w)) ∧
  (∀ c : CXFmt, Whenever (.brall c) fun s wid fid w f =>
    ((∀ l, (w.act f none).getLsbD l = true → condIn w c l = true) → GoesTo s (.brall c) wid fid w f w (f.pc + 4 * c.imm.signExtend 64)) ∧
    ((∃ l, (w.act f none).getLsbD l = true ∧ condIn w c l = false) → Completes s (.brall c) wid fid w f w))) ∧
  (let far (t : SFmt) (w : Warp) (f : Frag) : DWord := match t.src with
    | .imm _ i => f.pc + 4 * i.signExtend 64
    | .regs a _ _ => w.sreg (a.toNat + 1) ++ w.sreg a.toNat
  (∀ t : SFmt, Whenever (.jmp t) fun s wid fid w f => GoesTo s (.jmp t) wid fid w f w (far t w f)) ∧
  (∀ t : SFmt, Whenever (.ret t) fun s wid fid w f => GoesTo s (.ret t) wid fid w f w (far t w f)) ∧
  (∀ t : SFmt, Whenever (.call t) fun s wid fid w f =>
    GoesTo s (.call t) wid fid w f (w.setSpair f.lanes t.d.toNat (f.pc + 8)) (far t w f)))

/-- R15, R16, R127: `if`, `else` and `loop` move the depth counters of every alive lane and the structure level by the rule, and go to the
partner when no lane is left at depth 0; a counter that would pass 255 traps NEST with nothing changed.

R15, R16, R20, R127: `endif` and `endloop` that are no join point lower the counters by the rule, `endloop` going back while some lane
is at depth 1 or below; with S(f) = 0 they trap NEST; `break` and `cont` set the depth of the active lanes. -/
def Obligations.StructuredControl : Prop :=
  ((∀ (c : CXFmt) (s : State) (wid fid : Nat) (w : Warp) (f : Frag), Executes s (.iff c) wid fid w f →
    let ds := newDepths w (w.alv f) fun l d => if d = 0 then (if condIn w c l then 0 else 1) else d + 1
    let f' : Frag := { f with s := f.s + 1 }
    (f.s = 255 ∨ (∃ p ∈ ds, 255 < p.2) → Faults s (.iff c) wid fid w f .nest 0 [] 0) ∧
    (f.s ≠ 255 → (∀ p ∈ ds, p.2 ≤ 255) → (∃ p ∈ ds, p.2 = 0) → Completes s (.iff c) wid fid w f' (w.setDepths ds)) ∧
    (f.s ≠ 255 → (∀ p ∈ ds, p.2 ≤ 255) → (∀ p ∈ ds, p.2 ≠ 0) → CodeTarget (f.pc + 4 * c.imm.signExtend 64) →
      Transfers s (.iff c) wid fid w f' (w.setDepths ds) (f.pc + 4 * c.imm.signExtend 64))) ∧
  (∀ (c : CFmt) (s : State) (wid fid : Nat) (w : Warp) (f : Frag), Executes s (.els c) wid fid w f →
    let ds := newDepths w (w.alv f) fun _ d => if d = 0 then 1 else if d = 1 then 0 else d
    ((∀ p ∈ ds, p.2 ≤ 255) → (∃ p ∈ ds, p.2 = 0) → Completes s (.els c) wid fid w f (w.setDepths ds)) ∧
    ((∀ p ∈ ds, p.2 ≤ 255) → (∀ p ∈ ds, p.2 ≠ 0) → CodeTarget (f.pc + 4 * c.imm.signExtend 64) →
      Transfers s (.els c) wid fid w f (w.setDepths ds) (f.pc + 4 * c.imm.signExtend 64))) ∧
  (∀ (c : CFmt) (s : State) (wid fid : Nat) (w : Warp) (f : Frag), Executes s (.loop c) wid fid w f →
    let ds := newDepths w (w.alv f) fun _ d => if d = 0 then 0 else d + 2
    let f' : Frag := { f with s := f.s + 1 }
    (f.s = 255 ∨ (∃ p ∈ ds, 255 < p.2) → Faults s (.loop c) wid fid w f .nest 0 [] 0) ∧
    (f.s ≠ 255 → (∀ p ∈ ds, p.2 ≤ 255) → (∃ p ∈ ds, p.2 = 0) → Completes s (.loop c) wid fid w f' (w.setDepths ds)) ∧
    (f.s ≠ 255 → (∀ p ∈ ds, p.2 ≤ 255) → (∀ p ∈ ds, p.2 ≠ 0) → CodeTarget (f.pc + 4 * c.imm.signExtend 64) →
      Transfers s (.loop c) wid fid w f' (w.setDepths ds) (f.pc + 4 * c.imm.signExtend 64)))) ∧
  ((∀ (c : CFmt) (s : State) (wid fid : Nat) (w : Warp) (f : Frag), Executes s (.endif c) wid fid w f →
    (w.frags.length = 1 ∨ f.skip = true ∨ f.s ≠ f.j) →
    (f.s = 0 → Faults s (.endif c) wid fid w f .nest 0 [] 0) ∧
    (f.s ≠ 0 → Completes s (.endif c) wid fid w { f with s := f.s - 1 } (w.setDepths (newDepths w (w.alv f) fun _ d => d - 1)))) ∧
  (∀ (c : CFmt) (s : State) (wid fid : Nat) (w : Warp) (f : Frag), Executes s (.endloop c) wid fid w f →
    (w.frags.length = 1 ∨ f.skip = true ∨ f.s ≠ f.j) →
    let again := ∃ l, (w.alv f).getLsbD l = true ∧ w.depthOf l ≤ 1
    (f.s = 0 → Faults s (.endloop c) wid fid w f .nest 0 [] 0) ∧
    (f.s ≠ 0 → again → CodeTarget (f.pc + 4 * c.imm.signExtend 64) →
      Transfers s (.endloop c) wid fid w f (w.setDepths (newDepths w (w.alv f) fun _ d => if d = 1 then 0 else d))
        (f.pc + 4 * c.imm.signExtend 64)) ∧
    (f.s ≠ 0 → ¬ again →
      Completes s (.endloop c) wid fid w { f with s := f.s - 1 } (w.setDepths (newDepths w (w.alv f) fun _ d => d - 2)))) ∧
  (∀ c : CFmt, Whenever (.brkLoop c) fun s wid fid w f =>
    Completes s (.brkLoop c) wid fid w f (w.setDepths (newDepths w (w.act f none) fun _ _ => c.imm.toNat + 1))) ∧
  (∀ c : CFmt, Whenever (.cont c) fun s wid fid w f =>
    Completes s (.cont c) wid fid w f (w.setDepths (newDepths w (w.act f none) fun _ _ => c.imm.toNat))))

/-- R129, R20: `rejoin` has no effect in a warp of one fragment, and for a fragment that a merge lets through; otherwise the fragment holds
there, its reach and its latches over, and what the hold lets go on goes on. `endif` and `endloop` hold likewise where S = J.

R20, R21: where every live fragment of a warp is held, those at the PC with the greatest S, the lowest such PC, merge, once their
quarter's slot is free: into the lowest id of them, with the union of their lanes, PIDX 0, and the largest J of the warp's other
fragments, limited to the S after the join, or 0; it runs, and the other ids are free. Until every one is held, all stay as they are. -/
def Obligations.JoinsAndMerges : Prop :=
  (∀ (c : CFmt) (s : State) (wid fid : Nat) (w : Warp) (f : Frag), Executes s (.rejoin c) wid fid w f →
    (w.frags.length = 1 ∨ f.skip = true → Completes s (.rejoin c) wid fid w f w) ∧
    (1 < w.frags.length → f.skip = false → Machine.exec (.rejoin c) s =
      .next (settleIfRetired w.alive (settle (withFrag s wid fid w { f with st := .held, reach := 0, latches := [] }) wid) wid))) ∧
  (∀ (c : CFmt), ∀ i ∈ [Instr.endif c, Instr.endloop c], ∀ (s : State) (wid fid : Nat) (w : Warp) (f : Frag), Executes s i wid fid w f →
    1 < w.frags.length → f.skip = false → f.s = f.j →
    Machine.exec i s =
      .next (settleIfRetired w.alive (settle (withFrag s wid fid w { f with st := .held, reach := 0, latches := [] }) wid) wid)) ∧
  (∀ (s : State) (wid : Nat) (w : Warp), Tbl.find s.warps wid = some w →
    ((∃ p ∈ w.frags, p.2.st ≠ .held) ∨ w.frags = [] ∨ slotHeld s w.ctl w.core w.quarter = true → joins s wid = s) ∧
    ((∀ p ∈ w.frags, p.2.st = .held) → w.frags ≠ [] → mayBegin s w = true → slotHeld s w.ctl w.core w.quarter = false →
      ∃ ids : List Nat, joins s wid = mergeFrags s wid ids ∧
        ∀ k, k ∈ ids ↔ ∃ p ∈ w.frags, p.1 = k ∧
          ∀ q ∈ w.frags, q.2.s.toNat ≤ p.2.s.toNat ∧ (q.2.s = p.2.s → p.2.pc.toNat ≤ q.2.pc.toNat))) ∧
  (∀ (s : State) (wid k : Nat) (ids : List Nat) (w : Warp) (f : Frag), findFrag s wid k = some (w, f) → w.frags.wf = true →
    (k :: ids).Pairwise (· < ·) → (∀ j ∈ k :: ids, ∃ g, Tbl.find w.frags j = some g ∧ g.pc = f.pc ∧ g.s = f.s ∧ g.tokHeld = none) →
    let t := mergeFrags s wid (k :: ids)
    ∃ (w' : Warp) (g : Frag), findFrag t wid k = some (w', g) ∧ t.focus = some (.frag wid k) ∧
      g.st = .running ∧ g.skip = true ∧ g.pc = f.pc ∧ g.s = f.s ∧ g.pidx = 0 ∧ g.reach = 0 ∧ g.latches = [] ∧
      (∀ l, g.lanes.getLsbD l = true ↔ ∃ j ∈ k :: ids, ∃ h, Tbl.find w.frags j = some h ∧ h.lanes.getLsbD l = true) ∧
      (∀ j ∈ ids, Tbl.find w'.frags j = none) ∧
      (∀ j, j ∉ k :: ids → (Tbl.find w'.frags j).map (fun h => (h.pc, h.lanes, h.s, h.j, h.st)) =
        (Tbl.find w.frags j).map fun h => (h.pc, h.lanes, h.s, h.j, h.st)) ∧
      ∃ after : Byte,
      ((∀ c, fetchAt s w f.pc = .endif c → after.toNat = f.s.toNat - 1) ∧
       (∀ c, fetchAt s w f.pc = .endloop c →
        ((∃ l, (g.lanes &&& w.alive).getLsbD l = true ∧ w.depthOf l ≤ 1) → after = f.s) ∧
        ((∀ l, (g.lanes &&& w.alive).getLsbD l = true → 1 < w.depthOf l) → after.toNat = f.s.toNat - 1)) ∧
       ((∀ c, fetchAt s w f.pc ≠ .endif c) → (∀ c, fetchAt s w f.pc ≠ .endloop c) → after = f.s)) ∧
      ((∀ j, j ∉ k :: ids → Tbl.find w.frags j = none) → g.j = 0) ∧
      (∀ j h, j ∉ k :: ids → Tbl.find w.frags j = some h → min h.j.toNat after.toNat ≤ g.j.toNat) ∧
      (g.j = 0 ∨ g.j.toNat ≤ after.toNat ∧ ∃ j h, j ∉ k :: ids ∧ Tbl.find w.frags j = some h ∧ g.j.toNat = min h.j.toNat after.toNat))

/-- R124, R98, R51, R371: `brk`, `trap` and a word that is no instruction take their exceptions, and a pending TIMER is taken at the start
of a reach that was won while it was pending, and is then no longer pending. -/
def Obligations.SoftwareTraps : Prop :=
  (∀ c : CFmt, Whenever (.brk c) fun s wid fid w f => Faults s (.brk c) wid fid w f .brk c.imm.toNat [] 0) ∧
  (∀ c : CFmt, Whenever (.trap c) fun s wid fid w f => Faults s (.trap c) wid fid w f .trap c.imm.toNat [] 0) ∧
  (∀ (why : DecodeFail) (gs : List Word) (s : State) (wid fid : Nat) (w : Warp) (f : Frag),
    s.focus = some (.frag wid fid) → findFrag s wid fid = some (w, f) →
    (why = .early ∨ why = .late ∨ (why = .lateHandler ∧ w.level = .h) →
      Machine.exec (.unassignedEncoding why gs) s =
        .next (takeTrap s wid fid (.unassignedEncoding why gs) .ill 0 (w.act f none) [] 0 false)) ∧
    (why = .lateHandler → w.level = .u → Machine.exec (.unassignedEncoding why gs) s =
        .next (takeTrap s wid fid (.unassignedEncoding why gs) .priv 0 (w.act f none) [] 0 false))) ∧
  (∀ (s t : State) (wid fid : Nat) (w w' : Warp) (f f' : Frag), s.focus = some (.frag wid fid) → findFrag s wid fid = some (w, f) →
    w.timer = true → f.st = .running → f.due = true →
    t = takeTrap s wid fid (fetchAt s w f.pc) .timer 0 (w.act f (fetchAt s w f.pc).guard) [] 0 false →
    findFrag t wid fid = some (w', f') → f'.st = .parked →
    Machine.exec .timer s = .next { t with warps := Tbl.put t.warps wid { w' with timer := false } })

/-- R132 to R134: what one lane's index leads to; where every active lane leads to one target, `jtab` goes there and `ctab` also writes the
link pc + 8; where every lane falls to one cause, the fragment parks whole with it; and where there are several groups, the fragment
splits by them, each lane in the group of its target or cause, and `ctab` writes its link if a target group forms and the split is not
refused. -/
def Obligations.TableJumps : Prop :=
  (∀ (s : State) (w : Warp) (r : LaunchRec) (dtl i : Nat),
    (dtl ≤ i → classify s w r dtl i = .error (.disp, BitVec.ofNat 32 i, 0, .ld)) ∧
    (i < dtl →
      (∀ c a, readVirt s { ctx := w.ctx, wg := some w.wg } (r.dtab + BitVec.ofNat 64 (4 * i)) 4 = .error (c, a) →
        classify s w r dtl i = .error (c, a.setWidth 32, a, .ld)) ∧
      (∀ bs, readVirt s { ctx := w.ctx, wg := some w.wg } (r.dtab + BitVec.ofNat 64 (4 * i)) 4 = .ok bs →
        let t := r.kstart + BitVec.ofNat 64 (4 * (leNat bs / 2))
        (leNat bs % 2 = 1 → classify s w r dtl i = .error (.lazy, BitVec.ofNat 32 i, 0, .ld)) ∧
        (leNat bs % 2 = 0 → ¬ CodeTarget t → classify s w r dtl i = .error (.path, t.setWidth 32, t, .ex)) ∧
        (leNat bs % 2 = 0 → CodeTarget t →
          (∀ c a, readGranule s w t = .error (c, a) → classify s w r dtl i = .error (c, a.setWidth 32, a, .ex)) ∧
          (∀ g, readGranule s w t = .ok g → g = 0x00010000 ∨ g = 0x20010000 → classify s w r dtl i = .ok t) ∧
          (∀ g, readGranule s w t = .ok g → g ≠ 0x00010000 → g ≠ 0x20010000 →
            classify s w r dtl i = .error (.land, BitVec.ofNat 32 i, 0, .ld)))))) ∧
  (∀ (c : CXFmt) (v : BitVec 11), c.cond = .vec v → ∀ r ∈ [(Instr.jtab c, false), (Instr.ctab c, true)],
   Whenever r.1 fun s wid fid w f => ∀ L, Tbl.find s.launches w.launch = some L →
    let leads (l : Nat) := classify s w L.lrec (w.pcr.dtl.toNat % 65536) (w.vreg v.toNat l).toNat
    let active (l : Nat) : Bool := (w.act f none).getLsbD l
    let linked : Warp := if r.2 then w.setSpair f.lanes c.lp.toNat (f.pc + 8) else w
    (∀ t, (∀ l, active l = true → leads l = .ok t) → Transfers s r.1 wid fid w f linked t) ∧
    (∀ cause, (∀ l, active l = true → ∃ iw a k, leads l = .error (cause, iw, a, k)) →
      ∃ info fa, (∀ l iw a k, active l = true → leads l = .error (cause, iw, a, k) → Tbl.read 0 info l = iw) ∧
        Faults s r.1 wid fid w f cause 0 info fa) ∧
    (∀ l m, active l = true → active m = true →
      (match leads l, leads m with
       | .ok t, .ok u => t ≠ u
       | .error p, .error q => p.1 ≠ q.1
       | _, _ => True) →
      ∃ ps : List Piece,
        (∀ l t, active l = true → leads l = .ok t → ∃ p ∈ ps, p.lanes.getLsbD l = true ∧ p.fate = .target t) ∧
        (∀ l cause iw a k, active l = true → leads l = .error (cause, iw, a, k) →
          ∃ p ∈ ps, p.lanes.getLsbD l = true ∧ ∃ info fa, p.fate = .fault cause 0 info fa ∧ Tbl.read 0 info l = iw) ∧
        (∀ p ∈ ps, p.lanes ≠ 0 ∧ ∀ l, p.lanes.getLsbD l = true → active l = true) ∧
        ps.Pairwise (fun p q => p.lanes &&& q.lanes = 0 ∧ (∀ t, p.fate = .target t → q.fate ≠ .target t) ∧
          (∀ cause i a i' a', p.fate = .fault cause 0 i a → q.fate ≠ .fault cause 0 i' a')) ∧
        Machine.exec r.1 s = .next (settleIfRetired w.alive ((mkIssue r.1 wid fid w f).split s
          (if ps.any (fun p => !p.isFault) && !(mkIssue r.1 wid fid w f).noRoom s ps.length && r.2 then putWarp s wid linked else s)
          ps) wid)))

/-- R18, R19: a split gives every group a fragment, the survivors or the group of the lowest lane under the old id and the others under free
ids by their lowest lane, all with the old S as S and join level, inactive lanes with the group that keeps the id; fault groups park
where they stood. A split for which ids or table entries are short parks the fragment whole, FRAGX, with its unfinished lanes. -/
def Obligations.Splits : Prop :=
  ∀ (x : Issue) (s0 s : State) (ps : List Piece) (must : Bool) (w : Warp) (f : Frag), findFrag s x.wid x.fid = some (w, f) → w.level = .u →
    let free := (List.range 8).filter fun k => (Tbl.find w.frags k).isNone
    let room := ps.length - 1 ≤ free.length ∧ coreFrags s w.ctl w.core + (ps.length - 1) ≤ coreEntries w.ctl
    let late := must || ps.any Piece.isDone
    let unfinished := ps.foldl (fun m p => if p.isDone then m else m ||| p.lanes) 0
    let all := ps.foldl (fun m p => m ||| p.lanes) 0
    (¬ room → x.split s0 s ps must = parkAs s x.wid x.fid (parkRec s x.w x.fid x.f x.i .fragx 0 unfinished [] 0) late) ∧
    (room → ps ≠ [] → (∀ p ∈ ps, p.lanes ≠ 0) → ps.Pairwise (fun p q => p.lanes &&& q.lanes = 0 ∧ ¬ (p.isDone = true ∧ q.isDone = true)) →
      ∃ (qs : List Piece) (ids : List Nat) (w' : Warp),
        qs.Perm ps ∧ ids = x.fid :: free.take (ps.length - 1) ∧
        (ps.any Piece.isDone = true → (qs.head?.map Piece.isDone) = some true) ∧
        (ps.any Piece.isDone = false → qs.Pairwise fun p q => lowLane p.lanes < lowLane q.lanes) ∧
        (qs.tail.Pairwise fun p q => lowLane p.lanes < lowLane q.lanes) ∧
        w' = { w with frags := w'.frags } ∧
        (∀ k, k ∉ ids → Tbl.find w'.frags k = Tbl.find w.frags k) ∧
        (∀ m ∈ qs.zip ids, ∃ g : Frag, Tbl.find w'.frags m.2 = some g ∧ g.st = .ready ∧ g.s = f.s ∧ g.j = f.s ∧ g.pidx = 0 ∧ g.reach = 0 ∧
          g.latches = [] ∧ g.lanes = (if m.2 = x.fid then m.1.lanes ||| (f.lanes &&& ~~~all) else m.1.lanes) ∧
          g.pc = (match m.1.fate with
            | .done => x.nextPc
            | .target pc => pc
            | .fault _ _ _ _ => f.pc)) ∧
        let parks := (qs.zip ids).filterMap fun m => match m.1.fate with
          | .fault c sub info a => some (m.2, parkRec s x.w x.fid { x.f with pidx := 0 } x.i c sub m.1.lanes info a)
          | _ => none
        x.split s0 s ps must = (parkPieces (putWarp s x.wid w') x.wid late parks).getD
          (stallFrames s0 x.wid x.fid ((parks.map fun p => p.2.fw).foldl max 1)))


/-! ## Vector instructions -/

/-- R60, R137, R140, Table 06.1: on integer types the exact result wraps modulo 2^w, or under SAT is clamped to the element range; `vmulh`
keeps the high half, `vmin` and `vmax` the smaller and the larger element.

R137, R140, R144, Tables 06.1 and 06.3: on float types each element rounds by the instruction's mode and flushes by MODE; a generated
NaN names the lane. -/
def Obligations.VectorArithmetic : Prop :=
  ((∀ r ∈ ([(.vadd, fun a b _ => a + b), (.vsub, fun a b _ => a - b), (.vmul, fun a b _ => a * b), (.vmad, fun a b c => a * b + c),
           (.vabs, fun a _ _ => if a < 0 then -a else a), (.vneg, fun a _ _ => -a)] : List ((VFmt → Instr) × (Int → Int → Int → Int))),
   ∀ t : VFmt, t.ty.isFloat = false → Whenever (r.1 t) fun s wid fid w f =>
    let n := t.ty.width
    let lo : Int := if t.ty.isSigned then -(2 ^ (n - 1)) else 0
    let hi : Int := if t.ty.isSigned then 2 ^ (n - 1) - 1 else 2 ^ n - 1
    Produces s (r.1 t) wid fid w f t t.ty.isL w (byElement w fid f t fun a b c =>
      let v := r.2 (toI t.ty.isSigned n a) (toI t.ty.isSigned n b) (toI t.ty.isSigned n c)
      ((if t.sat then max lo (min hi v) else v) % 2 ^ n).toNat)) ∧
  (∀ r ∈ ([(.vmulh, fun n a b => a * b / 2 ^ n), (.vmin, fun _ a b => if b < a then b else a), (.vmax, fun _ a b => if a < b then b else a)] :
        List ((VFmt → Instr) × (Nat → Int → Int → Int))),
   ∀ t : VFmt, t.ty.isFloat = false → Whenever (r.1 t) fun s wid fid w f =>
    let n := t.ty.width
    Produces s (r.1 t) wid fid w f t t.ty.isL w (byElement w fid f t fun a b _ =>
      (r.2 n (toI t.ty.isSigned n a) (toI t.ty.isSigned n b) % 2 ^ n).toNat))) ∧
  ((∀ r ∈ ([(.vadd, fun ff e l a b _ => ff.add e l a b), (.vsub, fun ff e l a b _ => ff.sub e l a b), (.vmul, fun ff e l a b _ => ff.mul e l a b),
           (.vfma, fun ff e l a b c => ff.fma e l a b c), (.vmin, fun ff e _ a b _ => ff.minmax e false a b),
           (.vmax, fun ff e _ a b _ => ff.minmax e true a b), (.vabs, fun ff e _ a _ _ => ff.signOp e true a),
           (.vneg, fun ff e _ a _ _ => ff.signOp e false a), (.vrcp, fun ff e l a _ _ => ff.rcp e l a), (.vrsq, fun ff e l a _ _ => ff.rsq e l a),
           (.vsqrt, fun ff e l a _ _ => ff.sqrt e l a), (.vfloor, fun ff e _ a _ _ => ff.integral e .rdn a),
           (.vceil, fun ff e _ a _ _ => ff.integral e .rup a), (.vtrunc, fun ff e _ a _ _ => ff.integral e .rtz a),
           (.vrint, fun ff e _ a _ _ => ff.integral e e.rm a), (.vfract, fun ff e l a _ _ => ff.fract e l a),
           (.vclass, fun ff _ _ a _ _ => ff.classMask a), (.vgetexp, fun ff e l a _ _ => ff.getexp e l a),
           (.vgetman, fun ff e l a _ _ => ff.getman e l a)] : List ((VFmt → Instr) × (FF → FEnv → Nat → Nat → Nat → Nat → Nat))),
   ∀ t : VFmt, t.ty.isFloat = true → Whenever (r.1 t) fun s wid fid w f =>
    Produces s (r.1 t) wid fid w f t t.ty.isL w fun l => byElement w fid f t (r.2 t.ty.ff (vectorEnv w f t) l) l) ∧
  (∀ t : VFmt, t.ty.isFloat = true → Whenever (.vldexp t) fun s wid fid w f =>
    Produces s (.vldexp t) wid fid w f t t.ty.isL w fun l =>
      byElement w fid f t (fun a b _ => t.ty.ff.ldexp (vectorEnv w f t) l a (toI true t.ty.width b)) l) ∧
  (∀ (k : BitVec 3) (t : VFmt), t.ty.isFloat = true → Whenever (.vprof k t) fun s wid fid w f =>
    Produces s (.vprof k t) wid fid w f t t.ty.isL w fun l => byElement w fid f t (fun a _ _ =>
      if t.ty.ff.isNan a then t.ty.ff.quiet a
      else match profEval w.prof k.toNat (FF.conv t.ty.ff .f32 .plain a) with
        | some y => FF.conv .f32 t.ty.ff .plain y
        | none => t.ty.ff.tag (w.pcr.mode.getLsbD 4) l f.pc) l))

/-- R137, R141, R142, Table 06.2 FN 0 to 16: logic, shifts by the count modulo the element width, counts, and bit fields whose width is cut
at bit 31.

R137, R141, R143, R150, R156: `vmov` and `vsel` copy bits; `vcmp` replaces the bits of the active lanes in the triple, written whole, with
the relation of the element X[2:0] and a latch of ones and zeros; `vunpack` widens half h of its source; `vedge` tests the sample position
of the lane against an edge. -/
def Obligations.VectorLogicMovesAndTests : Prop :=
  (∀ r ∈ ([(.vand, fun _ a b _ => a &&& b), (.vor, fun _ a b _ => a ||| b), (.vxor, fun _ a b _ => a ^^^ b),
          (.vandn, fun t a b _ => a &&& (2 ^ t.ty.width - 1 - b)), (.vnot, fun t a _ _ => 2 ^ t.ty.width - 1 - a),
          (.vshl, fun t a b _ => a <<< (b % t.ty.width)), (.vshr, fun t a b _ => a >>> (b % t.ty.width)),
          (.vsar, fun t a b _ => ((toI true t.ty.width a / 2 ^ (b % t.ty.width)) % 2 ^ t.ty.width).toNat),
          (.vfshl, fun _ a b c => ((a * 2 ^ 32 + b) <<< (c % 32)) / 2 ^ 32 % 2 ^ 32),
          (.vfshr, fun _ a b c => ((a * 2 ^ 32 + b) >>> (c % 32)) % 2 ^ 32),
          (.vpopc, fun t a _ _ => ((List.range t.ty.width).filter a.testBit).length),
          (.vclz, fun t a _ _ => if a = 0 then t.ty.width else t.ty.width - 1 - a.log2),
          (.vctz, fun t a _ _ => ((List.range t.ty.width).find? a.testBit).getD t.ty.width),
          (.vlut3, fun t a b c => ((List.range 32).map fun j =>
            if t.x.toNat.testBit (4 * (a.testBit j).toNat + 2 * (b.testBit j).toNat + (c.testBit j).toNat) then 2 ^ j else 0).sum),
          (.vbrev, fun _ a _ _ => ((List.range 32).map fun j => if a.testBit j then 2 ^ (31 - j) else 0).sum),
          (.vbfe, fun t a b _ =>
            let pos := b % 32
            let wd := min (b / 256 % 64) (32 - pos)
            let v := a / 2 ^ pos % 2 ^ wd
            if wd = 0 then 0 else if t.ty = .s32 && v.testBit (wd - 1) then 2 ^ 32 - 2 ^ wd + v else v),
          (.vbfi, fun _ a b c =>
            let pos := c % 32
            let wd := min (c / 256 % 64) (32 - pos)
            a / 2 ^ (pos + wd) * 2 ^ (pos + wd) + b % 2 ^ wd * 2 ^ pos + a % 2 ^ pos)] :
        List ((VFmt → Instr) × (VFmt → Nat → Nat → Nat → Nat))),
  ∀ t : VFmt, Whenever (r.1 t) fun s wid fid w f => Produces s (r.1 t) wid fid w f t t.ty.isL w (byElement w fid f t (r.2 t))) ∧
  ((∀ t : VFmt, Whenever (.vmov t) fun s wid fid w f => Produces s (.vmov t) wid fid w f t t.ty.isL w fun l => selVal w fid f t.ty 0 t.a l) ∧
  (∀ t : VFmt, Whenever (.vsel t) fun s wid fid w f => Produces s (.vsel t) wid fid w f t t.ty.isL w fun l =>
    if (w.triple (t.x.toNat % 128)).getLsbD l then selVal w fid f t.ty 0 t.a l else selVal w fid f t.ty 1 t.b l) ∧
  (∀ (cc : VCc) (t : VFmt), Whenever (.vcmp cc t) fun s wid fid w f =>
    let e (pos : Nat) (x : Sel) (l : Nat) : Nat := elemAt t.ty.width (selVal w fid f t.ty pos x l) (t.x.toNat % 8)
    let holds (l : Nat) : Bool :=
      if t.ty.isFloat then t.ty.ff.cmp ((FEnv.ofMode w.pcr.mode f.pc).ftz t.ty.ff) cc (e 0 t.a l) (e 1 t.b l)
      else intCmp cc (toI t.ty.isSigned t.ty.width (e 0 t.a l)) (toI t.ty.isSigned t.ty.width (e 1 t.b l))
    ∃ (m : LaneMask) (latch : Tbl DWord),
      (∀ l, l < 96 → m.getLsbD l =
        if (w.act f t.guard).getLsbD l then holds l else (w.triple t.d.toNat).getLsbD l) ∧
      (∀ l, l < 96 → (Tbl.read 0 latch l).setWidth 32 = if m.getLsbD l then (1 : Word) else 0) ∧
      Machine.exec (.vcmp cc t) s = .next (settleIfRetired w.alive (goesOn { s with freeCtr := s.freeCtr + latchDraws false } (.vcmp cc t) wid fid
        (if t.nw then w else w.setTriple f.lanes t.d.toNat m) { f with latches := (latch :: f.latches).take 4 }) wid)) ∧
  (∀ (t : VFmt) (st : VTy), t.srcTy = some st → Whenever (.vunpack t) fun s wid fid w f =>
    Produces s (.vunpack t) wid fid w f t t.ty.isL w fun l => t.ty.pack ((List.range t.ty.count).map fun k =>
      convElem st t.ty (vectorEnv w f t) (elemAt st.width (selVal w fid f st 0 t.a l) ((t.x.toNat / 16 % 2) * t.ty.count + k)))) ∧
  (∀ t : VFmt, Whenever (.vedge t) fun s wid fid w f => Produces s (.vedge t) wid fid w f t false w fun l =>
    let dx : Int := (l % 12 * 256 + 16 * (t.y.toNat % 16) : Nat)
    let dy : Int := (l / 12 * 256 + 16 * (t.y.toNat / 16) : Nat)
    let v (pos : Nat) (x : Sel) : Int := ((selVal w fid f .s32 pos x l).setWidth 32 : Word).toInt
    let e := v 0 t.a * dx + v 1 t.b * dy + v 2 t.c
    if 0 < e ∨ (e = 0 ∧ t.x.getLsbD 0 = true) then 1 else 0))

/-- R148, R149, R151, R152: `vcvt` merges converted elements into D, `vpack` fills D from two sources, `vmxs` narrows one element of each
active lane under a scale shared by the active lanes of its beat and writes that scale to D + 1, `vdot2` and `vdot4` add the products of a
lane's elements and C in one rounding.

R69, R71, R72: under stochastic rounding a conversion uses, for destination element j of lane l, the bits for j of the lane's next random
word, and every active lane's generator advances once; the other lanes' generators stand. -/
def Obligations.VectorConversions : Prop :=
  ((∀ (t : VFmt) (st : VTy), t.srcTy = some st → t.rc ≠ .sr → Whenever (.vcvt t) fun s wid fid w f =>
    let cvt := convElem st t.ty (vectorEnv w f t)
    let a (l k : Nat) := elemAt st.width (selVal w fid f st 0 t.a l) k
    let base (l : Nat) := w.vval t.ty.isL t.d.toNat l
    Produces s (.vcvt t) wid fid w f t t.ty.isL w fun l =>
      if st.count ≤ t.ty.count then
        setElems t.ty.width (base l) ((List.range st.count).map fun k => (t.xPos * st.count + k, cvt (a l k)))
      else setElems t.ty.width (base l) ((List.range t.ty.count).map fun k => (k, cvt (a l (t.xPos * t.ty.count + k))))) ∧
  (∀ (t : VFmt) (st : VTy), t.srcTy = some st → t.rc ≠ .sr → Whenever (.vpack t) fun s wid fid w f =>
    Produces s (.vpack t) wid fid w f t t.ty.isL w fun l => t.ty.pack ((List.range (2 * st.count)).map fun k =>
      convElem st t.ty (vectorEnv w f t)
        (if k < st.count then elemAt st.width (selVal w fid f st 0 t.a l) k else elemAt st.width (selVal w fid f st 1 t.b l) (k - st.count)))) ∧
  (∀ t : VFmt, t.rc ≠ .sr → Whenever (.vmxs t) fun s wid fid w f =>
    let src (l : Nat) := FF.f32.flush (w.pcr.mode.getLsbD 2) (selVal w fid f .f32 0 t.a l).toNat
    let scale (l : Nat) := mxScale t.ty.ff (((lanesOf (w.act f t.guard)).filter fun k => k / 32 == l / 32).map src)
    let ls := lanesOf (w.act f t.guard)
    let rs := ls.map fun l => (l, setElems t.ty.width ((w.vreg t.d.toNat l).setWidth 64)
      [(t.xPos, mxNarrow t.ty.ff (vectorEnv w f t).rm (scale l) (src l))])
    Machine.exec (.vmxs t) s = .next (goesOn { s with freeCtr := s.freeCtr + latchDraws false } (.vmxs t) wid fid
      ((w.setVlanes false t.d.toNat rs).setVlanes false (t.d.toNat + 1) (ls.map fun l => (l, BitVec.ofNat 64 (scale l))))
      { f with latches := (latchOf w false s.freeCtr t.d.toNat rs :: f.latches).take 4 })) ∧
  (∀ c ∈ ([.vdot2, .vdot4] : List (VFmt → Instr)), ∀ t : VFmt, t.ty.isFloat = false → Whenever (c t) fun s wid fid w f =>
    Produces s (c t) wid fid w f t false w fun l =>
      let e (pos : Nat) (x : Sel) (k : Nat) : Int := toI t.ty.isSigned t.ty.width (elemAt t.ty.width (selVal w fid f t.ty pos x l) k)
      let v := ((List.range t.ty.count).map fun k => e 0 t.a k * e 1 t.b k).sum + toI true 32 (selVal w fid f .s32 2 t.c l).toNat
      BitVec.ofNat 64 ((if t.sat then max (-(2 ^ 31)) (min (2 ^ 31 - 1) v) else v) % 2 ^ 32).toNat) ∧
  (∀ c ∈ ([.vdot2, .vdot4] : List (VFmt → Instr)), ∀ t : VFmt, t.ty.isFloat = true → Whenever (c t) fun s wid fid w f =>
    Produces s (c t) wid fid w f t false w fun l => laneDot t (mkIssue (c t) wid fid w f) l)) ∧
  (let sr (w : Warp) (f : Frag) (t : VFmt) (l j : Nat) : FEnv :=
    { vectorEnv w f t with rm := srsElem (srsNext (w.srsOf l) f.pc) t.ty.count j }
  (∀ (t : VFmt) (st : VTy), t.srcTy = some st → t.rc = .sr → Whenever (.vcvt t) fun s wid fid w f =>
    let a (l k : Nat) := elemAt st.width (selVal w fid f st 0 t.a l) k
    let base (l : Nat) := w.vval t.ty.isL t.d.toNat l
    Produces s (.vcvt t) wid fid w f t t.ty.isL (w.advance f.pc (lanesOf (w.act f t.guard))) fun l =>
      if st.count ≤ t.ty.count then
        setElems t.ty.width (base l) ((List.range st.count).map fun k =>
          (t.xPos * st.count + k, convElem st t.ty (sr w f t l (t.xPos * st.count + k)) (a l k)))
      else setElems t.ty.width (base l) ((List.range t.ty.count).map fun k =>
        (k, convElem st t.ty (sr w f t l k) (a l (t.xPos * t.ty.count + k))))) ∧
  (∀ (t : VFmt) (st : VTy), t.srcTy = some st → t.rc = .sr → Whenever (.vpack t) fun s wid fid w f =>
    Produces s (.vpack t) wid fid w f t t.ty.isL (w.advance f.pc (lanesOf (w.act f t.guard))) fun l =>
      t.ty.pack ((List.range (2 * st.count)).map fun k => convElem st t.ty (sr w f t l k)
        (if k < st.count then elemAt st.width (selVal w fid f st 0 t.a l) k else elemAt st.width (selVal w fid f st 1 t.b l) (k - st.count)))) ∧
  (∀ (w : Warp) (pc : DWord) (m : LaneMask) (l : Nat),
    ((w.advance pc (lanesOf m)).srsOf l = if m.getLsbD l then srsNext (w.srsOf l) pc else w.srsOf l) ∧
    (w.advance pc (lanesOf m)).sregs = w.sregs ∧ (w.advance pc (lanesOf m)).vregs = w.vregs))

/-! ## Cross-lane instructions -/

/-- R153, R154, Table 06.7: `vshfl`, `vbcast` and `vrot` read A in a source lane, whatever that lane's state, and C where they name none;
`vballot` writes bit 0 of A for the active lanes and 0 for the others, into the triple whole. No latch is produced, and there is none after.

R153, R155: a lane's result comes from the active lanes of its group: `vred` from all, `vscan` from those up to or before it, `vnzs` counts
nonzero values, `vmatch` finds the lowest equal one; integer sums are exact before they wrap or are clamped, and an empty range gives the
identity. -/
def Obligations.CrossLaneResults : Prop :=
  ((∀ t : VFmt, Whenever (.vshfl t) fun s wid fid w f =>
    Completes s (.vshfl t) wid fid w f (w.setVlanes t.ty.isL t.d.toNat (perLane (.vshfl t) w f fun l =>
      let n := (selInt w fid f 1 t.b l).toNat
      if n < 96 then selVal w (w.fragOf n) f t.ty 0 t.a n else selVal w fid f t.ty 2 t.c l))) ∧
  (∀ t : VFmt, Whenever (.vbcast t) fun s wid fid w f =>
    Completes s (.vbcast t) wid fid w f (w.setVlanes t.ty.isL t.d.toNat (perLane (.vbcast t) w f fun l =>
      let n := (selInt w fid f 1 t.b l).toNat
      let k := l / t.groupW * t.groupW + n
      if n < t.groupW then selVal w (w.fragOf k) f t.ty 0 t.a k else selVal w fid f t.ty 2 t.c l))) ∧
  (∀ t : VFmt, Whenever (.vrot t) fun s wid fid w f =>
    Completes s (.vrot t) wid fid w f (w.setVlanes t.ty.isL t.d.toNat (perLane (.vrot t) w f fun l =>
      let base := l / t.groupW * t.groupW
      let k := base + (l - base + (selInt w fid f 1 t.b l).toNat) % t.groupW
      selVal w (w.fragOf k) f t.ty 0 t.a k))) ∧
  (∀ t : VFmt, Whenever (.vballot t) fun s wid fid w f => ∃ m : LaneMask,
    (∀ l, l < 96 → m.getLsbD l = ((w.act f t.guard).getLsbD l && (selVal w fid f t.ty 0 t.a l).getLsbD 0)) ∧
    Completes s (.vballot t) wid fid w f (w.setTriple f.lanes t.d.toNat m)) ∧
  (∀ (t : VFmt) (f : Frag) (pc : DWord) (e : Bool), (f.retire (.vshfl t) pc e).latches = [] ∧ (f.retire (.vballot t) pc e).latches = [] ∧
    (f.retire (.vred t) pc e).latches = [])) ∧
  ((∀ t : VFmt, Whenever (.vred t) fun s wid fid w f =>
    let group (l : Nat) := (lanesOf (w.act f t.guard)).filter fun k => k / t.groupW * t.groupW == l / t.groupW * t.groupW
    Completes s (.vred t) wid fid w f (w.setVlanes t.ty.isL t.d.toNat (perLane (.vred t) w f fun l =>
      redLanes t (mkIssue (.vred t) wid fid w f) l (group l)))) ∧
  (∀ t : VFmt, Whenever (.vscan t) fun s wid fid w f =>
    let group (l : Nat) := (lanesOf (w.act f t.guard)).filter fun k => k / t.groupW * t.groupW == l / t.groupW * t.groupW
    Completes s (.vscan t) wid fid w f (w.setVlanes t.ty.isL t.d.toNat (perLane (.vscan t) w f fun l =>
      redLanes t (mkIssue (.vscan t) wid fid w f) l ((group l).filter fun k => if t.x.getLsbD 6 then decide (k < l) else decide (k ≤ l))))) ∧
  (∀ t : VFmt, Whenever (.vnzs t) fun s wid fid w f =>
    Completes s (.vnzs t) wid fid w f (w.setVlanes t.ty.isL t.d.toNat (perLane (.vnzs t) w f fun l =>
      BitVec.ofNat 64 ((List.range 96).filter fun k => (w.act f t.guard).getLsbD k && (k / t.groupW == l / t.groupW) &&
        (t.x.getLsbD 6 || decide (k < l)) && selVal w fid f t.ty 0 t.a k != 0).length))) ∧
  (∀ t : VFmt, Whenever (.vmatch t) fun s wid fid w f =>
    Completes s (.vmatch t) wid fid w f (w.setVlanes t.ty.isL t.d.toNat (perLane (.vmatch t) w f fun l =>
      BitVec.ofNat 64 (((List.range 96).find? fun k => (w.act f t.guard).getLsbD k && (k / t.groupW == l / t.groupW) &&
        selVal w fid f t.ty 0 t.a k == selVal w fid f t.ty 0 t.a l).getD l)))) ∧
  (∀ (t : VFmt) (x : Issue) (l : Nat) (xs : List Nat), t.ty.isFloat = false → xs ≠ [] →
    redElem t x l 0 xs = fitI t.ty.isSigned t.sat t.ty.width ((xs.map (toI t.ty.isSigned t.ty.width)).sum)) ∧
  (∀ (t : VFmt) (x : Issue) (l : Nat), redElem t x l 0 [] = 0 ∧ redElem t x l 3 [] = 2 ^ t.ty.width - 1 ∧ redElem t x l 4 [] = 0 ∧
    redElem t x l 5 [] = 0 ∧ (t.ty = .n32 → redElem t x l 1 [] = 2 ^ 32 - 1 ∧ redElem t x l 2 [] = 0) ∧
    (t.ty = .s32 → redElem t x l 1 [] = 2 ^ 31 - 1 ∧ redElem t x l 2 [] = 2 ^ 31) ∧
    (t.ty = .f32 → redElem t x l 1 [] = 0x7F800000 ∧ redElem t x l 2 [] = 0xFF800000)))

/-- R157, R158, Table 06.8: the deprecated forms read every source at step 0, keep the values hidden with PIDX at the next step, and write D
at their last step in the lanes of step 0 that are still alive. -/
def Obligations.DeprecatedForms : Prop :=
  (∀ c ∈ ([(.vmad24, 2), (.vbfly, 3), (.vsad4, 4)] : List ((VFmt → Instr) × Nat)),
   ∀ (t : VFmt) (s : State) (wid fid : Nat) (w : Warp) (f : Frag), s.focus = some (.frag wid fid) → findFrag s wid fid = some (w, f) →
    (∀ vals, f.pidx ≠ 0 → f.pidx.toNat + 1 < c.2 → f.hidden = [vals] →
      Machine.exec (c.1 t) s = .next (withFrag s wid fid w { f with pidx := f.pidx + 1 })) ∧
    (∀ vals, f.pidx.toNat + 1 = c.2 → f.hidden = [vals] →
      Completes s (c.1 t) wid fid w f (w.setVlanes t.ty.isL t.d.toNat
        ((lanesOf (f.hidAct &&& w.alive)).map fun l => (l, Tbl.read 0 vals l))))) ∧
  (∀ r ∈ ([(.vmad24, fun t w fid f l =>
              let e (v : DWord) : Int := if t.ty.isSigned then ((v.setWidth 24 : BitVec 24)).toInt else ((v.setWidth 24 : BitVec 24)).toNat
              BitVec.ofNat 64 ((e (selVal w fid f t.ty 0 t.a l) * e (selVal w fid f t.ty 1 t.b l) +
                (selVal w fid f t.ty 2 t.c l).toNat) % 2 ^ 32).toNat),
           (.vbfly, fun t w fid f l =>
              let k := l ^^^ ((selInt w fid f 1 t.b l).toNat % 32)
              selVal w (w.fragOf k) f t.ty 0 t.a k),
           (.vsad4, fun t w fid f l =>
              let d (k : Nat) : Nat :=
                let a := elemAt 8 (selVal w fid f t.ty 0 t.a l) k
                let b := elemAt 8 (selVal w fid f t.ty 1 t.b l) k
                if a < b then b - a else a - b
              BitVec.ofNat 64 (((selVal w fid f t.ty 2 t.c l).toNat + d 0 + d 1 + d 2 + d 3) % 2 ^ 32))] :
        List ((VFmt → Instr) × (VFmt → Warp → Nat → Frag → Nat → DWord))),
   ∀ t : VFmt, Whenever (r.1 t) fun s wid fid w f => f.pidx = 0 → ∃ vals,
    (∀ l, (w.act f t.guard).getLsbD l = true → Tbl.read 0 vals l = r.2 t w fid f l) ∧
    Machine.exec (r.1 t) s = .next (withFrag s wid fid w { f with pidx := 1, hidden := [vals], hidAct := w.act f t.guard }))

/-! ## Memory instructions -/

/-- R92, R164, R165, R170, Tables 07.1 and 07.4: the effective address of each form, and what a loaded byte string becomes in registers. A
load reads what memory holds, but on path 0x7 code that was changed since the launch may still read as it was (R59, R233; log 66). -/
def Obligations.EffectiveAddresses : Prop :=
  (∀ (x : Issue) (t : VMFmt) (n : BitVec 11) (size l : Nat), t.a = .vreg n → t.sb = 0 →
    x.ea t size l = x.w.vreg (n.toNat + 1) l ++ x.w.vreg n.toNat l + t.imm8.signExtend 64 * BitVec.ofNat 64 size) ∧
  (∀ (x : Issue) (t : VMFmt) (n : BitVec 11) (size l : Nat), t.a = .vreg n → t.sb ≠ 0 →
    x.ea t size l = x.w.sreg (t.sb.toNat + 1) ++ x.w.sreg t.sb.toNat + (x.w.vreg n.toNat l).setWidth 64 <<< t.sc.toNat +
      t.imm8.signExtend 64 * BitVec.ofNat 64 size) ∧
  (∀ (x : Issue) (t : VMFmt) (v : BitVec 9) (size l : Nat), t.a = .imm v → t.sb ≠ 0 →
    x.ea t size l = x.w.sreg (t.sb.toNat + 1) ++ x.w.sreg t.sb.toNat + v.signExtend 64 <<< t.sc.toNat +
      t.imm8.signExtend 64 * BitVec.ofNat 64 size) ∧
  (∀ (x : Issue) (t : VMFmt) (n : BitVec 11) (j l : Nat), t.a = .vreg n →
    x.eaList t j l = x.w.sreg (t.sb.toNat + 1) ++ x.w.sreg t.sb.toNat + (x.w.vreg (n.toNat + j) l).setWidth 64 <<< t.sc.toNat) ∧
  (∀ (x : Issue) (t : SFmt) (a : BitVec 9) (d : BitVec 23), t.src = .imm a d →
    x.sea t = x.w.sreg (a.toNat + 1) ++ x.w.sreg a.toNat + d.signExtend 64) ∧
  (∀ (x : Issue) (t : SFmt) (a b : BitVec 9) (d : BitVec 14), t.src = .regs a b d → x.i = .sld t ∨ x.i = .sst t →
    x.sea t = x.w.sreg (a.toNat + 1) ++ x.w.sreg a.toNat + d.signExtend 64 + (x.w.sreg b.toNat).signExtend 64) ∧
  (∀ b : Byte, LdFn.words .b8z [b] = [b.setWidth 32] ∧ LdFn.words .b8s [b] = [b.signExtend 32]) ∧
  (∀ b c : Byte, LdFn.words .b16z [b, c] = [(c ++ b).setWidth 32] ∧ LdFn.words .b16s [b, c] = [(c ++ b).signExtend 32]) ∧
  (∀ b c d e : Byte, LdFn.words .b32 [b, c, d, e] = [e ++ d ++ c ++ b]) ∧
  (∀ (x : Issue) (s : State) (a : DWord) (k : Nat) (l : Loc) (n : Nat), pathOf a ≠ 7 ∨ s.olds = [] → x.readAt s a k l n = readLoc s l n)

/-- R160, R161, R164, R165: where the accesses of every active lane meet nothing in their way, `vld` and `vgld` go on at once, and the words
they read are in flight to the registers of their lanes, on the token if they name one.

R166: `vgldl` with an empty list has no effect, with one above 3,072 entries or past T it faults REGX, and with a list off its alignment
ALIGN; a step whose list entries are present and whose accesses meet nothing in their way puts the words of its lanes in flight to
registers D + q × step, and the last step ends the instruction. Its token stays busy from the first step to the last (R29).

R160, R163 to R165, R276: where the accesses of every active lane meet nothing in their way, `vst` and `vgst` store their data and
nothing else, change no register, and go on. -/
def Obligations.VectorLoadsAndStores : Prop :=
  (((∀ (fn : LdFn) (t : VMFmt), Whenever (.vld fn t) fun s wid fid w f => ∀ loc : Nat → Loc, TokenFree (.vld fn t) w →
    (∀ l, (w.act f t.guard).getLsbD l = true → Lands s w .ld fn.bytes ((mkIssue (.vld fn t) wid fid w f).ea t fn.bytes l) (loc l)) →
    ∃ vd : Tbl Word,
      (∀ l, (w.act f t.guard).getLsbD l = true → landsInLane vd t.d.toNat l (fn.words
        ((mkIssue (.vld fn t) wid fid w f).readAt s ((mkIssue (.vld fn t) wid fid w f).ea t fn.bytes l) (l + 1) (loc l) fn.bytes))) ∧
      (∀ r l, (w.act f t.guard).getLsbD l = false → l < 96 → Tbl.find vd (vkey r l) = none) ∧
      Machine.exec (.vld fn t) s = .next (goesOn { s with freshId := s.freshId + 1 } (.vld fn t) wid fid
        (inFlight w s.freshId { Machine.Access.plain fid f.lanes with tok := (Instr.vld fn t).token, vdst := vd }) f)) ∧
  (∀ (fn : LdFn) (t : VMFmt), Whenever (.vgld fn t) fun s wid fid w f => ∀ loc : Nat → Nat → Loc, TokenFree (.vgld fn t) w →
    (∀ l j, (w.act f t.guard).getLsbD l = true → j < t.n →
      Lands s w .ld fn.bytes ((mkIssue (.vgld fn t) wid fid w f).eaList t j l) (loc l j)) →
    ∃ vd : Tbl Word,
      (∀ l j, (w.act f t.guard).getLsbD l = true → j < t.n →
        landsInLane vd (t.d.toNat + fn.regs * j) l (fn.words
          ((mkIssue (.vgld fn t) wid fid w f).readAt s ((mkIssue (.vgld fn t) wid fid w f).eaList t j l) (l + 1) (loc l j) fn.bytes))) ∧
      (∀ r l, (w.act f t.guard).getLsbD l = false → l < 96 → Tbl.find vd (vkey r l) = none) ∧
      Machine.exec (.vgld fn t) s = .next (goesOn { s with freshId := s.freshId + 1 } (.vgld fn t) wid fid
        (inFlight w s.freshId { Machine.Access.plain fid f.lanes with tok := (Instr.vgld fn t).token, vdst := vd }) f))) ∧
  (∀ (fn : LdFn) (t : VMFmt), Whenever (.vgldl fn t) fun s wid fid w f =>
    let x := mkIssue (.vgldl fn t) wid fid w f
    let n := (selInt w fid f 2 t.c 0).toNat
    let off := (selInt w fid f 0 t.a 0).toNat
    let step := f.pidx.toNat
    let steps := (n + 95) / 96
    let entry (l : Nat) : DWord := BitVec.ofNat 64 (2 * 2 ^ 60 + off + 4 * (96 * step + l))
    let index (l : Nat) : Nat := leNat (readLoc s (.scratch w.wg (off + 4 * (96 * step + l))) 4)
    let ea (l : Nat) : DWord := w.spair t.sb.toNat + BitVec.ofNat 64 (index l * 2 ^ t.sc.toNat)
    (TokenFree (.vgldl fn t) w ∨ f.tokHeld ≠ none) →
    (3072 < n ∨ n ≠ 0 ∧ w.top < t.d.toNat + fn.regs * steps → f.pidx = 0 → Faults s (.vgldl fn t) wid fid w f .regx 0 [] 0) ∧
    (n ≤ 3072 → (n = 0 ∨ t.d.toNat + fn.regs * steps ≤ w.top) → off % 4 ≠ 0 → f.pidx = 0 →
      ∃ info fa, Faults s (.vgldl fn t) wid fid w f .align 0 info fa) ∧
    (n = 0 → off % 4 = 0 → Completes s (.vgldl fn t) wid fid w f w) ∧
    (∀ loc : Nat → Loc, n ≤ 3072 → t.d.toNat + fn.regs * steps ≤ w.top → off % 4 = 0 → step < steps →
      (∀ l, (w.act f t.guard).getLsbD l = true → 96 * step + l < n →
        off + 4 * (96 * step + l) < 2 ^ 19 ∧ Lands s w .ld 4 (entry l) (.scratch w.wg (off + 4 * (96 * step + l))) ∧
        Lands s w .ld fn.bytes (ea l) (loc l)) →
      ∃ (vd : Tbl Word) (u : State),
        (∀ l, (w.act f t.guard).getLsbD l = true → 96 * step + l < n →
          landsInLane vd (t.d.toNat + fn.regs * step) l (fn.words (x.readAt s (ea l) (l + 1) (loc l) fn.bytes))) ∧
        u = (if x.stepEntries n step = [] then s else withFrag { s with freshId := s.freshId + 1 } wid fid
          (inFlight w s.freshId { Machine.Access.plain fid f.lanes with tok := (Instr.vgldl fn t).token, vdst := vd }) f) ∧
        Machine.exec (.vgldl fn t) s = .next
          (if step + 1 < steps then
            modFrag (x.holdToken u) wid fid fun g => { g with pidx := f.pidx + 1, wkind := .none, wait := .empty }
           else x.done (dropHold u wid fid)))) ∧
  (∀ (x : Issue) (s : State), (x.f.tokHeld = none → x.i.token = none → x.holdToken s = s) ∧
    (∀ k w f, x.f.tokHeld = none → x.i.token = some k → findFrag s x.wid x.fid = some (w, f) →
      x.holdToken s = withFrag s x.wid x.fid (w.tokAdd k) { f with tokHeld := some k })) ∧
  (∀ (s : State) (wid fid : Nat) (w : Warp) (f : Frag), findFrag s wid fid = some (w, f) → f.tokHeld = none → dropHold s wid fid = s)) ∧
  ((∀ (fn : StFn) (t : VMFmt), Whenever (.vst fn t) fun s wid fid w f => ∀ loc : LAcc → Loc, TokenFree (.vst fn t) w →
    let x := mkIssue (.vst fn t) wid fid w f
    let as := (lanesOf (w.act f t.guard)).map fun l => ({ lane := l, elem := 0, addr := x.ea t fn.bytes l, n := fn.bytes } : LAcc)
    (∀ a ∈ as, Lands s w .st a.n a.addr (loc a)) →
    ∃ u w', Machine.exec (.vst fn t) s = .next u ∧
      findFrag u wid fid = some (w', f.retire (.vst fn t) (afterPc (.vst fn t) f) false) ∧ w'.sregs = w.sregs ∧ w'.vregs = w.vregs ∧
      StoredAt s u as loc x.storeData) ∧
  (∀ (fn : StFn) (t : VMFmt), Whenever (.vgst fn t) fun s wid fid w f => ∀ loc : LAcc → Loc, TokenFree (.vgst fn t) w →
    let x := mkIssue (.vgst fn t) wid fid w f
    let as := (lanesOf (w.act f t.guard)).flatMap fun l => (List.range t.n).map fun j =>
      ({ lane := l, elem := j, addr := x.eaList t j l, n := fn.bytes } : LAcc)
    (∀ a ∈ as, Lands s w .st a.n a.addr (loc a)) →
    ∃ u w', Machine.exec (.vgst fn t) s = .next u ∧
      findFrag u wid fid = some (w', f.retire (.vgst fn t) (afterPc (.vgst fn t) f) false) ∧ w'.sregs = w.sregs ∧ w'.vregs = w.vregs ∧
      StoredAt s u as loc x.storeData))

/-- R160, R170, Table 07.4: `sld` puts what it reads in flight to D, extended by its form; `sst` stores s(D), or the pair, and nothing else. -/
def Obligations.ScalarLoadsAndStores : Prop :=
  (∀ t : SFmt, Whenever (.sld t) fun s wid fid w f => ∀ l : Loc,
    let fn := sldFn t.z.toNat
    Lands s w .ld fn.bytes ((mkIssue (.sld t) wid fid w f).sea t) l →
    ∃ sd : Tbl Word, (∀ j, j < fn.regs → Tbl.find sd (t.d.toNat + j) =
        (fn.words ((mkIssue (.sld t) wid fid w f).readAt s ((mkIssue (.sld t) wid fid w f).sea t) 1 l fn.bytes))[j]?) ∧
      (∀ r, r < t.d.toNat ∨ t.d.toNat + fn.regs ≤ r → Tbl.find sd r = none) ∧
      Machine.exec (.sld t) s = .next (goesOn { s with freshId := s.freshId + 1 } (.sld t) wid fid
        (inFlight w s.freshId { Machine.Access.plain fid f.lanes with sdst := sd }) f)) ∧
  (∀ t : SFmt, t.z.toNat ≤ 3 → Whenever (.sst t) fun s wid fid w f => ∀ l : Loc,
    let x := mkIssue (.sst t) wid fid w f
    let n := 2 ^ t.z.toNat
    Lands s w .st n (x.sea t) l →
    ∃ u, Machine.exec (.sst t) s = .next u ∧
      findFrag u wid fid = some ({ w with frags := Tbl.put w.frags fid (f.retire (.sst t) (afterPc (.sst t) f) false) },
        f.retire (.sst t) (afterPc (.sst t) f) false) ∧
      StoredAt s u [{ lane := 0, elem := 0, addr := x.sea t, n := n }] (fun _ => l)
        fun _ => leBytes n (if n = 8 then w.spair t.d.toNat else (w.sreg t.d.toNat).setWidth 64).toNat)

/-- R167, R168, Table 07.3: an atomic reads the old value into D and stores the new one in one step; the lanes of `vatom` at different
places follow one another; and what each operation makes of old value and operand. -/
def Obligations.Atomics : Prop :=
  (∀ (op : AtomOp) (t : SFmt), Whenever (.satom op t) fun s wid fid w f => ∀ l : Loc,
    let n := if t.ty.wide then 8 else 4
    let q := performAtomic s l op t.ty.vty (w.sval t.ty.wide t.bReg) (w.sval t.ty.wide t.d.toNat)
    Lands s w .at n ((mkIssue (.satom op t) wid fid w f).sea t) l →
    ∃ sd : Tbl Word, (Tbl.find sd t.d.toNat = some (q.1.setWidth 32)) ∧
      (t.ty.wide = true → Tbl.find sd (t.d.toNat + 1) = some (q.1.extractLsb' 32 32)) ∧
      Machine.exec (.satom op t) s = .next (goesOn { q.2 with freshId := s.freshId + 1 } (.satom op t) wid fid
        (inFlight w s.freshId { Machine.Access.plain fid f.lanes with sdst := sd }) f)) ∧
  (∀ (op : AtomOp) (t : VMFmt), Whenever (.vatom op t) fun s wid fid w f => ∀ loc : Nat → Loc, TokenFree (.vatom op t) w →
    let n := if t.ty.isL then 8 else 4
    (∀ l, (w.act f t.guard).getLsbD l = true → Lands s w .at n ((mkIssue (.vatom op t) wid fid w f).ea t n l) (loc l)) →
    (∀ l m, (w.act f t.guard).getLsbD l = true → (w.act f t.guard).getLsbD m = true → l ≠ m → loc l ≠ loc m) →
    let r := (lanesOf (w.act f t.guard)).foldl (fun (acc : List (Nat × DWord) × State) l =>
      let q := performAtomic acc.2 (loc l) op t.ty (selVal w fid f t.ty 2 t.c l) (w.vval t.ty.isL t.d.toNat l)
      (acc.1 ++ [(l, q.1)], q.2)) ([], s)
    ∃ vd : Tbl Word,
      (∀ p ∈ r.1, Tbl.find vd (vkey t.d.toNat p.1) = some (p.2.setWidth 32) ∧
        (t.ty.isL = true → Tbl.find vd (vkey (t.d.toNat + 1) p.1) = some (p.2.extractLsb' 32 32))) ∧
      Machine.exec (.vatom op t) s = .next (goesOn { r.2 with freshId := s.freshId + 1 } (.vatom op t) wid fid
        (inFlight w s.freshId { Machine.Access.plain fid f.lanes with tok := (Instr.vatom op t).token, vdst := vd }) f)) ∧
  (∀ (s : State) (l : Loc) (op : AtomOp) (ty : VTy) (c old : DWord),
    performAtomic s l op ty c old =
      (BitVec.ofNat 64 (leNat (readLoc s l (atomBytes ty))),
       writeLoc s l (leBytes (atomBytes ty) (atomNew op ty (BitVec.ofNat 64 (leNat (readLoc s l (atomBytes ty)))) c old).toNat))) ∧
  (∀ m c old : DWord, m.toNat < 2 ^ 32 → c.toNat < 2 ^ 32 →
    (atomNew .add .n32 m c old).toNat = (m.toNat + c.toNat) % 2 ^ 32 ∧
    (atomNew .sub .n32 m c old).toNat = (m.toNat + (2 ^ 32 - c.toNat)) % 2 ^ 32 ∧
    (atomNew .min .n32 m c old).toNat = min m.toNat c.toNat ∧ (atomNew .max .n32 m c old).toNat = max m.toNat c.toNat ∧
    atomNew .and .n32 m c old = m &&& c ∧ atomNew .or .n32 m c old = m ||| c ∧ atomNew .xor .n32 m c old = m ^^^ c ∧
    atomNew .xchg .n32 m c old = c ∧ atomNew .cas .n32 m c old = if m = old then c else m)

/-- R160 steps 2 to 5, R53, R173, R174: `vld`, `vst`, `vgld`, `vgst` and `vatom` whose token is free park whole with PATH, or WSWR where no
lane's address is off its paths, then with ALIGN; they wait whole for absent scratchpad lines and stall in a refresh window; they park
with LOCKMISS; where every lane fails translation or rights with one cause they park whole with it, and otherwise split, the lanes
that fail taking no effect. Per-lane words hold the addresses at fault.

R160, R170, R172: the scalar accesses likewise, whole; and step 6: without a route the access faults PEER, and over the links the fragment
waits for its request. -/
def Obligations.AccessFaults : Prop :=
  (∀ i : Instr, Whenever i fun s wid fid w f => ∀ as, (mkIssue i wid fid w f).accesses = some as → TokenFree i w →
    let x := mkIssue i wid fid w f
    let k := i.memKind
    let first (bad : LAcc → Bool) (l : Nat) : Option LAcc := as.find? fun a => a.lane == l && bad a
    let parks (bad : LAcc → Bool) (c : Cause) : Prop := ∃ info fa,
      (∀ l a, l < 96 → first bad l = some a → Tbl.read 0 info l = a.addr.setWidth 32) ∧ Faults s i wid fid w f c 0 info fa
    let off (a : LAcc) : Bool := (pathCheck a.addr k).isSome
    let odd (a : LAcc) : Bool := a.addr.toNat % a.n != 0
    let miss (a : LAcc) : Bool := lockMiss s w.wg a.addr
    let ls := absentLines s w.wg (as.map fun a => (a.addr, a.n))
    ((∃ a ∈ as, pathCheck a.addr k = some .path) → parks off .path) ∧
    ((∀ a ∈ as, pathCheck a.addr k ≠ some .path) → (∃ a ∈ as, off a = true) → parks off .wswr) ∧
    ((∀ a ∈ as, off a = false) →
      ((∃ a ∈ as, odd a = true) → parks odd .align) ∧
      ((∀ a ∈ as, odd a = false) →
        (∀ n t, ls = n :: t → ∃ g : Frag, Machine.exec i s = .next (withFrag { s with freshId := s.freshId + 1 } wid fid w g) ∧
          g.waitsIn f .waiting .line (128 * n) ∧ g.wait.ids = ls) ∧
        (ls = [] → (∃ a ∈ as, inRefresh s a.addr = true) → Machine.exec i s = .next (withFrag s wid fid w { f with tokw := 0 })) ∧
        (ls = [] → (∀ a ∈ as, inRefresh s a.addr = false) →
          ((∃ a ∈ as, miss a = true) → parks miss .lockmiss) ∧
          (∀ loc : LAcc → Loc, (∀ a ∈ as, miss a = false) →
            (∀ a ∈ as, x.laneFault s as a.lane = none → resolve s x.who a.addr a.n k = .ok (loc a) ∧ (loc a).remote = false) →
            (∀ c, (∀ l, x.act.getLsbD l = true → ∃ a, x.laneFault s as l = some (c, a)) → ∃ info fa,
              (∀ l a, x.act.getLsbD l = true → x.laneFault s as l = some (c, a) → Tbl.read 0 info l = a.setWidth 32) ∧
              Faults s i wid fid w f c 0 info fa) ∧
            (∀ l m, x.act.getLsbD l = true → x.act.getLsbD m = true → x.laneFault s as l ≠ none →
              (x.laneFault s as l).map (·.1) ≠ (x.laneFault s as m).map (·.1) →
              ∃ (u : State) (w' : Warp) (ps : List Piece),
                Machine.exec i s = .next (settleIfRetired w.alive (x.split s u ps) wid) ∧
                (∀ l, (∃ p ∈ ps, p.fate = .done ∧ p.lanes.getLsbD l = true) ↔ x.act.getLsbD l = true ∧ x.laneFault s as l = none) ∧
                (∀ l c, (∃ p ∈ ps, p.lanes.getLsbD l = true ∧ ∃ info fa, p.fate = .fault c 0 info fa) ↔
                  x.act.getLsbD l = true ∧ ∃ a, x.laneFault s as l = some (c, a)) ∧
                (∀ p ∈ ps, ∀ info c fa l a, p.fate = .fault c 0 info fa → p.lanes.getLsbD l = true → x.laneFault s as l = some (c, a) →
                  Tbl.read 0 info l = a.setWidth 32) ∧
                ps.Pairwise (fun p q => p.lanes &&& q.lanes = 0 ∧ ¬ (p.fate = .done ∧ q.fate = .done) ∧
                  ∀ c i a i' a', p.fate = .fault c 0 i a → q.fate ≠ .fault c 0 i' a') ∧
                findFrag u wid fid = some (w', f) ∧ w'.sregs = w.sregs ∧ w'.vregs = w.vregs ∧
                (k = .st → StoredAt s u (as.filter fun a => (x.laneFault s as a.lane).isNone) loc x.storeData) ∧
                (k = .ld → u.hbm = s.hbm ∧ u.wgs = s.wgs ∧ ∀ n a, Tbl.find w'.access n = some a → Tbl.find w.access n = none →
                  ∀ r l, l < 96 → (x.laneFault s as l).isSome → Tbl.find a.vdst (vkey r l) = none))))))) ∧
  (∀ i : Instr, Whenever i fun s wid fid w f => ∀ a n, (mkIssue i wid fid w f).scalarAccess = some (a, n) →
    let x := mkIssue i wid fid w f
    let k := i.memKind
    let ls := absentLines s w.wg [(a, n)]
    let parks (c : Cause) : Prop := ∃ info,
      Tbl.read 0 info 0 = a.setWidth 32 ∧ Tbl.read 0 info 1 = a.extractLsb' 32 32 ∧ Faults s i wid fid w f c 0 info a
    (∀ c, pathCheck a k = some c → parks c) ∧
    (pathCheck a k = none → a.toNat % n ≠ 0 → parks .align) ∧
    (pathCheck a k = none → a.toNat % n = 0 →
      (∀ m t, ls = m :: t → ∃ g : Frag, Machine.exec i s = .next (withFrag { s with freshId := s.freshId + 1 } wid fid w g) ∧
        g.waitsIn f .waiting .line (128 * m) ∧ g.wait.ids = ls) ∧
      (ls = [] → inRefresh s a = true → Machine.exec i s = .next (withFrag s wid fid w { f with tokw := 0 })) ∧
      (ls = [] → inRefresh s a = false → lockMiss s w.wg a = true → parks .lockmiss) ∧
      (ls = [] → inRefresh s a = false → lockMiss s w.wg a = false →
        (∀ cc t, i = .swait cc t → waitPath a = true) →
        (∀ c, resolve s x.who a n k = .error c → parks c) ∧
        (∀ d o, resolve s x.who a n k = .ok (.peer d o) →
          (peerWay s w.ctx d = .noRoute → ∃ info,
            Tbl.read 0 info 0 = a.setWidth 32 ∧ Tbl.read 0 info 1 = a.extractLsb' 32 32 ∧
            Machine.exec i s =
              .next (settleIfRetired w.alive (takeTrap (unrouted s w.ctx d o) wid fid i .peer 0 (w.act f i.guard) info a false) wid)) ∧
          (peerWay s w.ctx d = .links → ∃ (t : State) (w' : Warp) (g : Frag) (q : Nat), Machine.exec i s = .next t ∧
            findFrag t wid fid = some (w', g) ∧ g.pc = f.pc ∧ g.wait.ids = [q] ∧ w'.sregs = w.sregs ∧
            (g.wkind = .peer ∧ g.st = f.st ∨ g.wkind = .swait ∧ g.st = .waiting))))))

/-- R172: `swait` reads its word; where the condition holds it writes the value to D and goes on, where it does not the fragment is
descheduled with the address, the value and a timeout of 1,024 × IMM14 cycles; a later read ends the wait likewise, and a timeout that has
run out gives D the last value read. -/
def Obligations.WaitsOnMemory : Prop :=
  (∀ (cc : WaitCc) (t : SFmt), Whenever (.swait cc t) fun s wid fid w f => ∀ l : Loc,
    let a := w.spair t.aReg
    let n := if t.ty.wide then 8 else 4
    let v : DWord := BitVec.ofNat 64 (leNat (readLoc s l n))
    Lands s w .ld n a l → waitPath a = true →
    (waitHolds cc t.ty v (w.sval t.ty.wide t.bReg) = true →
      Completes s (.swait cc t) wid fid w f (w.setSval f.lanes t.ty.wide t.d.toNat v)) ∧
    (waitHolds cc t.ty v (w.sval t.ty.wide t.bReg) = false → f.wait.again = 0 → ∃ g : Frag,
      Machine.exec (.swait cc t) s = .next (withFrag { s with freshId := s.freshId + 1 } wid fid w g) ∧
      g.st = .waiting ∧ g.wkind = .swait ∧ g.pc = f.pc ∧ g.wait.arg = a ∧ g.wait.last = some v ∧
      g.wait.left = if t.imm14 = 0 then none else some (1024 * t.imm14.toNat))) ∧
  (∀ (s : State) (x : Issue) (cc : WaitCc) (t : SFmt), waiterOf s .swait = some x → x.i = .swait cc t → x.f.wait.ids = [] →
    Machine.exec .swaitRecheck s = .next (readied (effSwait cc t s x) x.wid x.fid)) ∧
  (∀ (s : State) (x : Issue) (cc : WaitCc) (t : SFmt) (v : DWord), waiterOf s .swait = some x ∨ waiterOf s .line = some x → x.i = .swait cc t →
    s.net.reqs = [] → x.f.wait.left = some 0 → x.f.wait.last = some v →
    Machine.exec .swaitTimeout s =
      .next (readied (x.finish { s with freeCtr := s.freeCtr + 2 } (x.w.setSval x.f.lanes t.ty.wide t.d.toNat v)) x.wid x.fid)) ∧
  (∀ (v b : DWord) (ty : STy), waitHolds .eq ty v b = (v == b) ∧ waitHolds .ne ty v b = (v != b) ∧ waitHolds .andnz ty v b = (v &&& b != 0)) ∧
  (∀ v b : DWord, waitHolds .ge .n64 v b = decide (b.toNat ≤ v.toNat) ∧ waitHolds .lt .s64 v b = decide (v.toInt < b.toInt))

/-- R173, R328: `tlock` of nothing writes 0; of a range it locks the pages and writes their number, or writes all ones where a limit of
entries would be passed, or 0xFFFFFFFE where the workgroup holds eight regions, and locks nothing; `tunlock` gives the region up and
writes its locked entries, but leaves a region that was restored unlocked and writes 0. -/
def Obligations.LockedTranslations : Prop :=
  let onPath (a : DWord) : Prop := pathCheck a .ld = none ∧ (pathOf a = 0 ∨ pathOf a = 1 ∨ pathOf a = 6)
  (∀ t : SFmt, Whenever (.tlock t) fun s wid fid w f => ∀ g c,
    let a := w.spair t.aReg
    let n := (w.spair t.bReg).toNat
    let put (v : Word) : Warp := w.setSreg f.lanes t.d.toNat v
    Tbl.find s.wgs w.wg = some g → Tbl.find s.ctxs w.ctx = some c → onPath a →
    (n = 0 → Completes s (.tlock t) wid fid w f (put 0)) ∧
    (n ≠ 0 → 8 ≤ g.locks.length → Completes s (.tlock t) wid fid w f (put 0xFFFFFFFE)) ∧
    (n ≠ 0 → g.locks.length < 8 → ∀ ps, pagesOf s w.ctx 257 (offOf a) (offOf a + n) = (ps, none) →
      (256 < lockedIn s (tlbOf w.ctl w.core) none + ps.length ∨
        c.desc.lockcap < lockedIn s (tlbOf w.ctl w.core) (some w.ctx) + ps.length →
        Completes s (.tlock t) wid fid w f (put 0xFFFFFFFF)) ∧
      (lockedIn s (tlbOf w.ctl w.core) none + ps.length ≤ 256 →
        lockedIn s (tlbOf w.ctl w.core) (some w.ctx) + ps.length ≤ c.desc.lockcap →
        Machine.exec (.tlock t) s = .next (settleIfRetired w.alive (goesOn
          { s with wgs := Tbl.put s.wgs w.wg { g with locks := g.locks ++ [{ base := a, len := n, pages := ps }] } }
          (.tlock t) wid fid (put (BitVec.ofNat 32 ps.length)) f) wid)))) ∧
  (∀ t : SFmt, Whenever (.tunlock t) fun s wid fid w f => ∀ g,
    let a := w.spair t.aReg
    let n := (w.spair t.bReg).toNat
    Tbl.find s.wgs w.wg = some g → onPath a →
    ((∀ r ∈ g.locks, r.base ≠ a ∨ r.len ≠ n) → Completes s (.tunlock t) wid fid w f (w.setSreg f.lanes t.d.toNat 0)) ∧
    (∀ r, g.locks.find? (fun r => r.base == a && r.len == n) = some r → (∀ p ∈ r.pages, p.2.2 = .lost) →
      Completes s (.tunlock t) wid fid w f (w.setSreg f.lanes t.d.toNat 0)) ∧
    (∀ r, g.locks.find? (fun r => r.base == a && r.len == n) = some r → (∃ p ∈ r.pages, p.2.2 ≠ .lost) →
      Machine.exec (.tunlock t) s = .next (settleIfRetired w.alive (goesOn
        { s with wgs := Tbl.put s.wgs w.wg { g with locks := g.locks.erase r } }
        (.tunlock t) wid fid (w.setSreg f.lanes t.d.toNat (BitVec.ofNat 32 (r.pages.filter fun p => p.2.2 == .locked).length)) f) wid)))

/-! ## Barrier objects, copies, barriers -/

/-- R180 to R182, Tables 07.7 and 07.8: what an update leaves in an object; `binit`, `barr`, `bexp` and `btest` where nobody waits on the
object, `bwait` while its phase stands and after it has moved, and a waiter whose phase an update moves; the error of a copy that credited
the object goes to whoever waits on it or tests it first (R179). Offsets off a multiple of 16
fault ALIGN, and beyond the scratchpad PROT.

R183, R184: a slot at or above the launch's count traps ILL. In a workgroup of one warp of one fragment, the barrier releases at once;
where another warp of the workgroup has not arrived, the fragment waits at the slot. -/
def Obligations.Barriers : Prop :=
  ((∀ (s : State) (wg o : Nat) (d : Int) (g : Wg), Tbl.find s.wgs wg = some g →
    let t := objUpdate s wg o d
    let c := max (-(2 ^ 31)) (min (2 ^ 31 - 1) (toI true 32 (wordAt s wg o) + d))
    (c ≤ 0 → wordAt t wg o = wordAt s wg (o + 4) ∧ wordAt t wg (o + 8) = (wordAt s wg (o + 8) + 1) % 2 ^ 32) ∧
    (0 < c → (wordAt t wg o : Int) = c ∧ wordAt t wg (o + 8) = wordAt s wg (o + 8)) ∧
    wordAt t wg (o + 4) = wordAt s wg (o + 4) ∧ wordAt t wg (o + 12) = wordAt s wg (o + 12) ∧
    (∀ p : Loc, (∀ k, k < 16 → p ≠ .scratch wg (o + k)) → readLoc t p 1 = readLoc s p 1) ∧ t.warps = s.warps) ∧
  (∀ c ∈ ([.binit, .barr, .bexp, .bwait, .btest] : List (VFmt → Instr)), ∀ t : VFmt, Whenever (c t) fun s wid fid w f =>
    let o := (selInt w fid f 0 t.a 0).toNat
    (o % 16 ≠ 0 → ∃ info a, Faults s (c t) wid fid w f .align 0 info a) ∧
    (o % 16 = 0 → scratchBytes s (some w.wg) < o + 16 → ∃ info a, Faults s (c t) wid fid w f .prot 0 info a)) ∧
  (∀ t : VFmt, Whenever (.binit t) fun s wid fid w f =>
    let o := (selInt w fid f 0 t.a 0).toNat
    o % 16 = 0 → o + 16 ≤ scratchBytes s (some w.wg) → bwaiters s w.wg o = [] → ∃ u,
      Machine.exec (.binit t) s = .next (goesOn u (.binit t) wid fid w f) ∧ u.warps = s.warps ∧
      wordAt u w.wg o = (selInt w fid f 1 t.b (lowLane (w.act f t.guard))).toNat ∧
      wordAt u w.wg (o + 4) = (selInt w fid f 2 t.c (lowLane (w.act f t.guard))).toNat ∧ wordAt u w.wg (o + 8) = 0 ∧
      wordAt u w.wg (o + 12) = wordAt s w.wg (o + 12) / 2 * 2 ∧
      (∀ p : Loc, (∀ k, k < 16 → p ≠ .scratch w.wg (o + k)) → readLoc u p 1 = readLoc s p 1)) ∧
  (∀ r ∈ ([(.barr, -1), (.bexp, 1)] : List ((VFmt → Instr) × Int)), ∀ t : VFmt, Whenever (r.1 t) fun s wid fid w f =>
    let o := (selInt w fid f 0 t.a 0).toNat
    o % 16 = 0 → o + 16 ≤ scratchBytes s (some w.wg) → bwaiters s w.wg o = [] → Machine.exec (r.1 t) s =
      .next (goesOn (objUpdate s w.wg o (r.2 * (selInt w fid f 1 t.b (lowLane (w.act f t.guard))).toInt)) (r.1 t) wid fid w f)) ∧
  (∀ t : VFmt, Whenever (.btest t) fun s wid fid w f =>
    let o := (selInt w fid f 0 t.a 0).toNat
    o % 16 = 0 → o + 16 ≤ scratchBytes s (some w.wg) →
    (∀ own e, objError s w.wg o = some (own, e) → Machine.exec (.btest t) s =
      .next (settleIfRetired w.alive ((mkIssue (.btest t) wid fid w f).deliverOf s own e) wid)) ∧
    (objError s w.wg o = none →
      let p := BitVec.ofNat 32 (wordAt s w.wg (o + 8))
      Completes s (.btest t) wid fid w f (({ w with phases := Tbl.put w.phases o p } : Warp).setSreg f.lanes t.d.toNat p))) ∧
  (∀ t : VFmt, Whenever (.bwait t) fun s wid fid w f =>
    let o := (selInt w fid f 0 t.a 0).toNat
    let p := (selInt w fid f 1 t.b (lowLane (w.act f t.guard))).toNat
    o % 16 = 0 → o + 16 ≤ scratchBytes s (some w.wg) →
    (∀ own e, wordAt s w.wg (o + 8) ≠ p → objError s w.wg o = some (own, e) → Machine.exec (.bwait t) s =
      .next (settleIfRetired w.alive ((mkIssue (.bwait t) wid fid w f).deliverOf s own e) wid)) ∧
    (wordAt s w.wg (o + 8) ≠ p → objError s w.wg o = none →
      Completes s (.bwait t) wid fid w f { w with phases := Tbl.put w.phases o (BitVec.ofNat 32 (wordAt s w.wg (o + 8))) }) ∧
    (wordAt s w.wg (o + 8) = p → ∃ g : Frag, g.waitsIn f .waiting .bwait o ∧ g.wait.arg = BitVec.ofNat 64 p ∧
      Machine.exec (.bwait t) s = .next (withFrag { s with freshId := s.freshId + 1 } wid fid w g))) ∧
  (∀ (s : State) (wid fid o : Nat) (x : Issue) (t : VFmt), bwaiters s x.w.wg o = [(wid, fid)] → issueAt s wid fid = some x →
    x.i = .bwait t → (selInt x.w x.fid x.f 0 t.a 0).toNat = o → o % 16 = 0 → o + 16 ≤ scratchBytes s (some x.w.wg) →
    (selInt x.w x.fid x.f 1 t.b (lowLane x.act)).setWidth 64 = x.f.wait.arg → objError s x.w.wg o = none →
    (wordAt s x.w.wg (o + 8) = x.f.wait.arg.toNat → wakeObject s x.w.wg o = s) ∧
    (wordAt s x.w.wg (o + 8) ≠ x.f.wait.arg.toNat → ∃ w' f', findFrag (wakeObject s x.w.wg o) wid fid = some (w', f') ∧
      f'.st = .ready ∧ f'.pc = x.nextPc ∧ f'.reach = 0 ∧ w'.sregs = x.w.sregs ∧ w'.vregs = x.w.vregs)) ∧
  (∀ (s : State) (wg o : Nat) (g : Wg), Tbl.find s.wgs wg = some g →
    (∀ k ∈ g.warps, ∀ v, Tbl.find s.warps k = some v → ∀ e ∈ v.errs, e.obj ≠ some o) → objError s wg o = none)) ∧
  (∀ r ∈ ([(.bar, .bar), (.barcl, .barcl)] : List ((CFmt → Instr) × WKind)), ∀ (c : CFmt) (s : State) (wid fid : Nat) (w : Warp) (f : Frag)
    (g : Wg), Executes s (r.1 c) wid fid w f → Tbl.find s.wgs w.wg = some g →
    let n := c.imm.toNat
    (g.slots ≤ n → Faults s (r.1 c) wid fid w f .ill 0 [] 0) ∧
    (n < g.slots → n < 16 → g.warps = [wid] → cgWarps s g.cg = [wid] → w.frags = [(fid, f)] → w.ended = false → graphOf s w = none →
      f.lanes &&& w.alive = f.lanes → f.lanes ≠ 0 →
      ∃ u f', Machine.exec (r.1 c) s = .next u ∧ findFrag u wid fid = some ({ w with frags := [(fid, f')] }, f') ∧ f'.st = .ready ∧
        f'.pc = f.pc + 4 ∧ f'.reach = 0 ∧ f'.lanes = f.lanes ∧ f'.s = f.s ∧ u.hbm = s.hbm ∧ u.ctxs = s.ctxs ∧ u.launches = s.launches) ∧
    (n < g.slots → n < 16 → w.frags = [(fid, f)] → w.ended = false → graphOf s w = none → vacqWaiters s g = [] →
      f.lanes &&& w.alive = f.lanes → f.lanes ≠ 0 → wid ∈ g.warps → wid ∈ cgWarps s g.cg → (∃ k v, k ∈ g.warps ∧ k ∈ cgWarps s g.cg ∧ k ≠ wid ∧
        Tbl.find s.warps k = some v ∧ v.ended = false ∧ ∃ p ∈ v.frags, p.2.st ≠ .waiting) →
      ∃ u w' f', Machine.exec (r.1 c) s = .next u ∧ findFrag u wid fid = some (w', f') ∧ f'.waitsIn f .waiting r.2 n ∧ f'.reach = 0 ∧
        w'.sregs = w.sregs ∧ w'.vregs = w.vregs))

/-- R175 to R179: an `xcopy` whose checks pass is in flight with its token busy and its destination lines absent, stalls where the core has
48 in flight, or a control core 8, and parks whole where a check fails; a COPY_CHUNK moves its bytes in order and credits the barrier object, COPY_COMPLETE
frees the token, and a row outside R56 ends the copy in error. -/
def Obligations.CopyEngine : Prop :=
  (∀ t : VFmt, Whenever (.xcopy t) fun s wid fid w f =>
    let o := (selInt w fid f 0 t.a 0).toNat
    let bs := readLoc s (.scratch w.wg o) 64
    let n (k b : Nat) : Nat := leNat ((bs.drop k).take b)
    let k := t.x.toNat % 16
    let x := mkIssue (.xcopy t) wid fid w f
    let c := parseCopy w wid k (scratchAddr o) bs
    (o % 16 ≠ 0 → ∃ info a, Faults s (.xcopy t) wid fid w f .align 0 info a) ∧
    (o % 16 = 0 → scratchBytes s (some w.wg) < o + 64 → ∃ info a, Faults s (.xcopy t) wid fid w f .prot 0 info a) ∧
    (o % 16 = 0 → o + 64 ≤ scratchBytes s (some w.wg) → absentLines s w.wg [(scratchAddr o, 64)] = [] →
      (∀ q sub a, copyFault s x c bs = some (q, sub, a) → ∃ info, Faults s (.xcopy t) wid fid w f q sub info a) ∧
      (3 < n 0 4 % 16 ∨ n 0 4 / 2 ^ 12 ≠ 0 ∨ n 24 4 = 0 ∨ n 24 4 % 2 ^ (n 0 4 / 2 ^ 9 % 8) ≠ 0 →
        ∃ info a, Faults s (.xcopy t) wid fid w f .ill 1 info a) ∧
      (n 0 4 = 3 → n 8 8 = 0 → n 16 8 + n 24 4 ≤ 2 ^ 57 → n 24 4 ≠ 0 → n 28 4 = 0 → n 32 8 = 0 → n 40 8 = 0 → n 48 8 = 0 → n 56 8 = 0 →
        copyFault s x c bs = none) ∧
      (copyFault s x c bs = none → n 56 8 = 0 → w.tokBusy k = false →
        (copiesOn s w.ctl w.core < (if w.ctl then 8 else 48) → ∃ u c', Machine.exec (.xcopy t) s =
            .next (goesOn { u with copies := Tbl.put s.copies s.freshId c' } (.xcopy t) wid fid (w.tokAdd k) f) ∧
          u = holdLines { s with freshId := s.freshId + 1 } w.wg c'.lines ∧ c' = { c with id := s.freshId, lines := c'.lines } ∧
          (∀ a b, (a, b) ∈ c.dstRuns 0 → pathOf a = 2 → b ≠ 0 → offOf a / 128 ∈ c'.lines ∧ (offOf a + b - 1) / 128 ∈ c'.lines)) ∧
        ((if w.ctl then 8 else 48) ≤ copiesOn s w.ctl w.core → ∃ g : Frag, g.waitsIn f .stalled .copySlots 0 ∧
          Machine.exec (.xcopy t) s = .next (withFrag { s with freshId := s.freshId + 1 } wid fid w g))))) ∧
  (∀ (s : State) (wg l : Nat) (ls : List Nat) (g : Wg), Tbl.find s.wgs wg = some g → l ∈ ls →
    ∃ g', Tbl.find (holdLines s wg ls).wgs wg = some g' ∧ (Tbl.find g'.absent l).isSome = true) ∧
  (∀ (s : State) (c : Copy), Tbl.find s.copies s.ev.a = some c → c.active = true → ctxHalted s c.ctx 4200 = false → copySpent s c = false →
    let n := if s.ev.b = 0 ∨ 4096 < s.ev.b then 4096 else s.ev.b
    let m := c.cut c.done n - c.done
    let byte (k : Nat) : List Byte := match Tbl.find c.ahead k with
      | some b => [b]
      | none => if c.kind = 3 then [BitVec.ofNat 8 (c.fill.toNat / 2 ^ (8 * (k % c.dim0 % 2 ^ c.esize)))]
        else [(agedLoc s (c.start s) 0 (.weights (offOf (c.srcAt k))) 1).headD 0]
    let dest (k : Nat) : Loc := .scratch c.wg (offOf (c.dstAt k))
    (c.kind = 3 ∨ (c.kind = 0 ∧ ∀ k, c.done ≤ k → k < c.done + m → pathOf (c.srcAt k) = 3 ∧ pathCheck (c.srcAt k) .ld = none ∧
      inRefresh s (c.srcAt k) = false ∧ resolve s c.who (c.srcAt k) 1 .ld = .ok (.weights (offOf (c.srcAt k))))) →
    (∀ k, c.done ≤ k → k < c.done + m → pathOf (c.dstAt k) = 2 ∧ pathCheck (c.dstAt k) .st = none ∧
      offOf (c.dstAt k) < scratchBytes s (some c.wg)) →
    (∀ j k, c.done ≤ j → j < k → k < c.done + m → offOf (c.dstAt j) ≠ offOf (c.dstAt k)) → c.chain = none → c.done < c.total →
    ∃ u c', 0 < m ∧ c.done + m ≤ c.total ∧ (c.edge (c.done + n) = true → c.done + n ≤ c.total → m = n) ∧ Machine.exec .copyChunk s = .next u ∧ Tbl.find u.copies s.ev.a = some c' ∧ c'.done = c.done + m ∧
      (c'.landed = true ↔ c.total ≤ c.done + m) ∧
      (c.barv = false → (∀ k, c.done ≤ k → k < c.done + m → readLoc u (dest k) 1 = byte k) ∧
        ∀ p : Loc, (∀ k, c.done ≤ k → k < c.done + m → p ≠ dest k) → readLoc u p 1 = readLoc s p 1) ∧
      (c.barv = true → c.credited = c.done → bwaiters s c.wg c.baroff = [] →
        (∀ j k, c.done ≤ k → k < c.done + m → j < 16 → c.baroff + j ≠ offOf (c.dstAt k)) →
        (m : Int) < toI true 32 (wordAt s c.wg c.baroff) →
          (wordAt u c.wg c.baroff : Int) = toI true 32 (wordAt s c.wg c.baroff) - m ∧
          wordAt u c.wg (c.baroff + 8) = wordAt s c.wg (c.baroff + 8))) ∧
  (∀ (s : State) (c : Copy) (w : Warp), Tbl.find s.copies s.ev.a = some c → Tbl.find s.warps c.warp = some w → w.ended = false →
    c.landed = true → c.resid = .resident → ctxHalted s c.ctx 4200 = false → (∀ p ∈ s.mops, p.2.copy ≠ some s.ev.a) →
    ∃ u w', Machine.exec .copyComplete s = .next u ∧ Tbl.find u.copies s.ev.a = none ∧ Tbl.find u.warps c.warp = some w' ∧
      Tbl.read 0 w'.tokens c.tok = Tbl.read 0 w.tokens c.tok - 1 ∧ w'.sregs = w.sregs ∧ w'.vregs = w.vregs ∧ u.hbm = s.hbm) ∧
  (∀ (s : State) (c : Copy) (w : Warp) (a : DWord), Tbl.find s.copies s.ev.a = some c → c.active = true → ctxHalted s c.ctx 4200 = false →
    copySpent s c = false → c.kind = 1 → c.done < c.total → Tbl.find c.ahead c.done = none →
    sourceAt s c c.done = .ok a → pathCheck a .ld = some .path →
    Tbl.find s.warps c.warp = some w → w.ended = false → c.barv = false →
    ∃ u w' e, Machine.exec .copyChunk s = .next u ∧ Tbl.find u.copies s.ev.a = none ∧ Tbl.find u.warps c.warp = some w' ∧
      w'.errs = w.errs ++ [e] ∧ e.tok = c.tok ∧ e.cause = .path ∧ e.sub = 1 ∧ e.addr = a ∧ u.hbm = s.hbm)

/-! ## Tiles and matrix operations -/

/-- R189 to R194: what `tcfg`, `tzero`, `vtot`, `ttov` and `ttr` write, every other byte of the tiles and every other register as it was.

R188: a warp-wide instruction whose active lanes are not all alive lanes of the warp parks whole with MPART; then an accumulator tile
at or above the count is ACCX, a tile at or above it TILE. -/
def Obligations.TileContents : Prop :=
  ((∀ t : SFmt, Whenever (.tcfg t) fun s wid fid w f =>
    let i := t.imm23.toNat
    let v : Word := if t.isImm then BitVec.ofNat 32 (i / 2 ^ 21 * 2 ^ 30 + (i / 2 ^ 15 % 64 + 1) * 2 ^ 16 + i % 2 ^ 15) else w.sreg t.aReg
    Completes s (.tcfg t) wid fid w f { w with pcr := { w.pcr with tsh := Tbl.write 0 w.pcr.tsh (t.d.toNat % 16) v } }) ∧
  (∀ t : VFmt, Whenever (.tzero t) fun s wid fid w f =>
    let k := t.x.toNat % 16
    w.act f t.guard = w.alive → k < w.tiles → BoardFree s wid w → ∃ m : Tbl Byte, Completes s (.tzero t) wid fid w f { w with tile := m } ∧
      ∀ a o, o < 16384 → Tbl.read 0 m (16384 * a + o) = if a = k then 0 else w.tbyte a o) ∧
  (∀ (t : VFmt) (r : BitVec 11), t.a = .vreg r → Whenever (.vtot t) fun s wid fid w f =>
    let k := t.x.toNat % 16
    let n := t.y.toNat % 64 + 1
    let c := (selInt w fid f 1 t.b 0).toNat
    w.act f t.guard = w.alive → k < w.tiles → r.toNat + n ≤ w.top → BoardFree s wid w →
    (mkIssue (.vtot t) wid fid w f).rowError allLanes [(r.toNat, n)] = none →
      ∃ m : Tbl Byte, Completes s (.vtot t) wid fid w f { w with tile := m } ∧
      ∀ a o, o < 16384 → Tbl.read 0 m (16384 * a + o) =
        if a = k ∧ 384 * c ≤ o ∧ o < 384 * (c + n) then (w.vreg (r.toNat + (o / 384 - c)) (o % 384 / 4)).extractLsb' (8 * (o % 4)) 8
        else w.tbyte a o) ∧
  (∀ t : VFmt, Whenever (.ttov t) fun s wid fid w f =>
    let k := t.x.toNat % 16
    let n := t.y.toNat % 64 + 1
    let c := (selInt w fid f 1 t.b 0).toNat
    w.act f t.guard = w.alive → k < w.tiles → t.d.toNat + n ≤ w.top → BoardFree s wid w →
    (mkIssue (.ttov t) wid fid w f).rowError allLanes [(t.d.toNat, n)] = none → ∃ v : Tbl Word,
      Completes s (.ttov t) wid fid w f { w with vregs := v } ∧
      ∀ q l, l < 96 → ({ w with vregs := v } : Warp).vreg q l =
        if t.d.toNat ≤ q ∧ q < t.d.toNat + n then
          (let b := 384 * (c + (q - t.d.toNat)) + 4 * l
           if b < 16384 then w.tbyte k (b + 3) ++ w.tbyte k (b + 2) ++ w.tbyte k (b + 1) ++ w.tbyte k b else 0)
        else w.vreg q l) ∧
  (∀ t : VFmt, Whenever (.ttr t) fun s wid fid w f => ∀ h g : TShape,
    let k := t.x.toNat % 16
    let src := t.x.toNat / 16
    w.act f t.guard = w.alive → w.tileShape k = some h → w.tileShape src = some g →
    (¬ (h.rows = g.cols ∧ h.cols = g.rows ∧ h.ew = g.ew) → Faults s (.ttr t) wid fid w f .tile 0 [] 0) ∧
    (h.rows = g.cols → h.cols = g.rows → h.ew = g.ew → BoardFree s wid w → ∃ m : Tbl Byte,
      Completes s (.ttr t) wid fid w f { w with tile := m } ∧
      (∀ i j, i < h.rows → j < h.cols → ({ w with tile := m } : Warp).telem k h.ew i j = w.telem src h.ew j i) ∧
      (∀ r b, r < 64 → b < 256 → h.rows ≤ r ∨ h.rowBytes ≤ b → Tbl.read 0 m (16384 * k + (256 * r + b)) = 0) ∧
      (∀ a o, a ≠ k → o < 16384 → Tbl.read 0 m (16384 * a + o) = w.tbyte a o)))) ∧
  ((∀ c ∈ ([.tld, .tst, .tzero, .vtot, .ttov, .ttr, .mma, .mmaz, .mmax, .mmaxz, .czero, .cst, .cld, .ctov, .crel] : List (VFmt → Instr)),
   ∀ t : VFmt, Whenever (c t) fun s wid fid w f => w.act f t.guard ≠ w.alive → Faults s (c t) wid fid w f .mpart 0 [] 0) ∧
  (∀ c ∈ ([.mma, .mmaz, .mmax, .mmaxz, .czero, .cst, .cld, .ctov, .crel] : List (VFmt → Instr)), ∀ t : VFmt, Whenever (c t) fun s wid fid w f =>
    w.act f t.guard = w.alive → w.accs ≤ t.x.toNat % 64 → Faults s (c t) wid fid w f .accx 0 [] 0) ∧
  (∀ c ∈ ([.tld, .tst, .tzero, .vtot, .ttov, .ttr] : List (VFmt → Instr)), ∀ t : VFmt, Whenever (c t) fun s wid fid w f =>
    w.act f t.guard = w.alive → w.tiles ≤ t.x.toNat % 16 → Faults s (c t) wid fid w f .tile 0 [] 0) ∧
  (∀ c ∈ ([.tld, .tst] : List (VFmt → Instr)), ∀ t : VFmt, Whenever (c t) fun s wid fid w f =>
    w.act f t.guard = w.alive → shapeOf (Tbl.read 0 w.pcr.tsh (t.x.toNat % 16)) = none → Faults s (c t) wid fid w f .tile 0 [] 0) ∧
  (∀ v : Word, ∀ h, shapeOf v = some h → 1 ≤ h.rows ∧ h.rows ≤ 64 ∧ 1 ≤ h.cols ∧ h.rowBytes ≤ 256 ∧ h.rows = v.toNat / 2 ^ 16 % 256 ∧
    h.cols = v.toNat % 2 ^ 16 ∧ h.ew = 4 * 2 ^ (v.toNat / 2 ^ 30)))

/-- R191, R187: `tld` puts the bytes of each row in flight to its tile, `tst` stores the bytes of each row and nothing else; both hold their
token and the tile until they have landed. -/
def Obligations.TileLoadsAndStores : Prop :=
  (∀ (t : VFmt) (n : BitVec 9), t.a = .sreg n → Whenever (.tld t) fun s wid fid w f => ∀ (h : TShape) (loc : Nat → Nat → Loc),
    let k := t.x.toNat % 16
    let base := w.sreg (n.toNat + 1) ++ w.sreg n.toNat
    let stride := selInt w fid f 1 t.b 0
    let at' (r j : Nat) : DWord := base + stride.signExtend 64 * BitVec.ofNat 64 r + BitVec.ofNat 64 (4 * j)
    let size (j : Nat) : Nat := min 4 (h.rowBytes - 4 * j)
    w.act f t.guard = w.alive → w.tileShape k = some h → BoardFree s wid w → w.tokBusy (t.y.toNat % 16) = false →
    base.toNat % 4 = 0 → stride.toNat % 4 = 0 →
    (∀ r j, r < h.rows → 4 * j < h.rowBytes → Reaches s w .ld (size j) (at' r j) (loc r j)) → ∃ d : Tbl Byte,
      Machine.exec (.tld t) s = .next (goesOn { s with freshId := s.freshId + 1 } (.tld t) wid fid
        (inFlight w s.freshId { Machine.Access.plain fid f.lanes with tok := some (t.y.toNat % 16), tiles := [k], tdst := d }) f) ∧
      ∀ r b, r < h.rows → b < h.rowBytes →
        Tbl.find d (16384 * k + (256 * r + b)) =
          ((mkIssue (.tld t) wid fid w f).readAt s base 0 (loc r (b / 4)) (size (b / 4)))[b % 4]?) ∧
  (∀ (t : VFmt) (n : BitVec 9), t.a = .sreg n → Whenever (.tst t) fun s wid fid w f => ∀ (h : TShape) (loc : LAcc → Loc),
    let k := t.x.toNat % 16
    let base := w.sreg (n.toNat + 1) ++ w.sreg n.toNat
    let stride := selInt w fid f 1 t.b 0
    let as : List LAcc := (List.range h.rows).flatMap fun r => (List.range ((h.rowBytes + 3) / 4)).map fun j =>
      { lane := r, elem := j, addr := base + stride.signExtend 64 * BitVec.ofNat 64 r + BitVec.ofNat 64 (4 * j),
        n := min 4 (h.rowBytes - 4 * j) }
    w.act f t.guard = w.alive → w.tileShape k = some h → BoardFree s wid w → w.tokBusy (t.y.toNat % 16) = false →
    base.toNat % 4 = 0 → stride.toNat % 4 = 0 →
    (∀ a ∈ as, pathCheck a.addr .st = none ∧ inRefresh s a.addr = false ∧ lockMiss s w.wg a.addr = false ∧
      resolve s { ctx := w.ctx, wg := some w.wg } a.addr a.n .st = .ok (loc a) ∧ (loc a).remote = false) →
    ∃ u w', Machine.exec (.tst t) s = .next u ∧ findFrag u wid fid = some (w', f.retire (.tst t) (afterPc (.tst t) f) false) ∧
      w'.sregs = w.sregs ∧ w'.vregs = w.vregs ∧ w'.tile = w.tile ∧ w'.tokBusy (t.y.toNat % 16) = true ∧
      StoredAt s u as loc fun a => (List.range a.n).map fun i => w.tbyte k (256 * a.lane + 4 * a.elem + i))

/-- R199 to R203: `czero` and `crel` clear an accumulator tile and set its live bit; `ctov` copies its words to registers of every lane;
`cst` stores a region of it in the element type and nothing else and traps ILL on an ACT or BIAS that its type does not allow, and `cld` puts a region in flight to it. -/
def Obligations.AccumulatorMoves : Prop :=
  (∀ r ∈ ([(.czero, true), (.crel, false)] : List ((VFmt → Instr) × Bool)), ∀ t : VFmt, Whenever (r.1 t) fun s wid fid w f =>
    let c := t.x.toNat % 64
    w.act f t.guard = w.alive → c < w.accs → BoardFree s wid w → ∃ (m : Tbl Word) (v : BitVec 48),
      Completes s (r.1 t) wid fid w f { w with acc := m, live := v } ∧
      (∀ a k, k < 4096 → Tbl.read 0 m (4096 * a + k) = if a = c then 0 else w.aword a k) ∧
      (∀ b, b < 48 → v.getLsbD b = if b = c then r.2 else w.live.getLsbD b)) ∧
  (∀ t : VFmt, Whenever (.ctov t) fun s wid fid w f =>
    let c := t.x.toNat % 64
    let n := t.y.toNat % 64 + 1
    let k := (selInt w fid f 1 t.b 0).toNat
    w.act f t.guard = w.alive → c < w.accs → BoardFree s wid w →
    (w.top < t.d.toNat + n → Faults s (.ctov t) wid fid w f .regx 0 [] 0) ∧
    (t.d.toNat + n ≤ w.top → (mkIssue (.ctov t) wid fid w f).rowError allLanes [(t.d.toNat, n)] = none →
      ∃ v : Tbl Word, Completes s (.ctov t) wid fid w f { w with vregs := v } ∧
      ∀ q l, l < 96 → ({ w with vregs := v } : Warp).vreg q l =
        if t.d.toNat ≤ q ∧ q < t.d.toNat + n then
          (let i := 96 * (k + (q - t.d.toNat)) + l
           if i < 4096 then w.aword c i else 0)
        else w.vreg q l)) ∧
  (∀ (t : VFmt) (r : BitVec 9), t.b = .sreg r → Whenever (.cst t) fun s wid fid w f => ∀ loc : LAcc → Loc,
    let c := t.x.toNat % 64
    let v := (w.sreg r.toNat).toNat
    let n := v / 2 ^ 22 % 64 + 1
    let m := v / 2 ^ 16 % 64 + 1
    let stride := v % 2 ^ 16
    let fn := v / 2 ^ 28 % 8
    let act := t.y.toNat / 16 % 4
    let off := (selInt w fid f 0 t.a 0).toNat
    let size := cstBytes t.ty
    let as : List LAcc := (List.range m).flatMap fun i => (List.range n).map fun j => { lane := i, elem := j, addr := 0, n := size }
    w.act f t.guard = w.alive → c < w.accs → BoardFree s wid w → act ≠ 3 → (t.ty = .s32 ∨ t.ty = .b32 → act = 0) →
    w.tokBusy (t.y.toNat % 16) = false → v < 2 ^ 31 → (act ≠ 2 → fn = 0) →
    off % 4 = 0 → stride % 4 = 0 → off + (m - 1) * stride + n * size ≤ scratchBytes s (some w.wg) → t.y.getLsbD 6 = false →
    (∀ a : LAcc, loc a = .scratch w.wg (off + a.lane * stride + a.elem * size)) →
    ∃ u w', Machine.exec (.cst t) s = .next u ∧ findFrag u wid fid = some (w', f.retire (.cst t) (afterPc (.cst t) f) false) ∧
      w'.sregs = w.sregs ∧ w'.vregs = w.vregs ∧ w'.acc = w.acc ∧ w'.tokBusy (t.y.toNat % 16) = true ∧
      StoredAt s u as loc fun a => leBytes size (
        let y := (w.aword c (64 * a.lane + a.elem)).toNat
        let z := if act = 1 then relu y else if act = 2 then profAct w.prof fn y else y
        if t.ty = .s32 ∨ t.ty = .b32 then y
        else if t.ty = .f32 then FF.f32.flush (w.pcr.mode.getLsbD 2) (FF.conv .f32 .f32 (vectorEnv w f t) z)
        else FF.conv .f32 t.ty.ff { vectorEnv w f t with ftz32 := false } z)) ∧
  (∀ t : VFmt, Whenever (.cst t) fun s wid fid w f => w.act f t.guard = w.alive → t.x.toNat % 64 < w.accs → BoardFree s wid w →
    t.y.toNat / 16 % 4 = 3 ∨ ((t.ty = .s32 ∨ t.ty = .b32) ∧ (t.y.toNat / 16 % 4 ≠ 0 ∨ t.y.getLsbD 6 = true)) → Faults s (.cst t) wid fid w f .ill 0 [] 0) ∧
  (∀ (t : VFmt) (r : BitVec 9), t.b = .sreg r → Whenever (.cld t) fun s wid fid w f =>
    let c := t.x.toNat % 64
    let v := (w.sreg r.toNat).toNat
    let n := v / 2 ^ 22 % 64 + 1
    let m := v / 2 ^ 16 % 64 + 1
    let stride := v % 2 ^ 16
    let off := (selInt w fid f 0 t.a 0).toNat
    w.act f t.guard = w.alive → c < w.accs → BoardFree s wid w → w.tokBusy (t.y.toNat % 16) = false → v < 2 ^ 28 → off % 4 = 0 →
    stride % 4 = 0 → off + (m - 1) * stride + n * 4 ≤ scratchBytes s (some w.wg) →
    (∀ i, i < m → absentLines s w.wg [(BitVec.ofNat 64 (2 * 2 ^ 60 + off + i * stride), n * 4)] = []) → ∃ d : Tbl Word,
      Machine.exec (.cld t) s = .next (goesOn { s with freshId := s.freshId + 1 } (.cld t) wid fid
        (inFlight w s.freshId { Machine.Access.plain fid f.lanes with tok := some (t.y.toNat % 16), accs := [c], adst := d }) f) ∧
      ∀ i j, i < m → j < n → Tbl.find d (4096 * c + 64 * i + j) = some (BitVec.ofNat 32 (wordAt s w.wg (off + i * stride + 4 * j))))

/-- R195 to R198, R206, R207: a matrix instruction whose shapes agree queues its operation with the shapes captured, and faults TILE where
they do not; the array starts one waiting operation, charging the budget units of R206 to the warp, and completes it.

R80, R81: one block adds its exact sum to the accumulator with one rounding to nearest; an INT8 block adds its exact sum and clamps; a
NaN accumulator stays; a NaN element or scale gives 0x7FC0_0000; and blocks are taken in ascending order. -/
def Obligations.MatrixOperations : Prop :=
  ((∀ r ∈ ([(.mma, 0), (.mmaz, 1), (.mmax, 2), (.mmaxz, 3)] : List ((VFmt → Instr) × Nat)), ∀ t : VFmt, Whenever (r.1 t) fun s wid fid w f =>
    let c := t.x.toNat % 64
    let ta := t.y.toNat % 16
    let tb := t.y.toNat / 16
    let xs : Nat × Nat := match t.b with
      | .vreg n => (n.toNat % 16, n.toNat / 16 % 16)
      | _ => (0, 0)
    w.act f t.guard = w.alive → c < w.accs →
    (mmaShapes t.ty (decide (2 ≤ r.2)) (w.tileShape ta) (w.tileShape tb) (w.tileShape xs.1) (w.tileShape xs.2) = false →
      Faults s (r.1 t) wid fid w f .tile 0 [] 0) ∧
    (∀ a b : TShape, w.tileShape ta = some a → w.tileShape tb = some b → a.cols = b.cols → a.ew = mmaWidth t.ty → b.ew = mmaWidth t.ty →
      a.cols % mmaBlock t.ty (decide (2 ≤ r.2)) = 0 →
      (2 ≤ r.2 → ∃ p q : TShape, w.tileShape xs.1 = some p ∧ w.tileShape xs.2 = some q ∧ p.ew = 8 ∧ q.ew = 8 ∧ p.rows = a.rows ∧
        q.rows = b.rows ∧ p.cols = a.cols / 32 ∧ q.cols = a.cols / 32) → BoardFree s wid w →
      let m : MOp :=
        { warp := wid, ctx := w.ctx, cls := w.cls, core := w.core, fn := r.2, ty := t.ty, acc := c, ta := ta, tb := tb, xa := xs.1, xb := xs.2,
          shA := w.tsh ta, shB := w.tsh tb, shXA := w.tsh xs.1, shXB := w.tsh xs.2, copy := none, order := s.freshId,
          queued := s.clock.clk.toNat, running := false }
      Machine.exec (r.1 t) s =
        .next (goesOn { s with freshId := s.freshId + 1, mops := Tbl.put s.mops s.freshId m } (r.1 t) wid fid w f))) ∧
  (∀ (s : State) (id : Nat) (m : MOp) (w : Warp), mopsOn s s.ev.a = [(id, m)] → groupsOn s s.ev.a = [] → Tbl.find s.mops id = some m →
    m.running = false → Tbl.find s.warps m.warp = some w → w.resid = .resident →
    (∀ c, Tbl.find s.ctxs m.ctx = some c → c.halted = none ∧ Tbl.read 0 c.desc.budget (8 * m.cls.index + 2) = 0xFFFFFFFF) → ∃ u w',
      Machine.exec .matrixOpStart s = .next u ∧ Tbl.find u.mops id = some { m with running := true } ∧ Tbl.find u.warps m.warp = some w' ∧
      w' = { w with pcr := { w.pcr with mbu := w.pcr.mbu + BitVec.ofNat 32 (
        let a := shapeOr m.shA
        let b := shapeOr m.shB
        let ones (t : Nat) (h : TShape) : Nat := ((List.range h.rows).map fun i => ((List.range h.cols).map fun j =>
          popcount h.ew (w.telem t h.ew i j)).sum).sum
        (1 + 15 * (ones m.ta a + ones m.tb b) / ((a.rows + b.rows) * a.cols * a.ew)) * ((a.cols + 7) / 8)) } }) ∧
  (∀ (s : State) (cs : List Cand) (c : Cand), pickCand s cs = some c → c ∈ cs ∧ ∀ d ∈ cs,
    let old (c : Cand) : Prop := c.queued < 2100 * (s.clock.clk.toNat / 2100)
    (old d → old c ∧ c.order ≤ d.order) ∧
    (¬ old c → Tbl.read 0 s.mbuReq c.req < Tbl.read 0 s.mbuReq d.req ∨
      (Tbl.read 0 s.mbuReq c.req = Tbl.read 0 s.mbuReq d.req ∧ c.order ≤ d.order))) ∧
  (∀ (s : State) (id : Nat) (m : MOp) (w : Warp), mopsOn s s.ev.a = [(id, m)] → m.running = true → Tbl.find s.warps m.warp = some w →
    (∀ c, Tbl.find s.ctxs m.ctx = some c → c.halted = none ∧ Tbl.read 0 c.desc.budget (8 * m.cls.index + 2) = 0xFFFFFFFF) → ∃ w', Machine.exec .matrixOpComplete s =
        .next { s with mops := Tbl.del s.mops id, warps := Tbl.put s.warps m.warp w' } ∧
      w' = { w with acc := w'.acc, live := w'.live } ∧ (m.acc < 48 → w'.live.getLsbD m.acc = true) ∧
      (∀ i j, i < (shapeOr m.shA).rows → j < (shapeOr m.shB).rows → (shapeOr m.shA).rows ≤ 64 → (shapeOr m.shB).rows ≤ 64 →
        w'.aword m.acc (64 * i + j) = BitVec.ofNat 32 (mmaElem m.ty (decide (2 ≤ m.fn)) (w.trow m.ta (shapeOr m.shA) i)
          (w.trow m.tb (shapeOr m.shB) j) (if 2 ≤ m.fn then w.trow m.xa (shapeOr m.shXA) i else [])
          (if 2 ≤ m.fn then w.trow m.xb (shapeOr m.shXB) j else [])
          (if m.fn % 2 = 1 then 0 else (w.aword m.acc (64 * i + j)).toNat))) ∧
      (∀ c k, c ≠ m.acc → k < 4096 → (shapeOr m.shA).rows ≤ 64 → (shapeOr m.shB).rows ≤ 64 → w'.aword c k = w.aword c k)) ∧
  (∀ s : State, Machine.exec .mbuPeriod s = .next (if s.clock.clk.toNat / 2100 = s.mbuEra then s
    else { s with mbuReq := [], mbuCap := [], mbuEra := s.clock.clk.toNat / 2100 }))) ∧
  ((∀ (acc : Nat) (fa fb : FF) (as bs : List Nat) (k : Int),
    let fin (ff : FF) (x : Nat) : Prop := ff.isNan x = false ∧ ff.isInf x = false
    let v : Rat := (FF.f32.dec acc).rat + ((as.zip bs).map fun p => (fa.dec p.1).rat * (fb.dec p.2).rat).sum * pow2 k
    fin .f32 acc → (∀ x ∈ as, fin fa x) → (∀ x ∈ bs, fin fb x) → v ≠ 0 →
      accBlock acc fa fb as bs (some k) = FF.f32.roundFin .rne false false (decide (v < 0)) (if v < 0 then -v else v)) ∧
  (∀ (acc : Nat) (fa fb : FF) (as bs : List Nat) (k : Option Int),
    (FF.f32.isNan acc = true → accBlock acc fa fb as bs k = acc) ∧
    (FF.f32.isNan acc = false → (∃ x ∈ as, fa.isNan x = true) ∨ (∃ x ∈ bs, fb.isNan x = true) ∨ k = none →
      accBlock acc fa fb as bs k = 0x7FC00000)) ∧
  (∀ (ty : VTy) (scaled : Bool) (a b xs ys : List Nat) (acc : Nat), ty.isFloat = true → a.length = mmaBlock ty scaled →
    b.length = mmaBlock ty scaled → mmaElem ty scaled a b xs ys acc = accBlock acc ty.ff ty.ff a b
      (if scaled then (e8m0 (xs.getD 0 0)).bind fun u => (e8m0 (ys.getD 0 0)).map fun v => u + v else some 0)) ∧
  (∀ (ty : VTy) (a b a' b' : List Nat) (acc : Nat), ty.isFloat = true → a.length = mmaBlock ty false → b.length = mmaBlock ty false →
    a'.length % mmaBlock ty false = 0 → b'.length = a'.length →
    mmaElem ty false (a ++ a') (b ++ b') [] [] acc = mmaElem ty false a' b' [] [] (accBlock acc ty.ff ty.ff a b (some 0))) ∧
  (∀ (ty : VTy) (a b : List Nat) (acc : Nat), ty = .s8x4 ∨ ty = .n8x4 → a.length = 8 → b.length = 8 → acc < 2 ^ 32 →
    toI true 32 (mmaElem ty false a b [] [] acc) = max (-(2 ^ 31)) (min (2 ^ 31 - 1)
      (toI true 32 acc + ((a.zip b).map fun p => toI ty.isSigned 8 p.1 * toI ty.isSigned 8 p.2).sum))))

/-! ## Neural calls -/

/-- R210, R212, R213: an `ncall` enters one row for each active lane into its cluster's sluice, under its context and handle, with its
inputs read at issue, and marks its results pending under its token; a handle past the table is DISP 2. An aged bin becomes one job in groups
of at most 64 rows that hold all its rows.

R82, R211, R213: the last layer of a group gives its outputs, each the activation of the scaled sum plus bias; a complete job writes each
row's outputs to its lane and frees the token with the last row; a group whose reads failed writes 0x7FC0_0000 and holds its error.

R215, R216: `wpin` raises the pin count of its handle in the cluster and writes the set's bytes, or pins nothing and writes all ones
where a limit would be passed; `wunpin` lowers the count and writes it, or writes all ones at 0; `wpref` changes nothing a program
observes; a handle past the table is DISP 2 in all three. -/
def Obligations.NeuralCalls : Prop :=
  (((∀ t : VFmt, Whenever (.ncall t) fun s wid fid w f => wsetOf s w.launch (selInt w fid f 1 t.b 0).toNat = none →
    Faults s (.ncall t) wid fid w f .disp 2 [] 0) ∧
  (∀ (t : VFmt) (a : BitVec 11), t.a = .vreg a → Whenever (.ncall t) fun s wid fid w f => ∀ ws : WSet,
    let h := (selInt w fid f 1 t.b 0).toNat
    let k := t.x.toNat % 16
    let key := 16 * clusterOf w.core
    wsetOf s w.launch h = some ws →
    (w.top < a.toNat + (ws.nin + 1) / 2 ∨ w.top < t.d.toNat + ws.outs → Faults s (.ncall t) wid fid w f .regx 0 [] 0) ∧
    (a.toNat + (ws.nin + 1) / 2 ≤ w.top → t.d.toNat + ws.outs ≤ w.top → w.access = [] → w.tokBusy k = false → s.bins = [] →
      (mkIssue (.ncall t) wid fid w f).rowError (w.act f t.guard) [(a.toNat, (ws.nin + 1) / 2), (t.d.toNat, ws.outs)] = none →
      (mkIssue (.ncall t) wid fid w f).rowsWait s = false →
      ∃ u w' q b, Machine.exec (.ncall t) s = .next u ∧
        findFrag u wid fid = some (w', f.retire (.ncall t) (afterPc (.ncall t) f) false) ∧
        w'.sregs = w.sregs ∧ w'.vregs = w.vregs ∧ w'.tokBusy k = true ∧ w'.access = [(s.freshId, q)] ∧ q.tok = some k ∧
        (∀ j l, j < ws.outs → (w.act f t.guard).getLsbD l = true → (Tbl.find q.vdst (vkey (t.d.toNat + j) l)).isSome = true) ∧
        u.bins = [(key, b)] ∧ b.ctx = w.ctx ∧ b.h = h ∧ b.rows.map (·.lane) = lanesOf (w.act f t.guard) ∧
        ∀ r ∈ b.rows, r.warp = wid ∧ r.access = s.freshId ∧ r.d = t.d.toNat ∧ r.tok = k ∧ r.prof = w.prof ∧ r.entered = s.clock.clk.toNat ∧
          r.nflush = w.pcr.nflush.toNat ∧ r.input.length = ws.nin ∧
          ∀ i, i < ws.nin → r.input[i]? = some ((w.vreg (a.toNat + i / 2) r.lane).toNat / 2 ^ (16 * (i % 2)) % 2 ^ 16))) ∧
  (∀ (s : State) (b : Bin), Tbl.find s.bins (16 * s.ev.a + s.ev.b) = some b →
    ((∀ r ∈ b.rows, s.clock.clk.toNat < r.entered + r.nflush) → Machine.exec .binAgeFlush s = .next s) ∧
    ((∃ r ∈ b.rows, r.entered + r.nflush ≤ s.clock.clk.toNat) → (∀ r ∈ b.rows, ∀ q ∈ b.rows, r.launch = q.launch) → b.rows.length ≤ 128 →
      ∃ u j, Machine.exec .binAgeFlush s = .next u ∧ Tbl.find u.bins (16 * s.ev.a + s.ev.b) = none ∧ Tbl.find u.jobs s.freshId = some j ∧
        j.ctx = b.ctx ∧ j.h = b.h ∧ j.groups.flatMap (·.rows) = b.rows ∧
        ∀ g ∈ j.groups, g.rows.length ≤ 64 ∧ g.layer = 0 ∧ g.h = g.rows.map (·.input) ∧ g.running = false ∧ g.out = none))) ∧
  ((∀ (w : WSet) (l : WLayer) (p : Tbl Word) (h : List Nat) (r : LRow), w.mxfp4 = false → h.length = 8 → r.w.length = 8 →
    layerOut w l p h r = layerAct p l.act (addCanon (mulCanon (accBlock 0 .f16 .e4m3 h r.w (some 0)) l.scale.toNat)
      (FF.conv .f16 .f32 .atomic r.bias))) ∧
  (∀ (p : Tbl Word) (y : Nat), layerAct p 0 y = y ∧
    (FF.f32.isNan y = true → layerAct p 1 y = y) ∧ (FF.f32.isNan y = false → layerAct p 1 y = if 2 ^ 31 ≤ y then 0 else y)) ∧
  (∀ (s : State) (id : Nat) (j : Job) (g : Group) (ws : WSet) (rs : List LRow), mopsOn s s.ev.a = [] → groupsOn s s.ev.a = [(id, j, g)] →
    Tbl.find s.jobs id = some j → j.groups = [g] → g.running = true → groupSet s j g = some ws → readLayer s j.ctx g.launch ws g.layer = .ok rs →
    g.layer + 1 = ws.layers.length → Machine.exec .matrixOpComplete s = .next { s with jobs := Tbl.put s.jobs id { j with groups :=
      [{ g with running := false, out := some ((g.rows.zip g.h).map fun p =>
          rs.map (layerOut ws (ws.layer g.layer) p.1.prof (p.2 ++ List.replicate (ws.kp g.layer - p.2.length) 0))) }] } }) ∧
  (∀ (s : State) (j : Job) (g : Group) (r : Row) (ys : List Nat) (w : Warp) (a : Access), Tbl.find s.jobs s.ev.a = some j →
    ctxHalted s j.ctx 2100 = false → j.groups = [g] → g.rows = [r] → Tbl.find s.warps r.warp = some w → w.ended = false →
    Tbl.find w.access r.access = some a → (∀ k, Tbl.find a.vdst k ≠ none ↔ ∃ i, i < ys.length ∧ k = vkey (r.d + i) r.lane) → r.lane < 96 →
    (g.out = some [ys] → g.err = none → ∃ u w', Machine.exec .sluiceJobComplete s = .next u ∧ Tbl.find u.jobs s.ev.a = none ∧
      Tbl.find u.warps r.warp = some w' ∧ Tbl.find w'.access r.access = none ∧
      Tbl.read 0 w'.tokens r.tok = Tbl.read 0 w.tokens r.tok - 1 ∧ w'.sregs = w.sregs ∧
      ∀ q l, l < 96 → w'.vreg q l =
        if l = r.lane ∧ r.d ≤ q ∧ q < r.d + ys.length then BitVec.ofNat 32 (ys.getD (q - r.d) 0) else w.vreg q l) ∧
    (∀ c e ws, g.out = none → g.err = some (c, e) → groupSet s j g = some ws → ws.outs = ys.length → w.errs = [] →
      ∃ u w' x, Machine.exec .sluiceJobComplete s = .next u ∧ Tbl.find u.warps r.warp = some w' ∧ w'.errs = [x] ∧ x.tok = r.tok ∧
        x.cause = c ∧ x.sub = 2 ∧ x.addr = e ∧ ∀ i, i < ys.length → w'.vreg (r.d + i) r.lane = 0x7FC00000)))) ∧
  ((∀ c ∈ ([.wpin, .wunpin, .wpref] : List (SFmt → Instr)), ∀ t : SFmt, Whenever (c t) fun s wid fid w f =>
    wsetOf s w.launch (t.count w) = none → Faults s (c t) wid fid w f .disp 2 [] 0) ∧
  (∀ t : SFmt, Whenever (.wpref t) fun s wid fid w f => wsetOf s w.launch (t.count w) ≠ none → Completes s (.wpref t) wid fid w f w) ∧
  (∀ t : SFmt, Whenever (.wpin t) fun s wid fid w f => ∀ L ws,
    let k := 4096 * clusterOf w.core + t.count w
    let n := pinCount s w.ctx k
    let full := 6 * 2 ^ 20 < pinnedIn s (clusterOf w.core) none + ws.bytes ∨
      L.lrec.pincap * 131072 < pinnedIn s (clusterOf w.core) (some w.ctx) + ws.bytes
    Tbl.find s.launches w.launch = some L → L.wsets[t.count w]? = some ws →
    (n = 0 → full → Completes s (.wpin t) wid fid w f (w.setSreg f.lanes t.d.toNat 0xFFFFFFFF)) ∧
    (n ≠ 0 ∨ ¬ full → Machine.exec (.wpin t) s = .next (settleIfRetired w.alive (goesOn
      { s with launches := Tbl.put s.launches w.launch { L with pins := Tbl.write 0 L.pins k (Tbl.read 0 L.pins k + 1) } } (.wpin t) wid fid
      (w.setSreg f.lanes t.d.toNat (BitVec.ofNat 32 ws.bytes)) f) wid))) ∧
  (∀ t : SFmt, Whenever (.wunpin t) fun s wid fid w f => ∀ L ws,
    let k := 4096 * clusterOf w.core + t.count w
    let n := pinCount s w.ctx k
    Tbl.find s.launches w.launch = some L → L.wsets[t.count w]? = some ws →
    (n = 0 → Completes s (.wunpin t) wid fid w f (w.setSreg f.lanes t.d.toNat 0xFFFFFFFF)) ∧
    (n ≠ 0 → Machine.exec (.wunpin t) s = .next (settleIfRetired w.alive (goesOn (unpin s w.launch w.ctx k) (.wunpin t) wid fid
      (w.setSreg f.lanes t.d.toNat (BitVec.ofNat 32 (n - 1))) f) wid)) ∧
    (L.ctx = w.ctx → Tbl.read 0 L.pins k ≠ 0 → n ≠ 0 ∧ unpin s w.launch w.ctx k =
      { s with launches := Tbl.put s.launches w.launch { L with pins := Tbl.write 0 L.pins k (Tbl.read 0 L.pins k - 1) } })))

/-! ## Rays -/

/-- R241, R242, R378: the walk operations on registers, the branches, the call and the return: what each writes, and where the walk goes
on; a step that leaves UPC at or past LEN ends the walk CANCELLED with 0xFFFF_FFF4. -/
def Obligations.WalkRegisterOps : Prop :=
  (∀ (gd ga gb : BitVec 3) (i : BitVec 16) (cc : BitVec 2) (c : BitVec 4) (s : State) (id : Nat) (k : Walk), Walks s id k →
    let a := Tbl.read 0 k.g ga.toNat
    let b := Tbl.read 0 k.g gb.toNat
    let d := Tbl.read 0 k.g gd.toNat
    let imm : Word := i.signExtend 32
    let f (x : Word) : FVal := FF.f32.dec x.toNat
    ∀ r ∈ ([(.wadd gd ga gb, a + b), (.waddImm gd ga i, a + imm), (.wsub gd ga gb, a - b), (.wsubImm gd ga i, a - imm),
            (.wand gd ga gb, a &&& b), (.wandImm gd ga i, a &&& imm), (.wshr gd ga gb, a >>> (b.toNat % 32)),
            (.wshrImm gd ga i, a >>> (i.toNat % 32)), (.wmov gd ga, a), (.wldi gd i, i.setWidth 32), (.wldiHi gd i, i ++ d.setWidth 16),
            (.wcmp gd ga gb cc, if (if cc = 0 then a = b else if cc = 1 then a.toNat < b.toNat else if cc = 2 then a.toInt < b.toInt
              else FF.f32.isNan a.toNat = false ∧ FF.f32.isNan b.toNat = false ∧ (f a).ltNum (f b) = true) then 1 else 0),
            (.wmovSpecial gd c,
              if c = 0 then k.n.setWidth 32 else if c = 1 then k.n.extractLsb' 32 32 else if c = 2 then k.n.setWidth 32 &&& 3
              else if c = 3 then BitVec.ofNat 32 (k.ncount (progOf s k)) else if c = 4 then BitVec.ofNat 32 k.levels.length
              else if c = 5 then BitVec.ofNat 32 (k.stk.length + 8 * k.spl) else if c = 6 then k.world.getD 7 0
              else if k.hitv then 1 else 0)] : List (Instr × Word)),
      WalkGoes s r.1 id k { k with g := Tbl.write 0 k.g gd.toNat r.2, upc := k.upc + 1 } s) ∧
  (∀ (gd : BitVec 3) (o : BitVec 16) (s : State) (id : Nat) (k : Walk), Walks s id k → o.toNat % 4 = 0 →
    WalkGoes s (.wld32 gd o) id k { k with g := Tbl.write 0 k.g gd.toNat (Tbl.read 0 k.buf (o.toNat / 4)), upc := k.upc + 1 } s) ∧
  (∀ (ga gd : BitVec 3) (l : BitVec 8) (s : State) (id : Nat) (k : Walk), Walks s id k →
    (∀ r ∈ ([(.wbr l, true), (.wany l, k.hitv), (.wbz ga l, Tbl.read 0 k.g ga.toNat == 0), (.wbnz ga l, Tbl.read 0 k.g ga.toNat != 0)] :
        List (Instr × Bool)), WalkGoes s r.1 id k { k with upc := if r.2 then l.toNat else k.upc + 1 } s) ∧
    WalkGoes s (.wcall gd l) id k { k with g := Tbl.write 0 k.g gd.toNat (BitVec.ofNat 32 (k.upc + 1)), upc := l.toNat } s ∧
    WalkGoes s (.wret ga) id k { k with upc := (Tbl.read 0 k.g ga.toNat).toNat } s ∧
    WalkEnds s .wdone id k k (if k.hitv then .hit else .miss) ∧
    WalkEnds s (.wfail ga) id k k (.cancelled (Tbl.read 0 k.g ga.toNat))) ∧
  (∀ (k : Walk) (p : WalkProg) (y : Layout), p.layouts.getD (k.n.toNat / 2 ^ 57 % 4) none = some y →
    k.ncount p = if k.nb = true ∧ k.n.toNat % 4 ≤ 1 then min (k.bufLe y.cntoff 4 / 2 ^ y.cntpos % 2 ^ y.cntw) y.maxch else 0)

/-- R234 to R236, R242, R245, R246: what the walk operations on nodes, instances and the stack leave; a full stack spills its eight oldest
entries, an empty one reloads them, and an overflow ends the walk with nothing written. -/
def Obligations.WalkNodesAndStack : Prop :=
  (∀ (gd : BitVec 3) (s : State) (id : Nat) (k : Walk) (y : Layout) (hs bs : List Byte), Walks s id k →
    let a : DWord := BitVec.ofNat 64 (k.n.toNat % 2 ^ 57 / 4 * 4)
    (progOf s k).layouts.getD (k.n.toNat / 2 ^ 57 % 4) none = some y → k.n.toNat % 4 ≤ 1 → a.toNat % 16 = 0 →
    readVirt s { ctx := k.ctx, wg := none } a y.hdr = .ok hs →
    let n := min ((k.fill hs).bufLe y.cntoff 4 / 2 ^ y.cntpos % 2 ^ y.cntw) y.maxch
    readVirt s { ctx := k.ctx, wg := none } a (if k.n.toNat % 4 = 0 then max (max y.hdr (y.boxoff + n * y.boxstr)) (y.ptroff + n * y.ptrstr)
      else max y.hdr (y.leafoff + n * y.leafstr)) = .ok bs → 4 ≤ bs.length → ∃ v : Tbl Word,
    (∀ o, o < bs.length → ({ k with buf := v } : Walk).bufByte o = (bs.getD o 0).toNat) ∧
    (∀ o, (bs.length + 3) / 4 ≤ o → Tbl.read 0 v o = 0) ∧
    WalkGoes s (.wld gd) id k
      { k with buf := v, nb := true, g := Tbl.write 0 k.g gd.toNat (BitVec.ofNat 32 (leNat (bs.take 4))), upc := k.upc + 1 } s) ∧
  (∀ (gd : BitVec 3) (s : State) (id : Nat) (k : Walk), Walks s id k → k.n.toNat % 4 = 3 →
    WalkGoes s (.wld gd) id k { k with buf := [], nb := true, g := Tbl.write 0 k.g gd.toNat 0, upc := k.upc + 1 } s) ∧
  (∀ (gd : BitVec 3) (s : State) (id : Nat) (k : Walk), Walks s id k → (progOf s k).layouts.getD (k.n.toNat / 2 ^ 57 % 4) none = none →
    (k.n.toNat % 4 ≤ 2 → WalkEnds s (.wld gd) id k k (.cancelled 0xFFFFFFF1)) ∧ WalkEnds s .winstN id k k (.cancelled 0xFFFFFFF1)) ∧
  (∀ (ga : BitVec 3) (s : State) (id : Nat) (k : Walk), Walks s id k →
    let e := Tbl.read 0 k.g (ga.toNat + 1) ++ Tbl.read 0 k.g ga.toNat
    let spill := spillSlot s k
    (k.stk.length < 16 → WalkGoes s (.wpush ga) id k { k with stk := k.stk ++ [e], upc := k.upc + 1 } s) ∧
    (k.stk.length = 16 → k.spl = 8 → WalkEnds s (.wpush ga) id k k (.overflow 1)) ∧
    (∀ u, k.stk.length = 16 → k.spl < 8 → (spill + BitVec.ofNat 64 (64 * k.spl)).toNat < 2 ^ 57 →
      writeVirt s { ctx := k.ctx, wg := none } (spill + BitVec.ofNat 64 (64 * k.spl)) ((k.stk.take 8).flatMap fun e => leBytes 8 e.toNat) = .ok u →
      WalkGoes s (.wpush ga) id k { k with stk := k.stk.drop 8 ++ [e], spl := k.spl + 1, upc := k.upc + 1 } u)) ∧
  (∀ (l : BitVec 8) (s : State) (id : Nat) (k : Walk), Walks s id k →
    (k.stk = [] → k.spl = 0 → WalkGoes s (.wpop l) id k { k with upc := l.toNat } s) ∧
    (∀ es e, k.stk = es ++ [e] → e.getLsbD 63 = false →
      WalkGoes s (.wpop l) id k { k with stk := es, n := e, nb := false, buf := [], upc := k.upc + 1 } s) ∧
    (∀ es e m, k.stk = es ++ [e, m] → m.getLsbD 63 = true → e.getLsbD 63 = false → WalkGoes s (.wpop l) id k
      { k with stk := es, levels := k.levels.tail, taddr := k.taddr.tail, n := e, nb := false, buf := [], upc := k.upc + 1 } s) ∧
    (∀ m, k.stk = [m] → k.spl = 0 → m.getLsbD 63 = true →
      WalkGoes s (.wpop l) id k { k with stk := [], levels := k.levels.tail, taddr := k.taddr.tail, upc := l.toNat } s) ∧
    (∀ bs, k.stk = [] → 0 < k.spl → (spillSlot s k + BitVec.ofNat 64 (64 * (k.spl - 1))).toNat < 2 ^ 57 →
      readVirt s { ctx := k.ctx, wg := none } (spillSlot s k + BitVec.ofNat 64 (64 * (k.spl - 1))) 64 = .ok bs →
      let ent (i : Nat) : DWord := BitVec.ofNat 64 (leNat ((bs.drop (8 * i)).take 8))
      (ent 7).getLsbD 63 = false → WalkGoes s (.wpop l) id k
        { k with stk := (List.range 7).map ent, spl := k.spl - 1, n := ent 7, nb := false, buf := [], upc := k.upc + 1 } s)) ∧
  (∀ (s : State) (id : Nat) (k : Walk), Walks s id k →
    (k.levels = [] → WalkGoes s .wexit id k { k with stk := [], spl := 0, upc := k.upc + 1 } s) ∧
    (∀ es m ts, k.levels ≠ [] → k.stk.length ≤ 16 → k.stk = es ++ m :: ts → m.getLsbD 63 = true → (∀ t ∈ ts, t.getLsbD 63 = false) →
      WalkGoes s .wexit id k { k with stk := es, levels := k.levels.tail, taddr := k.taddr.tail, upc := k.upc + 1 } s)) ∧
  (∀ (ga : BitVec 3) (s : State) (id : Nat) (k : Walk) (bs : List Byte), Walks s id k →
    ∀ r ∈ ([(.winst ga, Tbl.read 0 k.g (ga.toNat + 1) ++ Tbl.read 0 k.g ga.toNat), (.winstN, BitVec.ofNat 64 (k.n.toNat % 2 ^ 57 / 4 * 4))] :
        List (Instr × DWord)),
    r.1 = .winst ga ∨ (progOf s k).layouts.getD (k.n.toNat / 2 ^ 57 % 4) none ≠ none →
    (2 ^ 57 ≤ r.2.toNat → WalkFaults s r.1 id k { cause := .path, addr := r.2, kind := .ld }) ∧
    (r.2.toNat < 2 ^ 57 → r.2.toNat % 16 ≠ 0 → WalkFaults s r.1 id k { cause := .align, addr := r.2, kind := .ld }) ∧
    (r.2.toNat < 2 ^ 57 → r.2.toNat % 16 = 0 → readVirt s { ctx := k.ctx, wg := none } r.2 64 = .ok bs →
      (k.levels.length = 3 → WalkEnds s r.1 id k k (.overflow 2)) ∧
      (k.levels.length < 3 → k.stk.length < 16 → k.levelRay.length = 6 → ∃ o d : List Word,
        WalkGoes s r.1 id k { k with
          stk := k.stk ++ [0x8000000000000000], levels := (o ++ d, BitVec.ofNat 32 (leNat ((bs.drop 56).take 4))) :: k.levels,
          taddr := r.2 :: k.taddr, n := BitVec.ofNat 64 (leNat ((bs.drop 48).take 8) % 2 ^ 63), nb := false, buf := [], upc := k.upc + 1 } s ∧
        ∀ i, i < 3 →
          let m (c : Nat) : Nat := leNat ((bs.drop (16 * i + 4 * c)).take 4)
          let ray (c : Nat) : Nat := (k.levelRay.getD c 0).toNat
          o[i]? = some (affine [m 0, m 1, m 2] [ray 0, ray 1, ray 2] (some (m 3))) ∧
          d[i]? = some (affine [m 0, m 1, m 2] [ray 3, ray 4, ray 5] none))))

/-- R242 to R244: for finite bounds a box is hit exactly where the ray meets it between tmin and tmax, `wbox8` reports the miss or the rounded
tnear and pushes on request, `wchild` pushes every hit child; a crossed triangle is met by the ray at te, and `wtri`, `wleaf` and `whit`
accept a crossing by the rule. -/
def Obligations.WalkTests : Prop :=
  (∀ (k : Walk) (r lo hi : List Rat) (t0 t1 : Rat), k.rayRats = some r → r.length = 6 → lo.length = 3 → hi.length = 3 →
    f32Val k.tmin.toNat = some (FVal.ofRat false t0) → f32Val k.tmax.toNat = some (FVal.ofRat false t1) →
    let box := k.boxHit (lo.map fun x => some (FVal.ofRat false x)) (hi.map fun x => some (FVal.ofRat false x))
    (box.isSome = true ↔ (∀ a, a < 3 → lo.getD a 0 ≤ hi.getD a 0) ∧ ∃ t, t0 ≤ t ∧ t ≤ t1 ∧
      ∀ a, a < 3 → lo.getD a 0 ≤ r.getD a 0 + t * r.getD (3 + a) 0 ∧ r.getD a 0 + t * r.getD (3 + a) 0 ≤ hi.getD a 0) ∧
    (∀ v, box = some v → t0 ≤ v.rat ∧ v.rat ≤ t1 ∧
      ∀ a, a < 3 → lo.getD a 0 ≤ r.getD a 0 + v.rat * r.getD (3 + a) 0 ∧ r.getD a 0 + v.rat * r.getD (3 + a) 0 ≤ hi.getD a 0)) ∧
  (∀ (gd ga : BitVec 3) (push : Bool) (s : State) (id : Nat) (k : Walk) (y : Layout), Walks s id k →
    (progOf s k).layouts.getD (k.n.toNat / 2 ^ 57 % 4) none = some y →
    let j := (Tbl.read 0 k.g ga.toNat).toNat
    (k.childHit y j = none →
      WalkGoes s (.wbox8 gd ga push) id k { k with g := Tbl.write 0 k.g gd.toNat 0xFFFFFFFF, upc := k.upc + 1 } s) ∧
    (∀ t, k.childHit y j = some t → k.stk.length < 16 → WalkGoes s (.wbox8 gd ga push) id k
      { k with stk := if push then k.stk ++ [k.childEntry y j] else k.stk, g := Tbl.write 0 k.g gd.toNat (roundDown t), upc := k.upc + 1 } s)) ∧
  (∀ (gd : BitVec 3) (s : State) (id : Nat) (k : Walk) (y : Layout), Walks s id k →
    (progOf s k).layouts.getD (k.n.toNat / 2 ^ 57 % 4) none = some y → k.stk.length + k.count y ≤ 16 → ∃ js : List Nat,
    (∀ j, j ∈ js ↔ j < k.count y ∧ (k.childHit y j).isSome = true) ∧ js.Nodup ∧
    (∀ (a b i j : Nat) (u v : FVal), js[a]? = some i → js[b]? = some j → a < b → k.childHit y i = some u → k.childHit y j = some v →
      u.ltNum v = false ∧ (v.ltNum u = true ∨ j < i)) ∧
    WalkGoes s (.wchild gd) id k
      { k with stk := k.stk ++ js.map (k.childEntry y), g := Tbl.write 0 k.g gd.toNat (BitVec.ofNat 32 js.length), upc := k.upc + 1 } s) ∧
  (∀ (k : Walk) (vs : List Nat) (te : Rat) (u v : Word) (r p : List Rat), k.cross vs = some (te, u, v) → k.rayRats = some r → r.length = 6 →
    vs.length = 9 → vs.map f32Rat = p.map some → ∃ α β γ : Rat, 0 ≤ α ∧ 0 ≤ β ∧ 0 ≤ γ ∧ α + β + γ = 1 ∧ u = roundRat .rne β ∧ v = roundRat .rne γ ∧
      ∀ a, a < 3 → r.getD a 0 + te * r.getD (3 + a) 0 = α * p.getD a 0 + β * p.getD (3 + a) 0 + γ * p.getD (6 + a) 0) ∧
  (∀ (ga gb : BitVec 3) (s : State) (id : Nat) (k : Walk), Walks s id k →
    let reg (n : Nat) : Word := Tbl.read 0 k.g n
    let a : DWord := reg (ga.toNat + 1) ++ reg ga.toNat
    let goes (i : Instr) (hit : Option Walk) : Prop :=
      (hit = none → WalkGoes s i id k { k with upc := k.upc + 1 } s) ∧
      (∀ h, hit = some h → h.first = false → WalkGoes s i id k { h with upc := k.upc + 1 } s) ∧
      (∀ h, hit = some h → h.first = true → WalkEnds s i id k h .hit)
    (∀ bs, a.toNat < 2 ^ 57 → readVirt s { ctx := k.ctx, wg := none } a 36 = .ok bs →
      goes (.wtri ga gb) (k.triangle ((List.range 9).map fun i => leNat ((bs.drop (4 * i)).take 4)) (reg gb.toNat))) ∧
    (∀ te, f32Val (reg ga.toNat).toNat = some te →
      goes (.whit ga gb) (k.accept te (reg ga.toNat) (reg (ga.toNat + 1)) (reg (ga.toNat + 2)) (reg gb.toNat))) ∧
    (f32Val (reg ga.toNat).toNat = none → goes (.whit ga gb) none) ∧
    (∀ y, (progOf s k).layouts.getD (k.n.toNat / 2 ^ 57 % 4) none = some y → y.inline = true →
      (k.count y = 0 → goes .wleaf none) ∧
      (k.count y = 1 → goes .wleaf (k.triangle ((List.range 9).map fun q => k.bufLe (y.leafoff + 4 * q) 4)
        (BitVec.ofNat 32 (k.bufLe (y.leafoff + 36) 4)))))) ∧
  (∀ (k k' : Walk) (te : FVal) (tr u v prim : Word), k.accept te tr u v prim = some k' →
    k' = { k with world := k.world.set 7 tr, u := u, v := v, prim := prim, hitv := true, inst := k.iid } ∧
    k.iid = (match k.levels with | (_, i) :: _ => i | [] => 0xFFFFFFFF) ∧
    (FF.f32.dec (k.world.getD 3 0).toNat).leNum te = true ∧
    (k.hitv = false → (FF.f32.dec tr.toNat).leNum (FF.f32.dec (k.world.getD 7 0).toNat) = true) ∧
    (k.hitv = true → (FF.f32.dec tr.toNat).ltNum (FF.f32.dec (k.world.getD 7 0).toNat) = true))

/-- R247, R248, R250: a walk that ends writes its six result words to its lane, releases that lane and, with its access's last lane, the
token; the words of each status; a failed access of a step goes to the pump house with the walk as it stood, and a PATH or ALIGN fault ends
a SAVE walk SAVED with its record written.

R249 to R252: `rtrace` and `rresume` check their registers, program and indexes in that order, stall on a busy token and where the walk
unit has no room, and otherwise start one walk for each active lane: a SAVE instruction goes on, a PARK one waits for its walks. -/
def Obligations.WalkEndingsAndRayTraces : Prop :=
  ((∀ (k : Walk) (c : Nat) (v : Word),
    k.results .miss = [k.tmax, 0, 0, 0xFFFFFFFF, 0xFFFFFFFF, 0] ∧ k.results .hit = [k.tmax, k.u, k.v, k.prim, k.inst, 1] ∧
    (k.hitv = true → k.results .saved = [k.tmax, k.u, k.v, k.prim, k.inst, 2]) ∧
    (k.hitv = false → k.results .saved = [k.tmax, 0, 0, 0xFFFFFFFF, 0xFFFFFFFF, 2]) ∧
    k.results (.overflow c) = [k.tmax, 0, 0, BitVec.ofNat 32 c, 0xFFFFFFFF, 3] ∧ k.results (.cancelled v) = [k.tmax, 0, 0, v, 0xFFFFFFFF, 4]) ∧
  (∀ (s : State) (id : Nat) (k : Walk) (e : WalkEnd) (w : Warp) (a : Access), Tbl.find s.warps k.warp = some w → w.ended = false →
    Tbl.find w.access k.access = some a → k.park = false → k.lane < 96 → ∃ w',
    Tbl.find (endWalk s id k e).walks id = none ∧ Tbl.find (endWalk s id k e).warps k.warp = some w' ∧ w'.sregs = w.sregs ∧
    (∀ r l, l < 96 → w'.vreg r l = if l = k.lane ∧ k.d ≤ r ∧ r < k.d + 6 then (k.results e).getD (r - k.d) 0 else w.vreg r l) ∧
    ((∃ p ∈ a.vdst, p.1 % 96 ≠ k.lane) → Tbl.read 0 w'.tokens k.tok = Tbl.read 0 w.tokens k.tok ∧
      ∃ b, Tbl.find w'.access k.access = some b ∧ ∀ p, p ∈ b.vdst ↔ p ∈ a.vdst ∧ p.1 % 96 ≠ k.lane) ∧
    ((∀ p ∈ a.vdst, p.1 % 96 = k.lane) → Tbl.find w'.access k.access = none ∧
      Tbl.read 0 w'.tokens k.tok = Tbl.read 0 w.tokens k.tok - 1)) ∧
  (∀ (s : State) (id : Nat) (k : Walk) (e : WFault),
    (e.cause = .page ∨ e.cause = .prot →
      Tbl.find (walkFault s id k e).walks id =
        some { k with saving := none, pend := some { cause := e.cause, addr := e.addr, kind := e.kind, msg := none } } ∧
      ∀ c x, Tbl.find s.ph c = some x → ∃ y, Tbl.find (walkFault s id k e).ph c = some y ∧ y.sig.getLsbD 2 = true) ∧
    (∀ u, e.cause = .path ∨ e.cause = .align → k.park = false → k.rebuild = false → (saveSlot s k).toNat < 2 ^ 57 →
      writeVirt s { ctx := k.ctx, wg := none } (saveSlot s k) (recordBytes (progOf s k) k false e.cause.code e.addr) = .ok u →
      walkFault s id k e = endWalk u id k .saved))) ∧
  ((∀ t : VFmt, Whenever (.rtrace t) fun s wid fid w f => ∀ L, Tbl.find s.launches w.launch = some L →
    let prog := (selInt w fid f 1 t.b 0).toNat
    let tok := t.x.toNat % 16
    let idx (l : Nat) : Nat := (selInt w fid f 2 t.c l).toNat
    (w.top < t.d.toNat + 6 → Faults s (.rtrace t) wid fid w f .regx 0 [] 0) ∧
    (t.d.toNat + 6 ≤ w.top → L.lrec.walkn ≤ prog ∨ L.walks.getD prog none = none → Faults s (.rtrace t) wid fid w f .ray 1 [] 0) ∧
    (∀ p, t.d.toNat + 6 ≤ w.top → prog < L.lrec.walkn → L.walks.getD prog none = some p →
      ((∃ l, (w.act f t.guard).getLsbD l = true ∧ L.lrec.rayslots ≤ idx l) → Faults s (.rtrace t) wid fid w f .ray 2 [] 0) ∧
      ((∀ l, (w.act f t.guard).getLsbD l = true → idx l < L.lrec.rayslots) → w.access = [] → w.tokBusy tok = false →
        (mkIssue (.rtrace t) wid fid w f).rowError (w.act f t.guard) [(t.d.toNat, 6)] = none →
        (384 < walksOn s w.core + (lanesOf (w.act f t.guard)).length → ∃ g : Frag, g.waitsIn f .stalled .walkRoom 0 ∧
          Machine.exec (.rtrace t) s = .next (withFrag { s with freshId := s.freshId + 1 } wid fid w g)) ∧
        (walksOn s w.core + (lanesOf (w.act f t.guard)).length ≤ 384 → (∀ id k, Tbl.find s.walks id = some k → id < s.freshId) →
          (∀ (a : BitVec 11), t.a = .vreg a →
            (∀ l, (w.act f t.guard).getLsbD l = true → rayDead ((List.range 8).map fun i => w.vreg (a.toNat + i) l) = false) →
            ∃ u w' g q, Machine.exec (.rtrace t) s = .next u ∧ findFrag u wid fid = some (w', g) ∧
              w'.sregs = w.sregs ∧ w'.vregs = w.vregs ∧ w'.tokBusy tok = true ∧ w'.access = [(s.freshId, q)] ∧ q.tok = some tok ∧
              (t.y.getLsbD 0 = true → g = f.retire (.rtrace t) (afterPc (.rtrace t) f) false) ∧
              (t.y.getLsbD 0 = false → g.waitsIn f .stalled .walks 0 ∧ g.tokw = BitVec.ofNat 16 (2 ^ tok)) ∧
              ∀ l, (w.act f t.guard).getLsbD l = true → l < 96 → (∀ j, j < 6 → (Tbl.find q.vdst (vkey (t.d.toNat + j) l)).isSome = true) ∧
                ∃ id k, Tbl.find u.walks id = some k ∧ k.warp = wid ∧ k.frag = fid ∧ k.lane = l ∧ k.access = s.freshId ∧ k.tok = tok ∧
                  k.d = t.d.toNat ∧ k.idx = idx l ∧ k.prog = prog ∧ k.n = p.root ∧ k.park = !(t.y.getLsbD 0) ∧ k.first = t.y.getLsbD 1 ∧
                  k.world = ((List.range 8).map fun i => w.vreg (a.toNat + i) l) ∧ k.g = [] ∧ k.stk = [] ∧ k.spl = 0 ∧ k.levels = [] ∧
                  k.nb = false ∧ k.hitv = false ∧ k.upc = 0))))) ∧
  (∀ t : VFmt, Whenever (.rresume t) fun s wid fid w f => ∀ L, Tbl.find s.launches w.launch = some L →
    let tok := t.x.toNat % 16
    let idx (l : Nat) : Nat := (selInt w fid f 2 t.c l).toNat
    (w.top < t.d.toNat + 6 → Faults s (.rresume t) wid fid w f .regx 0 [] 0) ∧
    (t.d.toNat + 6 ≤ w.top →
      ((∃ l, (w.act f t.guard).getLsbD l = true ∧ L.lrec.rayslots ≤ idx l) → Faults s (.rresume t) wid fid w f .ray 2 [] 0) ∧
      ((∀ l, (w.act f t.guard).getLsbD l = true → idx l < L.lrec.rayslots) → w.access = [] → w.tokBusy tok = false →
        (mkIssue (.rresume t) wid fid w f).rowError (w.act f t.guard) [(t.d.toNat, 6)] = none →
        walksOn s w.core + (lanesOf (w.act f t.guard)).length ≤ 384 → (∀ id k, Tbl.find s.walks id = some k → id < s.freshId) →
        ∃ u w' g, Machine.exec (.rresume t) s = .next u ∧ findFrag u wid fid = some (w', g) ∧ w'.tokBusy tok = true ∧
          w'.sregs = w.sregs ∧ w'.vregs = w.vregs ∧
          (t.y.getLsbD 0 = true → g = f.retire (.rresume t) (afterPc (.rresume t) f) false) ∧
          (t.y.getLsbD 0 = false → g.waitsIn f .stalled .walks 0) ∧
          ∀ l, (w.act f t.guard).getLsbD l = true → l < 96 → ∃ id k, Tbl.find u.walks id = some k ∧ k.warp = wid ∧ k.lane = l ∧ k.idx = idx l ∧
            k.rebuild = true ∧ k.park = !(t.y.getLsbD 0)))) ∧
  (∀ (s : State) (k : Walk) (bs : List Byte), (saveSlot s k).toNat < 2 ^ 57 → k.aside = none →
    readVirt s { ctx := k.ctx, wg := none } (saveSlot s k) 256 = .ok bs → leNat ((bs.drop 52).take 4) < 2 ^ 31 →
    ∃ k', rebuild s k = .ok (.ends k' (.cancelled 0xFFFFFFF3))))

/-! ## Work graphs, builds, pixels -/

/-- R260, R261, R263 to R266: `ralloc` gives the lowest free slots to the lanes in ascending order, waits where too few are free, and
parks for a node that takes no record or a request above the catchment; `rcommit` queues the lanes' records in their nodes' basins in lane
order and `rfree` frees them, each with PROT for records of others; a basin whose oldest record has waited its timeout launches it. -/
def Obligations.WorkGraphRecords : Prop :=
  (∀ t : VFmt, Whenever (.ralloc t) fun s wid fid w f => ∀ gl L,
    let node := (selInt w fid f 1 t.b 0).toNat
    let n := (lanesOf (w.act f t.guard)).length
    let free := (List.range L.totalSlots).filter fun k => (Tbl.find L.slots k).isNone
    let takes := node < 64 ∧ ∃ x, Tbl.find L.nodes node = some x ∧ x.cell = false
    graphOf s w = some gl → Tbl.find s.launches gl = some L →
    (¬ takes → Faults s (.ralloc t) wid fid w f .disp 3 [] 0) ∧
    (takes → L.totalSlots < n → Faults s (.ralloc t) wid fid w f .disp 4 [] 0) ∧
    (takes → n ≤ L.totalSlots → rallocWaiters s gl = [] →
      (n ≤ free.length → ∃ u w' L', Machine.exec (.ralloc t) s = .next u ∧
        findFrag u wid fid = some (w', f.retire (.ralloc t) (afterPc (.ralloc t) f) true) ∧ w'.sregs = w.sregs ∧
        Tbl.find u.launches gl = some L' ∧ L'.nodes = L.nodes ∧
        (∀ p ∈ (lanesOf (w.act f t.guard)).zip (free.take n), w'.vpair t.d.toNat p.1 = L.lrec.catbase + BitVec.ofNat 64 (L.slotQ * p.2) ∧
          Tbl.find L'.slots p.2 = some { st := .allocWarp wid, node := node, cell := none }) ∧
        (∀ r l, l < 96 → (r ≠ t.d.toNat ∧ r ≠ t.d.toNat + 1) ∨ (w.act f t.guard).getLsbD l = false → w'.vreg r l = w.vreg r l) ∧
        (∀ k, k ∉ free.take n → Tbl.find L'.slots k = Tbl.find L.slots k)) ∧
      (free.length < n → (∃ p ∈ L.nodes, p.2.basin ≠ []) → ∃ u w' g, Machine.exec (.ralloc t) s = .next u ∧
        findFrag u wid fid = some (w', g) ∧ g.waitsIn f .waiting .ralloc node ∧ g.reach = 0 ∧ w'.sregs = w.sregs ∧ w'.vregs = w.vregs ∧
        u.launches = s.launches))) ∧
  (∀ (t : VFmt) (r : BitVec 11), t.a = .vreg r → Whenever (.rcommit t) fun s wid fid w f => ∀ gl L (slot : Nat → Nat) (x : Nat → Slot),
    let act := w.act f t.guard
    graphOf s w = some gl → Tbl.find s.launches gl = some L → L.lrec.catsize < 2 ^ 64 →
    (∀ l, act.getLsbD l = true → w.vpair r.toNat l = L.slotAddr (slot l) ∧ slot l < L.totalSlots ∧ Tbl.find L.slots (slot l) = some (x l) ∧
      (x l).st = .allocWarp wid ∧ ∃ n, Tbl.find L.nodes (x l).node = some n) →
    (∀ l m, act.getLsbD l = true → act.getLsbD m = true → slot l = slot m → l = m) →
    (∀ k n, Tbl.find L.nodes k = some n → n.pool = 2 ∨ (n.basin.length + (lanesOf act).length < n.batch ∧ 0 < n.timeout ∧
      ∀ b ∈ n.basin, clkNat s < b.2 + n.timeout)) →
    ∃ L', Machine.exec (.rcommit t) s = .next
        (goesOn { s with launches := Tbl.put s.launches gl L' } (.rcommit t) wid fid w f) ∧
      (∀ l, act.getLsbD l = true → Tbl.find L'.slots (slot l) = some { x l with st := .committed }) ∧
      (∀ k, (∀ l, act.getLsbD l = true → k ≠ slot l) → Tbl.find L'.slots k = Tbl.find L.slots k) ∧
      (∀ k n, Tbl.find L.nodes k = some n → Tbl.find L'.nodes k = some { n with
        basin := n.basin ++ ((lanesOf act).filter fun l => (x l).node == k).map fun l => (slot l, clkNat s) })) ∧
  (∀ (t : VFmt) (r : BitVec 11), t.a = .vreg r → Whenever (.rfree t) fun s wid fid w f => ∀ gl L (slot : Nat → Nat) (x : Nat → Slot),
    let act := w.act f t.guard
    graphOf s w = some gl → Tbl.find s.launches gl = some L → L.lrec.catsize < 2 ^ 64 → rallocWaiters s gl = [] →
    (∀ l, act.getLsbD l = true → w.vpair r.toNat l = L.slotAddr (slot l) ∧ slot l < L.totalSlots ∧ Tbl.find L.slots (slot l) = some (x l) ∧
      ((x l).st = .allocWarp wid ∨ (x l).st = .delivered w.launch)) →
    (∀ l m, act.getLsbD l = true → act.getLsbD m = true → slot l = slot m → l = m) →
    ∃ u L', Machine.exec (.rfree t) s = .next u ∧ u.warps = (goesOn s (.rfree t) wid fid w f).warps ∧ u.hbm = s.hbm ∧
      Tbl.find u.launches gl = some L' ∧ L'.nodes = L.nodes ∧
      (∀ l, act.getLsbD l = true → Tbl.find L'.slots (slot l) = none) ∧
      (∀ k, (∀ l, act.getLsbD l = true → k ≠ slot l) → Tbl.find L'.slots k = Tbl.find L.slots k) ∧
      (∀ l c, act.getLsbD l = true → (x l).st = .delivered w.launch → (x l).cell = some c →
        ∃ p ∈ u.pix, p.2.kind = 2 ∧ p.2.graph = some gl ∧ (p.2.rt, p.2.cx, p.2.cy, p.2.ticket) = c)) ∧
  (∀ c ∈ ([.rcommit, .rfree] : List (VFmt → Instr)), ∀ (t : VFmt) (r : BitVec 11), t.a = .vreg r →
    Whenever (c t) fun s wid fid w f => ∀ gl L, graphOf s w = some gl → Tbl.find s.launches gl = some L →
    (∀ l k x, (w.act f t.guard).getLsbD l = true → w.vpair r.toNat l = L.slotAddr k → Tbl.find L.slots k = some x →
      x.st ≠ .allocWarp wid ∧ x.st ≠ .delivered w.launch) →
    ∃ info a, Faults s (c t) wid fid w f .prot 3 info a) ∧
  (∀ (s : State) (L : Launch) (n : Node), Tbl.find s.launches s.ev.a = some L → Tbl.find L.nodes s.ev.b = some n → n.pool ≠ 2 →
    s.ev.a ≠ s.freshId → n.basin.length < n.batch →
    ((∀ b, n.basin.head? = some b → clkNat s < b.2 + n.timeout) → Machine.exec .basinTimeout s = .next s) ∧
    (∀ b, n.basin.head? = some b → b.2 + n.timeout ≤ clkNat s → ∃ u L' c, Machine.exec .basinTimeout s = .next u ∧
      Tbl.find u.launches s.ev.a = some L' ∧ Tbl.find L'.nodes s.ev.b = some { n with basin := [], seq := n.seq + 1 } ∧
      Tbl.find u.launches s.freshId = some c ∧ c.graph = some s.ev.a ∧ c.node = s.ev.b ∧ c.seqno = n.seq ∧ c.records = n.basin.map (·.1) ∧
      c.ctl = (n.pool == 1) ∧ c.lrec.gx * c.lrec.gy * c.lrec.gz = 1 ∧ (c.lrec.wx, c.lrec.wy, c.lrec.wz) = (96, 1, 1) ∧ c.nextWg = 0 ∧
      c.lrec.karg = L.lrec.karg ∧ c.cls = L.cls ∧ c.ctx = L.ctx ∧
      (∀ k y, k ∈ n.basin.map (·.1) → Tbl.find L.slots k = some y → Tbl.find L'.slots k = some { y with st := .delivered s.freshId }) ∧
      u.warps = s.warps ∧ u.hbm = s.hbm))

/-- R257, R258, Table 10.10: `xbuild` of a descriptor that keeps its table joins the queue of its half with its token busy, stalls behind
32 builds, and faults for an address outside path 0x0, an address off a multiple of 128 and a field outside the table; a build of no
primitives whose areas can be written leaves one empty leaf, ROOT at NODEBASE with marker 1, STATUS 0, NODES 1 and a free token. -/
def Obligations.BuildEngine : Prop :=
  (∀ t : VFmt, Whenever (.xbuild t) fun s wid fid w f => ∀ bs,
    let a := selPair w t.a
    let k := t.x.toNat % 16
    let n (o b : Nat) : Nat := leNat ((bs.drop o).take b)
    let half := halfOf w.ctl w.core
    let good := n 0 4 / 2 ^ 24 = 0 ∧ n 0 4 / 2 ^ 9 % 2 ^ 7 = 0 ∧ 1 ≤ n 2 1 ∧ n 2 1 ≤ 32 ∧ n 0 4 / 2 ^ 6 % 8 ≤ 4 ∧ n 0 4 % 16 ≤ 2 ∧
      n 4 4 ≤ 2 ^ 26 ∧ (n 0 4 % 16 = 2 → n 8 8 % 64 = 0) ∧ (n 0 4 % 16 ≠ 0 → n 16 8 = 0) ∧ n 24 8 % 64 = 0 ∧ n 40 8 % 64 = 0 ∧
      48 * n 4 4 + 4096 ≤ n 48 8 ∧ n 80 48 = 0
    (2 ^ 57 ≤ a.toNat → ∃ info b, Faults s (.xbuild t) wid fid w f .path 0 info b) ∧
    (a.toNat < 2 ^ 57 → a.toNat % 128 ≠ 0 → ∃ info b, Faults s (.xbuild t) wid fid w f .align 0 info b) ∧
    (a.toNat < 2 ^ 57 → a.toNat % 128 = 0 → readVirt s { ctx := w.ctx, wg := none } a 128 = .ok bs →
      (¬ good → ∃ info b, Faults s (.xbuild t) wid fid w f .ill 1 info b) ∧
      (good → w.tokBusy k = false →
        ((buildsOn s half).length < 32 → ∃ b : Build, Machine.exec (.xbuild t) s = .next (goesOn
            { s with builds := Tbl.put s.builds s.freshId b, freshId := s.freshId + 1 } (.xbuild t) wid fid (w.tokAdd k) f) ∧
          b.desc = a ∧ b.warp = wid ∧ b.ctx = w.ctx ∧ b.tok = k ∧ b.half = half ∧ b.kind = n 0 4 % 16 ∧ b.radius = n 2 1 ∧ b.count = n 4 4 ∧
          b.prim.toNat = n 8 8 ∧ b.ibase.toNat = n 16 8 ∧ b.nodebase.toNat = n 24 8 ∧ b.nodecap = n 32 8 ∧ b.scrbase.toNat = n 40 8 ∧
          b.fault = none ∧ b.refused = none) ∧
        (32 ≤ (buildsOn s half).length → ∃ g : Frag, g.waitsIn f .stalled .buildQueue 0 ∧
          Machine.exec (.xbuild t) s = .next (withFrag { s with freshId := s.freshId + 1 } wid fid w g))))) ∧
  (∀ (s : State) (id : Nat) (b : Build) (rest : List (Nat × Build)) (w : Warp) (m : Nat → Nat),
    buildsOn s s.ev.a = (id, b) :: rest → b.count = 0 → b.kind ≤ 2 → b.fault = none → b.refused = none → ctxHalted s b.ctx 21000 = false →
    s.sigs = [] → Tbl.find s.warps b.warp = some w → w.ended = false → 64 ≤ b.nodecap →
    b.nodebase.toNat % 64 = 0 → b.desc.toNat % 128 = 0 → b.nodebase.toNat + b.nodecap < 2 ^ 57 → b.desc.toNat < 2 ^ 57 → b.scrbase.toNat + 4096 < 2 ^ 57 →
    let used (a : Nat) : Prop := (b.nodebase.toNat ≤ a ∧ a < b.nodebase.toNat + 64) ∨ (b.desc.toNat ≤ a ∧ a < b.desc.toNat + 128) ∨
      (b.scrbase.toNat ≤ a ∧ a < b.scrbase.toNat + 4096)
    (∀ a, used a → translate s b.ctx a .st false false = .ok (m a)) → (∀ i j, used i → used j → m i = m j → i = j) →
    (b.nodebase.toNat + 64 ≤ b.desc.toNat ∨ b.desc.toNat + 128 ≤ b.nodebase.toNat) →
    (∀ i j, i < 4096 → j < 64 → b.scrbase.toNat + i ≠ b.nodebase.toNat + j) →
    (∀ i j, i < 4096 → j < 16 → b.scrbase.toNat + i ≠ b.desc.toNat + 56 + j) →
    ∃ u w', Machine.exec .build s = .next u ∧ Tbl.find u.builds id = none ∧ Tbl.find u.warps b.warp = some w' ∧
      Tbl.read 0 w'.tokens b.tok = Tbl.read 0 w.tokens b.tok - 1 ∧ w'.sregs = w.sregs ∧ w'.vregs = w.vregs ∧
      Memory.byte u.hbm (m (b.nodebase.toNat + 15)) = 0 ∧
      (∀ i, i < 8 → Memory.byte u.hbm (m (b.desc.toNat + 64 + i)) = (leBytes 8 (b.nodebase ||| 1).toNat).getD i 0) ∧
      (∀ i, i < 8 → Memory.byte u.hbm (m (b.desc.toNat + 56 + i)) = if i = 0 then 1 else 0) ∧
      (∀ p, (∀ i, i < 64 → p ≠ m (b.nodebase.toNat + i)) → (∀ i, i < 4096 → p ≠ m (b.scrbase.toNat + i)) →
        (∀ i, i < 16 → p ≠ m (b.desc.toNat + 56 + i)) → Memory.byte u.hbm p = Memory.byte s.hbm p))

/-- R271 to R276, R379: `pzt` and `pwr` put the values of their lanes on their cell's queue with the token busy, `pdone` queues behind them
in a graph launch and does nothing in a grid launch; the unit then tests and blends each lane's word, in the order of tickets; and the L2
writes a dirty cell back, or skips it where its signature stands. -/
def Obligations.PixelOperations : Prop :=
  let names (op : PixOp) (s : State) (w : Warp) (t : VFmt) (act : LaneMask) : Prop :=
    let h := selPair w t.b
    op.launch = w.launch ∧ op.ctx = w.ctx ∧ op.graph = graphOf s w ∧ op.rt = t.y.toNat % 16 ∧ op.cx = h.toNat % 2 ^ 16 ∧
    op.cy = h.toNat / 2 ^ 16 % 2 ^ 16 ∧ op.ticket = h.toNat / 2 ^ 32 ∧ op.lanes = act ∧ op.d = t.d.toNat ∧ op.fault = none ∧ op.bad = 0
  (∀ r ∈ ([(.pzt, 0), (.pwr, 1)] : List ((VFmt → Instr) × Nat)), ∀ t : VFmt, Whenever (r.1 t) fun s wid fid w f =>
    let k := t.x.toNat % 16
    w.tokBusy k = false → ∃ op d, Machine.exec (r.1 t) s = .next (goesOn
        { s with freshId := s.freshId + 2, pix := Tbl.put s.pix (s.freshId + 1) op } (r.1 t) wid fid
        (inFlight w s.freshId { Machine.Access.plain fid f.lanes with tok := some k, vdst := d }) f) ∧
      names op s w t (w.act f t.guard) ∧ op.kind = r.2 ∧ op.tok = k ∧ op.warp = wid ∧ op.access = s.freshId ∧
      (∀ l, (w.act f t.guard).getLsbD l = true → Tbl.read 0 op.vals l = (selVal w fid f t.ty 0 t.a l).setWidth 32) ∧
      (∀ l, (w.act f t.guard).getLsbD l = true → l < 96 → (Tbl.find d (vkey t.d.toNat l)).isSome = decide (r.2 = 0))) ∧
  (∀ t : VFmt, Whenever (.pdone t) fun s wid fid w f =>
    (graphOf s w = none → Completes s (.pdone t) wid fid w f w) ∧
    (graphOf s w ≠ none → ∃ op, names op s w t (w.act f t.guard) ∧ op.kind = 2 ∧ Machine.exec (.pdone t) s = .next (goesOn
      { s with freshId := s.freshId + 1, pix := Tbl.put s.pix s.freshId op } (.pdone t) wid fid w f))) ∧
  (∀ (s : State) (op : PixOp) (w : Warp), Tbl.find s.pix s.ev.a = some op → op.fault = none → op.bad = 0 →
    (∀ p ∈ s.pix, p.1 < s.ev.a → pixBefore p.2 op = false) → ctxHalted s op.ctx 2100 = false → Tbl.find s.warps op.warp = some w →
    w.ended = false →
    let r := retiredOf s op
    let D (u : State) (v : Nat → Word) : Prop := ∃ w', Tbl.find u.warps op.warp = some w' ∧ Tbl.find u.pix s.ev.a = none ∧
      Tbl.read 0 w'.tokens op.tok = Tbl.read 0 w.tokens op.tok - 1 ∧ Tbl.find w'.access op.access = none ∧
      (∀ l, l < 96 → op.lanes.getLsbD l = true → op.kind = 0 → w'.vreg op.d l = v l) ∧
      (∀ q l, l < 96 → (q ≠ op.d ∨ op.lanes.getLsbD l = false ∨ op.kind = 1) → w'.vreg q l = w.vreg q l)
    (op.graph ≠ none → r < op.ticket → Machine.exec .pixelOperation s = .next s) ∧
    (op.kind = 2 → ∀ gl L, op.graph = some gl → Tbl.find s.launches gl = some L → op.ticket ≤ r → ∃ u L',
      Machine.exec .pixelOperation s = .next u ∧ Tbl.find u.launches gl = some L' ∧ u.warps = s.warps ∧ u.hbm = s.hbm ∧
      (op.ticket = r → Tbl.read 0 L'.retired (cellKey op.rt op.cx op.cy) = r + 1) ∧ (op.ticket < r → L' = L)) ∧
    (op.kind < 2 → op.graph ≠ none → op.ticket < r → ∃ u, Machine.exec .pixelOperation s = .next u ∧ u.hbm = s.hbm ∧ D u fun _ => 0) ∧
    (op.kind < 2 → op.graph = none ∨ op.ticket = r → ∀ L, Tbl.find s.launches op.launch = some L →
      (∀ t, L.targets.getD op.rt none = some t → t.cbase = 0 ∨ t.wcells ≤ op.cx ∨ t.hcells ≤ op.cy) →
      ∃ u, Machine.exec .pixelOperation s = .next u ∧ u.hbm = s.hbm ∧ D u fun _ => 0) ∧
    (op.kind < 2 → op.graph = none ∨ op.ticket = r → ∀ L t, Tbl.find s.launches op.launch = some L → L.targets.getD op.rt none = some t →
      t.cbase ≠ 0 → op.cx < t.wcells → op.cy < t.hcells →
      let base := (if op.kind = 0 then t.zbase else t.cbase) + BitVec.ofNat 64 (384 * (op.cy * t.wcells + op.cx))
      let v (l : Nat) : Nat := (Tbl.read 0 op.vals l).toNat
      (op.kind = 0 → t.zbase = 0 → ∃ u, Machine.exec .pixelOperation s = .next u ∧ u.hbm = s.hbm ∧ D u fun _ => 1) ∧
      (∀ p : Nat → Nat, (op.kind = 0 → t.zbase ≠ 0) → s.sigs = [] → t.sig = 0 → t.blend ≤ 2 → t.cfmt ≤ 1 → (t.blend = 1 → t.cfmt = 0) →
        (∀ l k, op.lanes.getLsbD l = true → k = .ld ∨ k = .st → pixPlace s op (base + BitVec.ofNat 64 (4 * l)) k = .ok (p l)) →
        (∀ l m i j, op.lanes.getLsbD l = true → op.lanes.getLsbD m = true → l ≠ m → i < 4 → j < 4 → p l + i ≠ p m + j) →
        let old (l : Nat) : Nat := Memory.le s.hbm (p l) 4
        let less (a b : Nat) : Prop := FF.f32.isNan a = false ∧ FF.f32.isNan b = false ∧ (FF.f32.dec a).ltNum (FF.f32.dec b) = true
        let same (a b : Nat) : Prop := a = b ∨ (a % 2 ^ 31 = 0 ∧ b % 2 ^ 31 = 0)
        let pass (l : Nat) : Prop := t.zfn = 3 ∨ (FF.f32.isNan (v l) = false ∧ FF.f32.isNan (old l) = false ∧
          ((t.zfn = 0 ∧ less (v l) (old l)) ∨ (t.zfn = 1 ∧ (less (v l) (old l) ∨ same (v l) (old l))) ∨ (t.zfn = 2 ∧ less (old l) (v l))))
        let byte (n i : Nat) : Nat := n / 256 ^ i % 256
        let mix (l i : Nat) : Nat :=
          if t.blend = 0 then byte (v l) i
          else if t.blend = 1 then
            (if i < 3 then (byte (v l) i * byte (v l) 3 + byte (old l) i * (255 - byte (v l) 3) + 127) / 255
             else byte (v l) 3 + (byte (old l) 3 * (255 - byte (v l) 3) + 127) / 255)
          else if t.cfmt = 0 then min 255 (byte (v l) i + byte (old l) i)
          else byte (FF.f32.add { rm := .rne, sat := false, ftz32 := false, ftz16 := false, ntag := false, pc := 0 } 0 (v l) (old l)) i
        t.zfn ≤ 3 →
        ∃ u, Machine.exec .pixelOperation s = .next u ∧
          (∀ q, (∀ l i, op.lanes.getLsbD l = true → i < 4 → q ≠ p l + i) → Memory.byte u.hbm q = Memory.byte s.hbm q) ∧
          (op.kind = 1 → D u (fun _ => 0) ∧ ∀ l i, op.lanes.getLsbD l = true → l < 96 → i < 4 →
            (Memory.byte u.hbm (p l + i)).toNat = mix l i) ∧
          (op.kind = 0 → ∃ g : Nat → Word, D u g ∧ ∀ l, op.lanes.getLsbD l = true → l < 96 →
            (pass l → g l = 1 ∧ Memory.le u.hbm (p l) 4 = if t.zwr then v l else old l) ∧
            (¬ pass l → g l = 0 ∧ Memory.le u.hbm (p l) 4 = old l))))) ∧
  (∀ (s : State) (d : DirtyCell), Tbl.find s.cells s.ev.a = some d → d.old.length = 384 → d.lines.length = 3 →
    let place (i : Nat) : Nat := d.lines.getD (i / 128) 0 + i % 128
    (∀ i j, i < 384 → j < 384 → place i = place j → i = j) →
    let crc := crc32c ((List.range 384).map fun i => Memory.byte s.hbm (place i))
    let stands := (Memory.byte s.hbm (d.sig + 4)).getLsbD 0 = true ∧ Memory.le s.hbm d.sig 4 = crc.toNat
    ∃ u, Machine.exec .cellWriteback s = .next u ∧ Tbl.find u.cells s.ev.a = none ∧ u.warps = s.warps ∧
      (stands → (∀ i, i < 384 → Memory.byte u.hbm (place i) = d.old.getD i 0) ∧
        ∀ q, (∀ i, i < 384 → q ≠ place i) → Memory.byte u.hbm q = Memory.byte s.hbm q) ∧
      (¬ stands → Memory.le u.hbm d.sig 8 = crc.toNat + 2 ^ 32 ∧
        ∀ q, (∀ j, j < 8 → q ≠ d.sig + j) → Memory.byte u.hbm q = Memory.byte s.hbm q))

/-- R267 to R270: a raster node takes the oldest triangle of its basin when it has none in work; one with no area or too steep an edge is
dropped and counted, and its record is freed; of any other, the cells in the bounding box and the render target that no edge leaves
outside stand to be emitted, in ascending CY and then CX. A cell's record is written to the lowest free slot with the next ticket of its
cell and is committed to the next node; after the last cell the triangle's record is freed. -/
def Obligations.Rasteriser : Prop :=
  let s32 (bs : List Byte) (o : Nat) : Int := toI true 32 (leNat ((bs.drop o).take 4))
  let px (bs : List Byte) (i : Nat) : Int := s32 bs (12 * i)
  let py (bs : List Byte) (i : Nat) : Int := s32 bs (12 * i + 4)
  let area (bs : List Byte) : Int := (px bs 1 - px bs 0) * (py bs 2 - py bs 0) - (px bs 2 - px bs 0) * (py bs 1 - py bs 0)
  let turn (bs : List Byte) (n : Int) : Int := if area bs < 0 then -n else n
  let a (bs : List Byte) (e : Nat) : Int := turn bs (py bs e - py bs ((e + 1) % 3))
  let b (bs : List Byte) (e : Nat) : Int := turn bs (px bs ((e + 1) % 3) - px bs e)
  let c (bs : List Byte) (e cx cy : Nat) : Int :=
    let n := a bs e * (3072 * cx - px bs e) + b bs e * (2048 * cy - py bs e)
    max (-(2 ^ 31)) (min (2 ^ 31 - 1) (if 0 < a bs e ∨ (a bs e = 0 ∧ b bs e < 0) then n else n - 1))
  let drops (bs : List Byte) : Prop := area bs = 0 ∨ ∃ e, e < 3 ∧ (2 ^ 18 ≤ (a bs e).natAbs ∨ 2 ^ 18 ≤ (b bs e).natAbs)
  let spans (v : Nat → Int) (unit : Int) (k : Nat) : Prop :=
    ∃ i j, i < 3 ∧ j < 3 ∧ v i < unit * (k + 1) ∧ unit * k < v j
  let emits (bs : List Byte) (t : Target) (cx cy : Nat) : Prop :=
    cx < t.wcells ∧ cy < t.hcells ∧ spans (px bs) 3072 cx ∧ spans (py bs) 2048 cy ∧
    ∀ e, e < 3 → ∃ dx ∈ ([0, 3072] : List Int), ∃ dy ∈ ([0, 2048] : List Int), 0 ≤ a bs e * dx + b bs e * dy + c bs e cx cy
  (∀ (s : State) (L : Launch) (n : Node) (k at' : Nat) (rest : List (Nat × Nat)) (bs : List Byte) (x : Slot) (ctx : Ctx),
    Tbl.find s.launches s.ev.a = some L → Tbl.find L.nodes s.ev.b = some n → n.pool = 2 → n.tri = none → ctxHalted s L.ctx 0 = false →
    n.basin = (k, at') :: rest → readVirt s { ctx := L.ctx, wg := none } (L.lrec.catbase + BitVec.ofNat 64 (L.slotQ * k)) 64 = .ok bs →
    Tbl.find L.slots k = some x → Tbl.find s.ctxs L.ctx = some ctx → rallocWaiters s s.ev.a = [] →
    ∃ u L' n', Machine.exec .rasterise s = .next u ∧ Tbl.find u.launches s.ev.a = some L' ∧ Tbl.find L'.nodes s.ev.b = some n' ∧
      n'.basin = rest ∧ u.warps = s.warps ∧ u.hbm = s.hbm ∧
      (drops bs → n'.tri = none ∧ Tbl.find L'.slots k = none ∧
        ∃ y, Tbl.find u.ctxs L.ctx = some y ∧ y.drops = ctx.drops + 1) ∧
      (¬ drops bs → u.ctxs = s.ctxs ∧
        (∀ t, L.targets.getD (leNat ((bs.drop 40).take 4) % 16) none = some t → t.cbase ≠ 0 →
          (∀ y, n'.tri = some y → y.slot = k ∧ y.data = bs ∧ Tbl.find L'.slots k = some { x with st := .allocRaster } ∧
            y.cells.Pairwise (fun p q => p.2 < q.2 ∨ (p.2 = q.2 ∧ p.1 < q.1)) ∧ ∀ cx cy, (cx, cy) ∈ y.cells ↔ emits bs t cx cy) ∧
          (n'.tri = none ↔ ∀ cx cy, ¬ emits bs t cx cy) ∧ (n'.tri = none → Tbl.find L'.slots k = none)))) ∧
  (∀ (s : State) (L : Launch) (n nx : Node) (y : Tri) (cx cy k : Nat) (rest : List (Nat × Nat)) (m : Nat → Nat),
    Tbl.find s.launches s.ev.a = some L → Tbl.find L.nodes s.ev.b = some n → ctxHalted s L.ctx 0 = false → n.tri = some y →
    y.cells = (cx, cy) :: rest → y.data.length = 64 → y.slot ≠ k → k < L.totalSlots → Tbl.find L.slots k = none →
    (∀ j, j < k → (Tbl.find L.slots j).isSome = true) → n.next ≠ s.ev.b → Tbl.find L.nodes n.next = some nx → nx.pool ≠ 2 →
    (∀ j z, j ≠ n.next → Tbl.find L.nodes j = some z → z.pool = 2 ∨ z.basin = []) → nx.basin.length + 1 < nx.batch → 0 < nx.timeout →
    (∀ e ∈ nx.basin, clkNat s < e.2 + nx.timeout) → rallocWaiters s s.ev.a = [] → s.sigs = [] → cx < 65536 → cy < 65536 →
    let dst : DWord := L.lrec.catbase + BitVec.ofNat 64 (L.slotQ * k)
    dst.toNat + 64 ≤ 2 ^ 57 →
    (∀ i, i < 64 → translate s L.ctx (dst.toNat + i) .st false false = .ok (m i)) → (∀ i j, i < 64 → j < 64 → m i = m j → i = j) →
    let bs := y.data
    let rt := leNat ((bs.drop 40).take 4) % 16
    let ticket := Tbl.read 0 L.ticket (cellKey rt cx cy)
    let word (u : State) (o : Nat) : Nat := leNat ((List.range 4).map fun i => Memory.byte u.hbm (m (o + i)))
    ∃ u L' n' nx', Machine.exec .cellEmit s = .next u ∧ Tbl.find u.launches s.ev.a = some L' ∧ u.warps = s.warps ∧
      Tbl.find L'.nodes s.ev.b = some n' ∧ Tbl.find L'.nodes n.next = some nx' ∧
      Tbl.read 0 L'.ticket (cellKey rt cx cy) = ticket + 1 ∧
      Tbl.find L'.slots k = some { st := .committed, node := n.next, cell := some (rt, cx, cy, ticket) } ∧
      nx'.basin = nx.basin ++ [(k, clkNat s)] ∧
      n'.tri = (if rest = [] then none else some { y with cells := rest }) ∧ (rest = [] → Tbl.find L'.slots y.slot = none) ∧
      word u 0 = cy * 65536 + cx ∧ word u 4 = ticket % 2 ^ 32 ∧ word u 8 = leNat ((bs.drop 36).take 4) ∧ word u 12 = rt ∧
      (∀ e, e < 3 → (word u (16 + 12 * e) : Int) = a bs e % 2 ^ 32 ∧ (word u (20 + 12 * e) : Int) = b bs e % 2 ^ 32 ∧
        (word u (24 + 12 * e) : Int) = c bs e cx cy % 2 ^ 32) ∧
      (∀ q, (∀ i, i < 64 → q ≠ m i) → Memory.byte u.hbm q = Memory.byte s.hbm q))

/-! ## Handler instructions, exceptions and their service -/

/-- R312 to R316, Tables 15.5 to 15.7: handles and what they name; LASTERR 1 for one that is not current, 2 for the wrong state, 3 for a bad
revive set, 5 without a frame; the lanes and entry words that `fmask` and `fstate` read; a fragment resumed by `fres.replay` and by
`fres.complete` with the words of RESULT; the lanes that `fkill` ends; the park that `fpark` makes; and the handler control registers. -/
def Obligations.HandlerInstructions : Prop :=
  let names (s : State) (w : Warp) (t : SFmt) (q k : Nat) (v : Warp) (g : Frag) : Prop := handled s w.ctx (w.sreg t.aReg) = some (q, k, v, g)
  let fit (v : Warp) (g : Frag) : Prop := v.level = .u ∧ v.ended = false ∧ g.lanes &&& v.alive = g.lanes ∧ g.lanes ≠ 0
  let calm (s : State) (v : Warp) (f : Frag) : Prop :=
    f.st = .running ∧ graphOf s v = none ∧ ∀ x, Tbl.find s.wgs v.wg = some x → vacqWaiters s x = []
  let goes (i : Instr) (u : State) (wid fid : Nat) (f : Frag) : Prop :=
    ∃ w', findFrag u wid fid = some (w', f.retire i (afterPc i f) false) ∧ w'.lasterr = 0
  (∀ (s : State) (c q k : Nat) (h : Word) (v : Warp) (g : Frag), handled s c h = some (q, k, v, g) →
    h.getLsbD 31 = true ∧ v.ctx = c ∧ v.ended = false ∧ (q, v) ∈ s.warps ∧ Tbl.find v.frags k = some g ∧ k = h.toNat % 8 ∧
    v.warpId.toNat = h.toNat / 2 ^ 4 % 2 ^ 20 ∧ (Tbl.read 0 v.gens k).toNat = h.toNat / 2 ^ 24 % 2 ^ 7) ∧
  (∀ (s : State) (c : Nat) (h : Word), h.getLsbD 31 = false ∨ (∀ p ∈ s.warps, p.2.ctx = c → p.2.warpId.toNat = h.toNat / 2 ^ 4 % 2 ^ 20 →
    p.2.ended = true ∨ Tbl.find p.2.frags (h.toNat % 8) = none ∨ (Tbl.read 0 p.2.gens (h.toNat % 8)).toNat ≠ h.toNat / 2 ^ 24 % 2 ^ 7) →
    handled s c h = none) ∧
  (∀ (v : Warp) (k : Nat), k < 8 → (handleOf v k).getLsbD 31 = true ∧ (handleOf v k).toNat % 16 = k ∧
    (handleOf v k).toNat / 2 ^ 4 % 2 ^ 20 = v.warpId.toNat ∧ (handleOf v k).toNat / 2 ^ 24 % 2 ^ 7 = (Tbl.read 0 v.gens k).toNat) ∧
  (∀ c ∈ ([.fmask, .fresReplay, .fresComplete, .fkill, .fpark] : List (SFmt → Instr)), ∀ t : SFmt, Whenever (c t) fun s wid fid w f =>
    handled s w.ctx (w.sreg t.aReg) = none → Completes s (c t) wid fid w f { w with lasterr := 1 }) ∧
  (∀ t : SFmt, Whenever (.fstate t) fun s wid fid w f =>
    (handled s w.ctx (w.sreg t.aReg) = none → Completes s (.fstate t) wid fid w f { (w.setSreg f.lanes t.d.toNat 0) with lasterr := 1 }) ∧
    (∀ q k v g, names s w t q k v g →
      Completes s (.fstate t) wid fid w f { (w.setSreg f.lanes t.d.toNat (entryWord v k g t.imm14.toNat)) with lasterr := 0 })) ∧
  (∀ t : SFmt, Whenever (.fmask t) fun s wid fid w f => ∀ q k v g, names s w t q k v g →
    let gives (m : LaneMask) : Prop := Completes s (.fmask t) wid fid w f { (w.setTriple f.lanes t.d.toNat m) with lasterr := 0 }
    (t.z = 0 → gives g.lanes) ∧ (t.z = 1 → g.fw = 0 → gives 0) ∧
    (t.z = 1 → g.fw ≠ 0 → ∀ bs, readVirt s { ctx := v.ctx, wg := none } (g.frame + 0x20) 12 = .ok bs → gives (BitVec.ofNat 96 (leNat bs)))) ∧
  (∀ c ∈ ([.fresReplay, .fresComplete] : List (SFmt → Instr)), ∀ t : SFmt, Whenever (c t) fun s wid fid w f => ∀ q k v g, names s w t q k v g →
    (g.st ≠ .parked → Completes s (c t) wid fid w f { w with lasterr := 2 }) ∧
    (g.st = .parked → t.z.toNat / 2 % 2 = 1 → w.triple t.bReg &&& (v.alive ||| ~~~v.lanes0) ≠ 0 →
      Completes s (c t) wid fid w f { w with lasterr := 3 })) ∧
  (∀ t : SFmt, t.z = 0 → Whenever (.fresReplay t) fun s wid fid w f => ∀ q k v g, names s w t q k v g → q ≠ wid → fit v g → calm s v f →
    Tbl.find s.warps q = some v → g.st = .parked → ∃ u v' g', Machine.exec (.fresReplay t) s = .next u ∧ goes (.fresReplay t) u wid fid f ∧
      findFrag u q k = some (v', g') ∧ g'.st = .ready ∧ g'.pc = g.pc ∧ g'.lanes = g.lanes ∧ g'.s = g.s ∧ g'.j = g.j ∧ g'.fw = 0 ∧
      g'.cause = .none ∧ g'.acq = true ∧ u.hbm = s.hbm ∧ (∀ c, Tbl.find u.ctxs v.ctx = some c → (q, k) ∉ c.tq) ∧
      (g.fw = 0 → ∃ r, g'.replay = some r ∧ r.lanes = g.lanes) ∧
      (g.fw ≠ 0 → ∀ bs, readVirt s { ctx := v.ctx, wg := none } (g.frame + 0x20) 12 = .ok bs → ∃ r, g'.replay = some r ∧
        r.lanes = BitVec.ofNat 96 (leNat bs))) ∧
  (∀ t : SFmt, t.z = 1 → Whenever (.fresComplete t) fun s wid fid w f => ∀ q k v g, names s w t q k v g → q ≠ wid → fit v g → calm s v f →
    Tbl.find s.warps q = some v → g.st = .parked →
    (g.fw = 0 → Completes s (.fresComplete t) wid fid w f { w with lasterr := 5 }) ∧
    (g.fw ≠ 0 → (frameInstr s v g).tooWide = true → Completes s (.fresComplete t) wid fid w f { w with lasterr := 4 }) ∧
    (g.fw ≠ 0 → (frameInstr s v g).tooWide = false → ∀ d n m (bs : Nat → Nat → List Byte), (frameInstr s v g).vDest = some (d, n) →
      readVirt s { ctx := v.ctx, wg := none } (g.frame + 0x20) 12 = .ok m →
      (∀ j l, j < n → l < 96 → readVirt s { ctx := v.ctx, wg := none } (g.frame + BitVec.ofNat 64 (2048 * j + (0x500 + 4 * l))) 4 = .ok (bs j l)) →
      ∃ u v' g', Machine.exec (.fresComplete t) s = .next u ∧ goes (.fresComplete t) u wid fid f ∧ findFrag u q k = some (v', g') ∧
        g'.st = .ready ∧ g'.pc = g.pc + BitVec.ofNat 64 (4 * (frameInstr s v g).size) ∧ g'.replay = none ∧ g'.acq = true ∧ g'.fw = 0 ∧
        (∀ r l, l < 96 → v'.vreg r l = if d ≤ r ∧ r < d + n ∧ (BitVec.ofNat 96 (leNat m)).getLsbD l = true
          then BitVec.ofNat 32 (leNat (bs (r - d) l)) else v.vreg r l))) ∧
  (∀ t : SFmt, Whenever (.fkill t) fun s wid _ w _ => ∀ q k v g, names s w t q k v g → q ≠ wid → Tbl.find s.warps q = some v →
    ∃ u, Machine.exec (.fkill t) s = .next u ∧ findFrag u q k = none ∧
      (∀ v', Tbl.find u.warps q = some v' → v'.alive &&& g.lanes = 0 ∧ Tbl.read 0 v'.gens k = Tbl.read 0 v.gens k + 1)) ∧
  (∀ t : SFmt, Whenever (.fpark t) fun s wid fid w f => ∀ q k v g, names s w t q k v g →
    (g.st = .parked → Completes s (.fpark t) wid fid w f { w with lasterr := 2 }) ∧
    (g.st = .ready → g.wait.pend = none → q ≠ wid → fit v g → Tbl.find s.warps q = some v → ∀ L,
      Tbl.find s.launches (frameLaunch s v) = some L →
      let n := (fetchAt s v g.pc).fw
      (∀ i, freeRun L n = some i → ∃ u v' g', Machine.exec (.fpark t) s = .next u ∧ findFrag u q k = some (v', g') ∧ g'.st = .parked ∧
        g'.cause = .brk ∧ g'.sub = t.imm14.setWidth 16 ∧ g'.pc = g.pc ∧ g'.lanes = g.lanes ∧ g'.fw = n ∧
        g'.frame = L.lrec.frame + BitVec.ofNat 64 (2048 * i)) ∧
      (freeRun L n = none → ∃ u v' g', Machine.exec (.fpark t) s = .next u ∧ findFrag u q k = some (v', g') ∧ g'.st = .stalled ∧
        g'.wkind = .frames ∧ g'.wait.pend.isSome = true ∧ g'.pc = g.pc ∧ g'.lanes = g.lanes))) ∧
  (∀ t : SFmt, Whenever (.hcrr t) fun s wid fid w f => ∀ c, Tbl.find s.ctxs w.ctx = some c →
    let gives (v : Word) : Prop := Machine.exec (.hcrr t) s = .next (settleIfRetired w.alive (goesOn { s with freeCtr := s.freeCtr + 1 }
      (.hcrr t) wid fid (w.setSreg f.lanes t.d.toNat v) f) wid)
    (t.imm14 = 0 → c.tq = [] → t.z = 0 → Completes s (.hcrr t) wid fid w f (w.setSreg f.lanes t.d.toNat 0)) ∧
    (t.imm14 = 0 → c.tq = [] → t.z = 1 → ∃ g : Frag, g.waitsIn f .stalled .hcrr 0 ∧
      Machine.exec (.hcrr t) s = .next (withFrag { s with freshId := s.freshId + 1 } wid fid w g)) ∧
    (t.imm14 = 0 → ∀ q k rest v, c.tq = (q, k) :: rest → Tbl.find s.warps q = some v → ∃ lq, Machine.exec (.hcrr t) s = .next (settleIfRetired
      w.alive (goesOn { s with ctxs := Tbl.put s.ctxs w.ctx { c with tq := rest } } (.hcrr t) wid fid
        { (w.setSreg f.lanes t.d.toNat (handleOf v k)) with tqLast := lq } f) wid)) ∧
    (t.imm14 = 1 → gives (BitVec.ofNat 32 c.tq.length)) ∧ (t.imm14 = 2 → gives w.lasterr) ∧ (t.imm14 = 3 → gives (BitVec.ofNat 32 w.ctx)) ∧
    (t.imm14 = 4 → gives c.events) ∧ (t.imm14 = 5 → w.tqLast = none → gives 0) ∧ (t.imm14 = 6 → gives c.tqmask) ∧
    (t.imm14 = 5 → ∀ n L, w.tqLast = some n → Tbl.find s.launches n = some L → gives (BitVec.ofNat 32 (L.lrec.frames - L.taken.length))) ∧
    (7 ≤ t.imm14.toNat → gives 0)) ∧
  (∀ t : SFmt, t.imm14 = 6 → Whenever (.hcrw t) fun s wid fid w f => ∀ c, Tbl.find s.ctxs w.ctx = some c →
    Machine.exec (.hcrw t) s = .next (goesOn { s with ctxs := Tbl.put s.ctxs w.ctx { c with tqmask := w.sreg t.aReg } } (.hcrw t) wid fid w f))

/-- R304 to R307, R310, R311, Tables 15.2 and 15.3a: taking an exception at level U. With a run of FW frames free, the fragment parks: its
entry holds cause, subcode, FW and FRAME, its PC and lanes stay, every register and tile stays; a frame of one record is written as Table
15.2 lays it out, and nothing else is stored; the handle joins the trap queue where TQMASK lets its cause in. With frames short the
fragment stalls with its reach and its latches, or, where an effect has been taken, waits for frames with the park pending, which is made
once they are free. A warp of level H ends instead, with an event, and leaves every other warp as it is. -/
def Obligations.ExceptionEntry : Prop :=
  let free (L : Launch) (n k : Nat) : Prop := k + n ≤ L.lrec.frames ∧ ∀ j, j < n → Tbl.find L.taken (k + j) = none
  let parks (s u : State) (wid fid : Nat) (w : Warp) (f : Frag) (L : Launch) (p : ParkRec) (k : Nat) : Prop := ∃ w' g L',
    findFrag u wid fid = some (w', g) ∧ g.st = .parked ∧ g.cause = p.cause ∧ g.sub = p.sub ∧ g.fw = p.fw ∧
    g.frame = L.lrec.frame + BitVec.ofNat 64 (2048 * k) ∧ g.pc = f.pc ∧ g.lanes = f.lanes ∧ g.s = f.s ∧ g.j = f.j ∧ g.pidx = f.pidx ∧
    g.tokw = 0 ∧ g.wkind = .none ∧ g.latches = [] ∧ w'.sregs = w.sregs ∧ w'.vregs = w.vregs ∧ w'.acc = w.acc ∧ w'.tile = w.tile ∧
    w'.pcr = w.pcr ∧ (f.tokHeld = none → w'.tokens = w.tokens ∧ ∀ j, j ≠ fid → Tbl.find w'.frags j = Tbl.find w.frags j) ∧
    Tbl.find u.launches (frameLaunch s w) = some L' ∧ L'.lrec = L.lrec ∧ (∀ j, j < p.fw → Tbl.find L'.taken (k + j) = some (some wid))
  (∀ (s : State) (wid fid : Nat) (w : Warp) (f : Frag) (i : Instr) (cause : Cause) (sub : Nat) (lanes : LaneMask) (info : Tbl Word)
    (a : DWord) (late : Bool) (L : Launch), findFrag s wid fid = some (w, f) → w.level = .u →
    Tbl.find s.launches (frameLaunch s w) = some L →
    let p := parkRec s w fid f i cause sub lanes info a
    let u := takeTrap s wid fid i cause sub lanes info a late
    (p.cause = cause ∧ p.sub = BitVec.ofNat 16 sub ∧ p.clk = s.clock.clk ∧ (cause = .ill ∧ sub = 0 → p.fw = 1 ∧ p.lanes = w.act f none) ∧
      (¬ (cause = .ill ∧ sub = 0) → p.fw = i.fw ∧ p.lanes = lanes)) ∧
    ((∀ k, ¬ free L p.fw k) → ∃ w' g, findFrag u wid fid = some (w', g) ∧ u.hbm = s.hbm ∧ u.launches = s.launches ∧ u.ctxs = s.ctxs ∧
      w'.sregs = w.sregs ∧ w'.vregs = w.vregs ∧ g.pc = f.pc ∧ g.lanes = f.lanes ∧
      (late = false → f.st = .running → g.st = .stalled ∧ g.wkind = .frames ∧ g.reach = f.reach ∧ g.latches = f.latches) ∧
      (late = true → g.st = .stalled ∧ g.wkind = .frames ∧ g.wait.pend = some p)) ∧
    (∀ k, free L p.fw k → (∀ j, j < k → ¬ free L p.fw j) → parks s u wid fid w f L p k ∧
      (cause ≠ .page → cause ≠ .prot → ∀ c, Tbl.find s.ctxs w.ctx = some c → p.fw = 1 →
        (∀ q, q < 2048 → ∃ z, translate s w.ctx ((L.lrec.frame + BitVec.ofNat 64 (2048 * k)).toNat + q) .st false false = .ok z) →
        (L.lrec.frame + BitVec.ofNat 64 (2048 * k)).toNat + 2048 ≤ 2 ^ 57 → ∃ c', Tbl.find u.ctxs w.ctx = some c' ∧
          c'.tq = (if c.tqmask.getLsbD cause.code then c.tq ++ [(wid, fid)] else c.tq)) ∧
      (∀ m : Nat → Nat, p.fw = 1 → f.tokHeld = none → s.sigs = [] → fid < 8 → w.ctx < 2 ^ 32 →
        (L.lrec.frame + BitVec.ofNat 64 (2048 * k)).toNat + 2048 ≤ 2 ^ 57 →
        (∀ q, q < 2048 → translate s w.ctx ((L.lrec.frame + BitVec.ofNat 64 (2048 * k)).toNat + q) .st false false = .ok (m q)) →
        (∀ x y, x < 2048 → y < 2048 → m x = m y → x = y) →
        let word (o : Nat) : Nat := leNat ((List.range 4).map fun j => Memory.byte u.hbm (m (o + j)))
        (∀ z, (∀ q, q < 2048 → z ≠ m q) → Memory.byte u.hbm z = Memory.byte s.hbm z) ∧
        word 0 = cause.code * 2 ^ 24 + 2 ^ 16 + sub % 2 ^ 16 ∧ word 4 = w.warpId.toNat * 2 ^ 12 + fid ∧
        word 8 + 2 ^ 32 * word 12 = f.pc.toNat ∧ word 0x1C = f.pidx.toNat ∧
        word 0x20 + 2 ^ 32 * word 0x24 + 2 ^ 64 * word 0x28 = p.lanes.toNat ∧ word 0x30 = a.toNat / 2 ^ 32 ∧
        word 0x34 + 2 ^ 32 * word 0x38 = s.clock.clk.toNat ∧ word 0x3C = w.ctx ∧
        ((∀ why gs, i ≠ .unassignedEncoding why gs) → ∀ j, j < 3 → word (0x10 + 4 * j) = (i.encode.getD j 0).toNat) ∧
        (∀ w' g, findFrag u wid fid = some (w', g) → ∀ e, e < 12 → word (0x40 + 4 * e) = (entryWord w fid g e).toNat) ∧
        (∀ l, l < 96 → word (0x500 + 4 * l) = 0 ∧ word (0x680 + 4 * l) = (Tbl.read 0 info l).toNat)))) ∧
  (∀ (s : State) (wid fid : Nat) (w : Warp) (f : Frag) (i : Instr) (cause : Cause) (sub : Nat) (lanes : LaneMask) (info : Tbl Word)
    (a : DWord) (late : Bool) (c : Ctx), findFrag s wid fid = some (w, f) → w.level = .h → w.errs = [] → Tbl.find s.ctxs w.ctx = some c →
    let u := takeTrap s wid fid i cause sub lanes info a late
    u.hbm = s.hbm ∧ (∀ k, k ≠ wid → Tbl.find u.warps k = Tbl.find s.warps k) ∧
    (∀ w', Tbl.find u.warps wid = some w' → w'.alive = 0 ∧ w'.frags = []) ∧ ∃ c', Tbl.find u.ctxs w.ctx = some c' ∧ c.events + 1 = c'.events) ∧
  (∀ (s : State) (w : Warp) (f : Frag) (p : ParkRec) (L : Launch), findFrag s s.ev.a s.ev.b = some (w, f) → f.wait.pend = some p → 0 < p.fw →
    w.resid = .resident → ctxHalted s w.ctx 400 = false → w.level = .u → Tbl.find s.launches (frameLaunch s w) = some L →
    ((∀ k, ¬ free L p.fw k) → Machine.exec .pendingPark s = .next s) ∧
    (∀ k, free L p.fw k → (∀ j, j < k → ¬ free L p.fw j) → ∃ u, Machine.exec .pendingPark s = .next u ∧
      parks s u s.ev.a s.ev.b w f L p k))

/-- R10, R14, R26, R28, R36, R98, R312: what every instruction of a fragment checks before its own effect, in this order: the level that its
OPC asks for, the core that may run it, some active lane (but for the eight that act on the whole fragment), a latch operand that is
there and NW kept to its rule, and its vector registers below T. With no lane active it completes and changes nothing else, but that a
producing one, which is the most recent producer from then on, leaves register D of every lane as its latch (a compare the bits of its
triple). ILL with subcode 0 parks the active lanes that GE 0 would give (R371). -/
def Obligations.SharedChecks : Prop :=
  ∀ (i : Instr) (s : State) (wid fid : Nat) (w : Warp) (f : Frag),
    (match i.shape with
     | .c _ _ _ | .cx _ _ _ | .s _ _ _ | .v _ _ _ | .vm _ _ _ => True
     | _ => False) →
    s.focus = some (.frag wid fid) → findFrag s wid fid = some (w, f) → f.hidden = [] → ((∃ fn t, i = .vgldl fn t) → f.pidx = 0) →
    let whole : Prop := match i with
      | .iff _ | .els _ | .endif _ | .loop _ | .endloop _ | .rejoin _ | .bar _ | .barcl _ => True
      | _ => False
    let handler := i.opc = 0xE0 ∨ i.opc = 0xE2
    let mainOnly := (0x80 ≤ i.opc ∧ i.opc ≤ 0x85) ∨ (0x90 ≤ i.opc ∧ i.opc ≤ 0x92)
    let act := w.act f i.guard
    (handler → w.level = .u → Faults s i wid fid w f .priv 0 [] 0) ∧
    ((handler → w.level = .h) →
      (mainOnly → w.ctl = true → Faults s i wid fid w f .unavail 0 [] 0) ∧
      ((mainOnly → w.ctl = false) →
        (act = 0 → ¬ whole → f.tokHeld = none →
          let leaves (wide : Bool) (l : Tbl DWord) : Prop := Machine.exec i s = .next (goesOn { s with freeCtr := s.freeCtr + latchDraws wide }
            i wid fid w { f with latches := (l :: f.latches).take 4 })
          (latchClass i.opc ≠ .producing → Machine.exec i s = .next (goesOn s i wid fid w f)) ∧
          (∀ c t, i = .vcmp c t → leaves false (bitLatch s.freeCtr (w.triple t.d.toNat))) ∧
          (∀ opc fn t, i.shape = .v opc fn t → (∀ c, i ≠ .vcmp c t) → latchClass i.opc = .producing →
            leaves i.latchWide (latchOf w i.latchWide s.freeCtr t.d.toNat []))) ∧
        (act ≠ 0 → f.replay = none →
          (∀ opc fn t, i.shape = .v opc fn t →
            f.latches.length < t.a.latchNo ∨ f.latches.length < t.b.latchNo ∨ f.latches.length < t.c.latchNo →
            Faults s i wid fid w f .ill 0 [] 0) ∧
          (∀ opc fn t, i.shape = .vm opc fn t → f.latches.length < t.a.latchNo ∨ f.latches.length < t.c.latchNo →
            Faults s i wid fid w f .ill 0 [] 0) ∧
          (i.nw = true → w.alv f &&& ~~~w.level0 ≠ 0 → Faults s i wid fid w f .ill 0 [] 0) ∧
          ((mkIssue i wid fid w f).badLatch = false → (mkIssue i wid fid w f).badNw = false → i.ownRegx = false →
            (∃ p ∈ i.vSrc ++ i.vDst, w.top < p.1 + p.2) → Faults s i wid fid w f .regx 0 [] 0))))

/-! ## The pump house: its instructions, queues and messages -/

/-- R338 to R340, Tables 17.1 to 17.3: outside machine mode every custom instruction takes exception 2; in it, each takes the exception of
Table 17.3 with its mtval and no other effect, or writes rd (x0 discards) and goes on 4 bytes behind: a command copied to SRAM, a head
raised, a bit field, signals taken or waited for, a launch handed to the dispatcher, a capability checked or sealed. -/
def Obligations.PumpHouseInstructions : Prop :=
  let on (s : State) (k : Nat) (c : PhCore) : Prop := s.focus = some (.ph k) ∧ Tbl.find s.ph k = some c ∧ c.machine = true
  let traps (i : Instr) (s : State) (k : Nat) (c : PhCore) (cause : Nat) (tval : DWord) : Prop := ∃ c', Machine.exec i s =
      .next { s with ph := Tbl.put s.ph k c' } ∧ c'.machine = true ∧ c'.mcause = BitVec.ofNat 64 cause ∧ c'.mepc = c.pc ∧ c'.mtval = tval ∧
      c'.pc = c.mtvec &&& ~~~3 ∧ c'.x = c.x ∧ c'.sig = c.sig ∧ c'.mtvec = c.mtvec
  let past (c : PhCore) : PhCore := { c with pc := c.pc + 4, wait := none, csr := Tbl.write 0 c.csr 0xB02 (Tbl.read 0 c.csr 0xB02 + 1) }
  let gives (i : Instr) (s u : State) (k : Nat) (rd : BitVec 5) (v : DWord) : Prop :=
    Machine.exec i s = .next { u with ph := Tbl.modify u.ph k fun c => past (c.setReg rd v) }
  let inSram (a : DWord) (n : Nat) : Prop := a.toNat % n = 0 ∧ a.toNat + n ≤ 0x400000
  let queue (s : State) (v : DWord) (q : Queue) : Prop := v.toNat < 4096 ∧ Tbl.find s.queues v.toNat = some q ∧ q.used = true
  (∀ (c : PhCore) (n m : BitVec 5) (v : DWord), (c.setReg n v).reg m = if m = n ∧ n ≠ 0 then v else c.reg m) ∧
  (∀ (s : State) (a : Nat) (bs : List Byte), (storeSram s a bs).sram = Memory.stores s.sram a bs ∧ (storeSram s a bs).hbm = s.hbm ∧
    ∀ k c, Tbl.find s.ph k = some c → ∃ r, Tbl.find (storeSram s a bs).ph k = some { c with resv := r } ∧ (r = c.resv ∨ r = none)) ∧
  (∀ q : Queue, q.retired.head = q.head + 1 ∧ q.retired.tail = q.tail ∧ q.retired.done = q.done ∧ q.retired.err = q.err ∧
    (∀ n, q.run = some (.handed n) → q.retired.run = some (.launch n q.head)) ∧ (q.run = none → q.retired.run = none)) ∧
  (∀ (s : State) (k : Nat) (c : PhCore) (rd rs1 rs2 : BitVec 5), s.focus = some (.ph k) → Tbl.find s.ph k = some c → c.machine = false →
    ∀ i ∈ ([.phring rd rs1 rs2, .phretire rd rs1, .phbfx rd rs1 rs2, .phbfxS rd rs1 rs2, .phwait rd rs1 rs2, .phdisp rd rs1 rs2,
      .phunseal rd rs1, .phseal rd rs1] : List Instr), traps i s k c 2 ((i.encode.headD 0).setWidth 64)) ∧
  (∀ (s : State) (k : Nat) (c : PhCore) (rd rs1 rs2 : BitVec 5), on s k c →
    let v1 := c.reg rs1
    let v2 := c.reg rs2
    ((∀ q, ¬ queue s v1 q) → traps (.phring rd rs1 rs2) s k c 24 v1 ∧ traps (.phretire rd rs1) s k c 24 v1) ∧
    (∀ q, queue s v1 q →
      (¬ inSram v2 64 → traps (.phring rd rs1 rs2) s k c 27 v2) ∧
      (inSram v2 64 → q.head = q.tail → gives (.phring rd rs1 rs2) s s k rd (-1)) ∧
      (inSram v2 64 → q.head ≠ q.tail → ∀ a, a = q.base + BitVec.ofNat 64 (64 * (q.head.toNat % q.slots)) →
        (tableRead s q.owner a 64 = none → traps (.phring rd rs1 rs2) s k c 25 a) ∧
        (∀ bs, tableRead s q.owner a 64 = some bs →
          gives (.phring rd rs1 rs2) s (storeSram s v2.toNat bs) k rd (q.head.setWidth 64))) ∧
      (q.head = q.tail → traps (.phretire rd rs1) s k c 24 v1) ∧
      (q.head ≠ q.tail → gives (.phretire rd rs1) s { s with queues := Tbl.put s.queues v1.toNat q.retired } k rd
        ((q.head + 1).setWidth 64))) ∧
    (∀ pos width, v2.toNat = pos + 256 * (width - 1) → pos < 64 → 1 ≤ width → width ≤ 64 →
      (64 < pos + width → traps (.phbfx rd rs1 rs2) s k c 26 v2 ∧ traps (.phbfxS rd rs1 rs2) s k c 26 v2) ∧
      (pos + width ≤ 64 →
        gives (.phbfx rd rs1 rs2) s s k rd (BitVec.ofNat 64 (v1.toNat / 2 ^ pos % 2 ^ width)) ∧
        gives (.phbfxS rd rs1 rs2) s s k rd ((BitVec.ofNat width (v1.toNat / 2 ^ pos)).signExtend 64))) ∧
    (v2.toNat / 2 ^ 6 % 4 ≠ 0 ∨ v2.toNat / 2 ^ 14 ≠ 0 → traps (.phbfx rd rs1 rs2) s k c 26 v2 ∧ traps (.phbfxS rd rs1 rs2) s k c 26 v2) ∧
    (c.sig &&& v1 ≠ 0 → Machine.exec (.phwait rd rs1 rs2) s = .next { s with
      ph := Tbl.put s.ph k (past { c.setReg rd (c.sig &&& v1) with sig := c.sig &&& ~~~v1 }) }) ∧
    (c.sig &&& v1 = 0 → c.wait = none → Machine.exec (.phwait rd rs1 rs2) s = .next { s with
      ph := Tbl.put s.ph k { c with wait := some (rd.toNat, v2, clkNat s) } })) ∧
  (∀ (s : State) (c : PhCore) (rd rs1 rs2 : BitVec 5) (t : Nat) (limit : DWord), Tbl.find s.ph s.ev.a = some c → c.wait = some (rd.toNat, limit, t) →
    (phWord s s.ev.a).bind decodePh = some (.phwait rd rs1 rs2) → c.sig &&& c.reg rs1 = 0 →
    (limit ≠ 0 → 5 * t + 7 * limit.toNat ≤ 5 * clkNat s → Machine.exec .phwaitTimeout s = .next { s with
      ph := Tbl.put s.ph s.ev.a (past (c.setReg rd 0)) }) ∧
    (limit = 0 ∨ 5 * clkNat s < 5 * t + 7 * limit.toNat → Machine.exec .phwaitTimeout s = .next s)) ∧
  (∀ (s : State) (k : Nat) (c : PhCore) (rd rs1 rs2 : BitVec 5) (q : Queue) (x : Ctx) (p : Part), on s k c → queue s (c.reg rs2) q →
    Tbl.find s.ctxs q.owner = some x → Tbl.find s.parts x.desc.part = some p →
    let buf := c.reg rs1
    let r := handedRecord s q.owner (Memory.bytes s.sram buf.toNat 256)
    (¬ inSram buf 256 → traps (.phdisp rd rs1 rs2) s k c 27 buf) ∧
    (inSram buf 256 → ∀ o, r = .error o → traps (.phdisp rd rs1 rs2) s k c 28 (BitVec.ofNat 64 o)) ∧
    (inSram buf 256 → ∀ y, r = .ok y → 64 ≤ p.intake.length → gives (.phdisp rd rs1 rs2) s s k rd 1) ∧
    (inSram buf 256 → ∀ y, r = .ok y → p.intake.length < 64 → y.nodes = [] → ∃ u c' p' L, Machine.exec (.phdisp rd rs1 rs2) s = .next u ∧
      Tbl.find u.ph k = some c' ∧ c'.pc = c.pc + 4 ∧ c'.reg rd = 0 ∧ Tbl.find u.parts x.desc.part = some p' ∧
      p'.intake = p.intake ++ [s.freshId] ∧ Tbl.find u.launches s.freshId = some L ∧ L.lrec = y.lrec ∧ L.ctx = q.owner ∧ L.cls = q.cls ∧
      L.nextWg = 0 ∧ ∃ q', Tbl.find u.queues (c.reg rs2).toNat = some q' ∧ q'.head = q.head ∧ q'.run = some (.handed s.freshId))) ∧
  (∀ (s : State) (k : Nat) (bs : List Byte), (∃ o, handedRecord s k bs = .error o) ↔ ∃ o, lowestBad (kernelFaults bs (parseRecord bs) ++ launchFaults bs (parseRecord bs) none) = some o) ∧
  (∀ (s : State) (k : Nat) (c : PhCore) (rd rs1 : BitVec 5), on s k c →
    let a := c.reg rs1
    let cap := Memory.bytes s.sram a.toNat 32
    (¬ inSram a 32 → traps (.phunseal rd rs1) s k c 27 a ∧ traps (.phseal rd rs1) s k c 27 a) ∧
    (inSram a 32 →
      gives (.phseal rd rs1) s (storeSram s a.toNat (sealCap s.board.capKey cap)) k rd 0 ∧
      (sealCap s.board.capKey cap ≠ cap → gives (.phunseal rd rs1) s s k rd 1) ∧
      (sealCap s.board.capKey cap = cap → natAt cap 8 8 / 2 ^ 51 % 2 = 0 → natAt cap 8 8 / 2 ^ 42 % 64 = 0 →
        (capQueue s cap = none → gives (.phunseal rd rs1) s s k rd 3) ∧
        (∀ q, capQueue s cap = some q → gives (.phunseal rd rs1) s s k rd (if natAt cap 8 8 / 2 ^ 48 % 2 = 1 then 0 else 4)))))

/-- R286 to R288, R341, R342, R356, Table 17.4: a wake write raises its queue's tail or is rejected and counted; the queue that stands first
runs the command at its head: NOP, SIGNAL, WAIT, FILL, WAKE and LAUNCH, each of which completes with the head and DONE raised and TDONE set
to TIME, waits, or stops its queue with the error of R342 and the head on it. -/
def Obligations.QueueCommands : Prop :=
  let runs (s : State) (q : Queue) (b : List Byte) (op : Nat) : Prop := s.board.boot = 4 ∧ picks s s.ev.a = true ∧
    Tbl.find s.queues s.ev.a = some q ∧ headSlot s q = some b ∧ natAt b 0 1 = op ∧ natAt b 1 1 ≤ 1 ∧ natAt b 2 6 = 0
  let ends (s u : State) (q : Queue) (b : List Byte) : Prop := ∃ q', Tbl.find u.queues s.ev.a = some q' ∧ q'.head = q.head + 1 ∧
    q'.tail = q.tail ∧ q'.done = q.done + 1 ∧ q'.tdone = s.clock.time ∧ q'.run = none ∧
    q'.st = (if q.head + 1 = q.tail then .idle else .running) ∧ q'.err = q.err ∧
    u.board.msix = s.board.msix ++ (if natAt b 1 1 = 1 then [32 + s.ev.a % 2016] else [])
  let stops (i : Instr) (s : State) (n : Nat) : Prop := ∃ u q q', Machine.exec i s = .next u ∧ Tbl.find s.queues s.ev.a = some q ∧
    Tbl.find u.queues s.ev.a = some q' ∧ q'.st = .error ∧ q'.err = BitVec.ofNat 8 n ∧ q'.head = q.head ∧ q'.run = none ∧
    u.hbm = s.hbm ∧ u.host = s.host ∧ u.wstore = s.wstore
  (∀ (s : State) (k : Nat), picks s k = true → ∃ q, (k, q) ∈ s.queues ∧ q.used = true ∧ q.head ≠ q.tail ∧ q.run = none ∧
    ∀ p ∈ s.queues, runnable s p.2 = true → intakeWait s p.2 = false → q.cls.rank ≤ p.2.cls.rank) ∧
  (∀ i ∈ ([.launch, .fill, .signal, .waitCommand, .nopCommand, .wake] : List Instr), ∀ (s : State) (q : Queue), s.board.boot = 4 →
    picks s s.ev.a = true → Tbl.find s.queues s.ev.a = some q → q.run = none →
    (headSlot s q = none → stops i s 4) ∧
    (∀ b, headSlot s q = some b → natAt b 0 1 = 0 ∨ 6 < natAt b 0 1 ∨ 1 < natAt b 1 1 ∨ natAt b 2 6 ≠ 0 → stops i s 1)) ∧
  (∀ (s : State) (q : Queue) (b : List Byte), runs s q b 5 → q.run = none → ∃ u, Machine.exec .nopCommand s = .next u ∧ ends s u q b ∧ u.hbm = s.hbm ∧
    u.host = s.host ∧ u.warps = s.warps) ∧
  (∀ (s : State) (q : Queue) (b : List Byte) (c : Ctx), runs s q b 3 → q.run = none → Tbl.find s.ctxs q.owner = some c →
    let a := dwordAt b 8
    let v := (b.drop 16).take 8
    (syncAddr c.desc a = false → stops .signal s 3) ∧
    (syncAddr c.desc a = true → pathOf a = 5 → ∃ u, Machine.exec .signal s = .next u ∧ ends s u q b ∧ u.hbm = s.hbm ∧
      u.host = Memory.stores s.host (offOf a) v) ∧
    (syncAddr c.desc a = true → pathOf a = 0 → ∀ t, writeVirt s { ctx := q.owner, wg := none } a v = .ok t → t.queues = s.queues → t.board = s.board →
      t.clock = s.clock → ∃ u, Machine.exec .signal s = .next u ∧ ends s u q b ∧ u.hbm = t.hbm ∧ u.host = s.host)) ∧
  (∀ (s : State) (q : Queue) (b : List Byte) (c : Ctx), runs s q b 4 → q.run = none → Tbl.find s.ctxs q.owner = some c →
    let a := dwordAt b 8
    (syncAddr c.desc a = false → stops .waitCommand s 3) ∧
    (syncAddr c.desc a = true → ∀ x, waitWord s q.owner a = some x →
      (natAt b 16 8 ≤ x → ∃ u, Machine.exec .waitCommand s = .next u ∧ ends s u q b) ∧
      (x < natAt b 16 8 → ∃ u q', Machine.exec .waitCommand s = .next u ∧ Tbl.find u.queues s.ev.a = some q' ∧ q'.head = q.head ∧ q'.st = .running ∧
        q'.run = some (.wait (clkNat s) a (dwordAt b 16) (natAt b 24 8))))) ∧
  (∀ (s : State) (q : Queue) (t limit : Nat) (a v : DWord), Tbl.find s.queues s.ev.a = some q → q.run = some (.wait t a v limit) →
    (∀ x, waitWord s q.owner a = some x → v.toNat ≤ x → ∃ u q', Machine.exec .waitCommandRecheck s = .next u ∧
      Tbl.find u.queues s.ev.a = some q' ∧ q'.head = q.head + 1 ∧ q'.done = q.done + 1 ∧ q'.run = none) ∧
    (∀ x, waitWord s q.owner a = some x → x < v.toNat → Machine.exec .waitCommandRecheck s = .next s) ∧
    (limit ≠ 0 → t + 2100 * limit ≤ clkNat s → stops .waitCommandTimeout s 5) ∧
    (limit = 0 ∨ clkNat s < t + 2100 * limit → Machine.exec .waitCommandTimeout s = .next s)) ∧
  (∀ (s : State) (q : Queue) (b : List Byte) (c : Ctx), runs s q b 2 → q.run = none → Tbl.find s.ctxs q.owner = some c →
    let src := dwordAt b 8
    let dst := natAt b 16 8
    let len := natAt b 24 8
    (fillOk c.desc src dst len = false → stops .fill s 3) ∧
    (fillOk c.desc src dst len = true → grantBusy s (dst / 2 ^ 29) = false → ∀ bs, tableRead s q.owner src len = some bs →
      ∃ u, Machine.exec .fill s = .next u ∧ ends s u q b ∧ u.wstore = Memory.stores s.wstore dst bs ∧ u.hbm = s.hbm) ∧
    (fillOk c.desc src dst len = true → grantBusy s (dst / 2 ^ 29) = true → ∃ u q', Machine.exec .fill s = .next u ∧ u.wstore = s.wstore ∧
      Tbl.find u.queues s.ev.a = some q' ∧ q'.head = q.head ∧ q'.run = some (.fill (dst / 2 ^ 29) src dst len))) ∧
  (∀ (s : State) (q : Queue) (b : List Byte), runs s q b 6 → q.run = none →
    let dev := natAt b 8 4
    let a := dwordAt b 16
    (143 < dev ∨ 2 ^ 57 ≤ a.toNat ∨ a.toNat % 64 ≠ 0 → stops .wake s 3) ∧
    (dev ≤ 143 → a.toNat < 2 ^ 57 → a.toNat % 64 = 0 → ∀ bs, tableRead s q.owner a 64 = some bs → peerWay s q.owner dev = .links →
      ∃ u h, Machine.exec .wake s = .next u ∧ ends s u q b ∧ u.net.outbox = s.net.outbox ++ [(h, bs)] ∧ h.toNat % 256 = 7 ∧
        h.toNat / 2 ^ 16 % 2 ^ 13 = 64 ∧ h.toNat / 2 ^ 32 % 2 ^ 9 = dev)) ∧
  (∀ (s : State) (q : Queue) (b bs : List Byte) (c : Ctx) (p : Part) (y : Checked), runs s q b 1 → q.run = none → q.cls ≠ .d → q.cls ≠ .v →
    Tbl.find s.ctxs q.owner = some c → Tbl.find s.parts c.desc.part = some p → (dwordAt b 8).toNat % 256 = 0 →
    tableRead s q.owner (dwordAt b 8) 256 = some bs →
    (dwordAt b 16 ≠ 0 → stops .launch s 1) ∧
    (dwordAt b 16 = 0 → ∀ o, checkRecord s q.owner bs = .error o → stops .launch s 2) ∧
    (dwordAt b 16 = 0 → checkRecord s q.owner bs = .ok y → classAllowed c.desc q.cls = false → stops .launch s 2) ∧
    (dwordAt b 16 = 0 → checkRecord s q.owner bs = .ok y → classAllowed c.desc q.cls = true → 64 ≤ p.intake.length →
      Machine.exec .launch s = .next s) ∧
    (dwordAt b 16 = 0 → checkRecord s q.owner bs = .ok y → classAllowed c.desc q.cls = true → p.intake.length < 64 → y.nodes = [] →
      ∃ u L q' p', Machine.exec .launch s = .next u ∧ Tbl.find u.launches s.freshId = some L ∧ L.lrec = y.lrec ∧ L.ctx = q.owner ∧ L.cls = q.cls ∧
        L.nextWg = 0 ∧ L.queue = some s.ev.a ∧ Tbl.find u.queues s.ev.a = some q' ∧ q'.head = q.head ∧ q'.run = some (.launch s.freshId q.head) ∧
        Tbl.find u.parts c.desc.part = some p' ∧ p'.intake = p.intake ++ [s.freshId] ∧ u.warps = s.warps)) ∧
  (∀ (s : State), s.ev.data.length = 64 → s.ev.a % 64 = 0 →
    let cap := s.ev.data.take 32
    let tail := BitVec.ofNat 32 (natAt s.ev.data 32 4)
    let rejects : Prop := ∃ u, Machine.exec .wakeWrite s = .next u ∧ u.queues = s.queues ∧ u.board.wrej = s.board.wrej + 1 ∧
      u.board.wrejh = s.board.wrejh + 1
    (s.board.boot ≠ 4 ∨ sealCap s.board.capKey cap ≠ cap ∨ (∃ x ∈ s.ev.data.drop 36, x ≠ 0) ∨ capQueue s cap = none ∨
      natAt cap 8 8 / 2 ^ 48 % 2 = 0 → rejects) ∧
    (∀ q, capQueue s cap = some q → q.slots < (tail - q.tail).toNat ∨ q.slots < (tail - q.head).toNat → rejects) ∧
    (∀ q, s.board.boot = 4 → sealCap s.board.capKey cap = cap → (∀ x ∈ s.ev.data.drop 36, x = 0) → natAt cap 8 8 / 2 ^ 51 % 2 = 0 →
      natAt cap 8 8 / 2 ^ 42 % 64 = 0 → capQueue s cap = some q → natAt cap 8 8 / 2 ^ 48 % 2 = 1 → (tail - q.tail).toNat ≤ q.slots →
      (tail - q.head).toNat ≤ q.slots → ∃ u q', Machine.exec .wakeWrite s = .next u ∧ Tbl.find u.queues (capQid cap) = some q' ∧ q'.tail = tail ∧
        q'.head = q.head ∧ u.board.wrej = s.board.wrej ∧ (q.st = .idle → tail ≠ q.tail → q'.st = .running) ∧ u.hbm = s.hbm))

/-- R283, R284, R286, R342, R343, R357, Tables 14.2 to 14.4, 17.5 and 17.6: the answer to a message of a ring (STATUS, the tag, the results,
MHEAD raised, the ring's vector); a type that is none is refused with STATUS 2; and the messages on contexts, partitions and queues: made,
changed, freed, each refused with STATUS 1 and nothing changed where the spec says so. The operands' places are the model's (log 9). -/
def Obligations.ContextAndQueueMessages : Prop :=
  let comes (s : State) (ty : Nat) (m : List Byte) : Prop :=
    s.board.boot = 4 ∧ messageAt s s.ev.a = some m ∧ natAt m 0 2 = ty ∧ natAt m 2 2 = 0
  let answers (i : Instr) (s : State) (m : List Byte) (st : Nat) (res : List Byte) (t : State) : Prop :=
    Machine.exec i s = .next (answerRing s.ev.a m { status := st, results := res, state := t })
  let n (m : List Byte) (k : Nat) : Nat := natAt m (8 + 8 * k) 8
  (∀ (ring : Nat) (m : List Byte) (p : Reply), m.length = 128 →
    let u := answerRing ring m p
    let r := ringOf p.state ring
    let a := r.abase.toNat + 128 * (r.mhead.toNat % r.mslots.toNat)
    (ringOf u ring).mhead = r.mhead + 1 ∧ (ringOf u ring).mtail = r.mtail ∧ u.board.msix = p.state.board.msix ++ [ring] ∧
    Memory.le u.host a 4 = p.status % 2 ^ 32 ∧ Memory.bytes u.host (a + 4) 4 = (m.drop 4).take 4 ∧
    (∀ i, i < 120 → i < p.results.length → Memory.byte u.host (a + 8 + i) = p.results.getD i 0) ∧
    (∀ q, q < a ∨ a + 128 ≤ q → Memory.byte u.host q = Memory.byte p.state.host q) ∧ u.hbm = p.state.hbm ∧ u.queues = p.state.queues ∧
    u.ctxs = p.state.ctxs ∧ u.parts = p.state.parts ∧ u.warps = p.state.warps) ∧
  (∀ i ∈ ([.ctxnew, .ctxset, .ctxfree, .partset, .qcreate, .qfree, .qadminPause, .qadminResume, .qadminReset, .qstat, .map, .unmap, .protect,
      .pgreg, .pgans, .handler, .peergrant, .kill, .evread, .resync, .fwload, .fwswap, .fwswapRollback, .attest, .xlate, .ethring, .timeset,
      .ptpcfg] : List Instr), ∀ (s : State) (m : List Byte), s.board.boot = 4 →
    (messageAt s s.ev.a = none → Machine.exec i s = .next s) ∧
    (messageAt s s.ev.a = some m → natAt m 0 2 = 0 ∨ 25 < natAt m 0 2 ∨ natAt m 2 2 ≠ 0 → answers i s m 2 [] s)) ∧
  (∀ (s : State) (m : List Byte), comes s 1 m →
    let bs := Memory.bytes s.host (n m 1) 256
    (1024 ≤ n m 0 ∨ (Tbl.find s.ctxs (n m 0)).isSome = true ∨ badDesc bs = true → answers .ctxnew s m 1 [] s) ∧
    (n m 0 < 1024 → Tbl.find s.ctxs (n m 0) = none → badDesc bs = false → ∃ c, answers .ctxnew s m 0 [] { s with ctxs := Tbl.put s.ctxs (n m 0) c } ∧
      c.desc = parseDesc bs ∧ c.tq = [] ∧ c.tqmask = 0xFFFFFFFF ∧ c.events = 0 ∧ c.handler = none ∧ c.paging = false ∧ c.halted = none)) ∧
  (∀ bs : List Byte, badDesc bs = false →
    let d := parseDesc bs
    d.ptroot = natAt bs 0 8 ∧ d.ptroot % 2 ^ 21 = 0 ∧ d.wsbase0 + d.wslen0 ≤ 8192 ∧ d.wsbase1 + d.wslen1 ≤ 8192 ∧ d.csave % 65536 = 0 ∧
    d.lockcap ≤ 256 ∧ natAt bs 8 4 / 2 ^ 11 = 0 ∧ d.part = natAt bs 8 4 / 2 ^ 8 % 8 ∧ d.classes.toNat = natAt bs 8 4 % 2 ^ 5) ∧
  (∀ (s : State) (m : List Byte) (c : Ctx), comes s 2 m → Tbl.find s.ctxs (n m 0) = some c →
    let bs := Memory.bytes s.host (n m 1) 256
    (badDesc bs = true → answers .ctxset s m 1 [] s) ∧
    (badDesc bs = false → ∃ t, answers .ctxset s m 0 [] t ∧ Tbl.find t.ctxs (n m 0) = some { c with
      desc := { c.desc with ptroot := (parseDesc bs).ptroot }, pending := some (parseDesc bs) } ∧ t.hbm = s.hbm ∧ t.warps = s.warps)) ∧
  (∀ (s : State) (m : List Byte), comes s 3 m →
    (Tbl.find s.ctxs (n m 0) = none ∨ (∃ q ∈ s.queues, q.2.used = true ∧ q.2.owner = n m 0) ∨ (∃ l ∈ s.launches, l.2.ctx = n m 0) →
      answers .ctxfree s m 1 [] s) ∧
    (∀ c, Tbl.find s.ctxs (n m 0) = some c → (∀ q ∈ s.queues, q.2.used = true → q.2.owner ≠ n m 0) → (∀ l ∈ s.launches, l.2.ctx ≠ n m 0) →
      ∃ t, answers .ctxfree s m 0 [] t ∧ Tbl.find t.ctxs (n m 0) = none ∧ (∀ k, k ≠ n m 0 → Tbl.find t.ctxs k = Tbl.find s.ctxs k) ∧
        (∀ p ∈ t.grants, grantSctx p.2 ≠ n m 0 ∧ grantTctx p.2 ≠ n m 0) ∧ t.queues = s.queues)) ∧
  (∀ (s : State) (m : List Byte), comes s 4 m →
    let b := (m.drop 16).take 32
    let cl := natAt b 0 2 % 2 ^ 12
    let lk := natAt b 4 4 % 2 ^ 18
    let ch := natAt b 8 8
    (8 ≤ n m 0 ∨ cl &&& s.board.cfg.clmask.toNat ≠ cl ∨ lk &&& s.board.cfg.lkmask.toNat ≠ lk ∨ ch &&& s.board.cfg.chmask.toNat ≠ ch ∨
      (∃ p ∈ s.parts, p.1 ≠ n m 0 ∧ (cl &&& p.2.clmask.toNat ≠ 0 ∨ lk &&& p.2.lkmask.toNat ≠ 0 ∨ ch &&& p.2.chmask.toNat ≠ 0)) ∨
      partBusy s (n m 0) = true → answers .partset s m 1 [] s) ∧
    (n m 0 < 8 → badPart s (n m 0) b = false → partBusy s (n m 0) = false → ∃ p, answers .partset s m 0 [] { s with parts := Tbl.put s.parts (n m 0) p } ∧
      p.clmask.toNat = cl ∧ p.lkmask.toNat = lk ∧ p.chmask.toNat = ch)) ∧
  (∀ (s : State) (m : List Byte), comes s 5 m →
    let base := dwordAt m 24
    (Tbl.find s.ctxs (n m 0) = none ∨ 4 < n m 1 ∨ 2 ^ 57 ≤ base.toNat ∨ base.toNat % 4096 ≠ 0 ∨ 8 ≤ n m 4 ∨
      (∀ k, k < 17 → n m 3 ≠ 2 ^ (k + 4)) → answers .qcreate s m 1 [] s) ∧
    (∀ c k cls qid, Tbl.find s.ctxs (n m 0) = some c → n m 0 < 1024 → ([Cls.d, .v, .g, .l, .b][n m 1]? = some cls) → classAllowed c.desc cls = true →
      base.toNat < 2 ^ 57 → base.toNat % 4096 = 0 → n m 4 < 8 → k < 17 → n m 3 = 2 ^ (k + 4) → qid < 4096 →
      (∀ j, j < qid → ∃ q, Tbl.find s.queues j = some q ∧ q.used = true) → (∀ q, Tbl.find s.queues qid = some q → q.used = false) →
      s.board.capKey.length = 32 → ∃ cap q, answers .qcreate s m 0 cap { s with queues := Tbl.put s.queues qid q } ∧ q.used = true ∧ q.owner = n m 0 ∧ q.cls = cls ∧
        q.base = base ∧ q.slots = n m 3 ∧ q.head = 0 ∧ q.tail = 0 ∧ q.st = .idle ∧ q.run = none ∧ cap.length = 32 ∧
        sealCap s.board.capKey cap = cap ∧ capQid cap = qid ∧ natAt cap 8 8 / 2 ^ 48 % 8 = n m 4 ∧
        capQueue { s with queues := Tbl.put s.queues qid q } cap = some q)) ∧
  (∀ (s : State) (m : List Byte), comes s 6 m →
    ((∀ q, Tbl.find s.queues (n m 0) = some q → q.used = false) → answers .qfree s m 1 [] s) ∧
    (∀ q, Tbl.find s.queues (n m 0) = some q → q.used = true →
      answers .qfree s m 0 [] { s with queues := Tbl.put s.queues (n m 0) { q with used := false, epoch := q.epoch + 1, run := none } })) ∧
  (∀ r ∈ ([(.qadminPause, 0), (.qadminResume, 1), (.qadminReset, 2)] : List (Instr × Nat)), ∀ (s : State) (m : List Byte), comes s 7 m →
    natAt m 40 8 = r.2 →
    let cap := (m.drop 8).take 32
    (capFails s cap [] ≠ 0 ∨ natAt cap 8 8 / 2 ^ 50 % 2 = 0 → answers r.1 s m 1 [] s) ∧
    (capFails s cap [] = 0 → natAt cap 8 8 / 2 ^ 50 % 2 = 1 → ∀ q, capQueue s cap = some q → ∃ t q', answers r.1 s m 0 [] t ∧
      t.queues = Tbl.put s.queues (capQid cap) q' ∧ t.hbm = s.hbm ∧ t.warps = s.warps ∧ q'.tail = q.tail ∧ q'.epoch = q.epoch ∧
      (r.2 = 0 → q'.head = q.head ∧ q'.run = q.run ∧ (q.st = .idle ∨ q.st = .running → q'.st = .paused)) ∧
      (r.2 = 1 → q'.head = q.head ∧ (q.st ≠ .paused → q' = q) ∧
        (q.st = .paused → q.run = none → q'.st = if q.head = q.tail then .idle else .running)) ∧
      (r.2 = 2 → q'.head = q.tail ∧ q'.err = 0 ∧ q'.esub = 0 ∧ (q.st ≠ .paused → q.run = none → q'.st = .idle)))) ∧
  (∀ (s : State) (m : List Byte), comes s 8 m →
    let cap := (m.drop 8).take 32
    (capFails s cap [] ≠ 0 ∨ natAt cap 8 8 / 2 ^ 49 % 2 = 0 → answers .qstat s m 1 [] s) ∧
    (capFails s cap [] = 0 → natAt cap 8 8 / 2 ^ 49 % 2 = 1 → ∀ q, capQueue s cap = some q → ∃ res, answers .qstat s m 0 res s ∧
      natAt res 0 4 = q.head.toNat ∧ natAt res 4 4 = q.tail.toNat ∧ natAt res 12 4 = q.esub.toNat ∧ natAt res 16 8 = q.done.toNat ∧
      natAt res 24 8 = q.tdone.toNat ∧ natAt res 8 4 / 2 ^ 8 % 2 ^ 8 = q.err.toNat ∧
      natAt res 8 4 / 2 ^ 28 = (match q.st with | .idle => 0 | .running => 1 | .paused => 2 | .error => 3 | .halted => 4)))

/-- R321 to R324, R329, R330, Tables 16.1 to 16.3: what the tables of a context make of an address of a 64-KiB page whose tables stand; and
MAP, UNMAP and PROTECT of one such page, each of which writes its one entry, so that the page translates to its frame with its rights, or
not at all. MAP refuses a range off 64 KiB, beyond path 0, outside the partition's channels, or mapped with the other CV. The operands'
places are the model's (log 9). -/
def Obligations.TranslationAndMappings : Prop :=
  let comes (s : State) (ty : Nat) (m : List Byte) : Prop :=
    s.board.boot = 4 ∧ messageAt s s.ev.a = some m ∧ natAt m 0 2 = ty ∧ natAt m 2 2 = 0
  let answers (i : Instr) (s : State) (m : List Byte) (st : Nat) (t : State) : Prop :=
    Machine.exec i s = .next (answerRing s.ev.a m { status := st, results := [], state := t })
  let n (m : List Byte) (k : Nat) : Nat := natAt m (8 + 8 * k) 8
  let pointer (s : State) (a lvl next : Nat) : Prop := (tableEntry s a).toNat = next + 1 ∧ next < 2 ^ 48 ∧ next % 2 ^ (if lvl ≤ 1 then 12 else 8) = 0
  let chain (s : State) (ctx va a3 : Nat) : Prop := ∃ c t1 t2 t3, Tbl.find s.ctxs ctx = some c ∧
    pointer s (c.desc.ptroot + 8 * (va / 2 ^ 39 % 2 ^ 18)) 0 t1 ∧ pointer s (t1 + 8 * (va / 2 ^ 30 % 2 ^ 9)) 1 t2 ∧
    pointer s (t2 + 8 * (va / 2 ^ 21 % 2 ^ 9)) 2 t3 ∧ a3 = t3 + 8 * (va / 2 ^ 16 % 2 ^ 5) ∧
    ∀ a ∈ ([c.desc.ptroot + 8 * (va / 2 ^ 39 % 2 ^ 18), t1 + 8 * (va / 2 ^ 30 % 2 ^ 9), t2 + 8 * (va / 2 ^ 21 % 2 ^ 9)] : List Nat),
      a + 8 ≤ a3 ∨ a3 + 8 ≤ a
  let leaf (pa flags : Nat) : Nat := pa + flags + 3
  let may (flags : Nat) (k : Kind) (cv peer : Bool) : Prop := flags.testBit 7 = cv ∧ (peer = true → flags.testBit 6 = true) ∧
    match k with
    | .ld => flags.testBit 2 = true
    | .st => flags.testBit 3 = true
    | .at => flags.testBit 2 = true ∧ flags.testBit 3 = true
    | .ex => flags.testBit 4 = true
  (∀ (s : State) (ctx va a3 o : Nat) (k : Kind) (cv peer : Bool), chain s ctx va a3 → va % 2 ^ 16 = 0 → o < 2 ^ 16 →
    ((tableEntry s a3).getLsbD 0 = false → translate s ctx (va + o) k cv peer = .error .page) ∧
    (∀ pa flags, pa % 2 ^ 16 = 0 → pa < 2 ^ 48 → flags < 2 ^ 8 → flags % 4 = 0 → (tableEntry s a3).toNat = leaf pa flags →
      (may flags k cv peer → translate s ctx (va + o) k cv peer = .ok (pa + o)) ∧
      (¬ may flags k cv peer → translate s ctx (va + o) k cv peer = .error .prot))) ∧
  (∀ (s : State) (m : List Byte) (c : Ctx) (a3 : Nat), comes s 9 m → Tbl.find s.ctxs (n m 0) = some c →
    let va := n m 1
    let pa := n m 3
    let flags := n m 4
    (va % 2 ^ 16 ≠ 0 ∨ n m 2 % 2 ^ 16 ≠ 0 ∨ n m 2 = 0 ∨ 2 ^ 57 < va + n m 2 ∨ pa % 2 ^ 16 ≠ 0 ∨ flags % 4 ≠ 0 ∨ 2 ^ 8 ≤ flags ∨
      framesOk s c.desc.part pa (n m 2) = false ∨ mappedAs s (!(flags.testBit 7)) pa (n m 2) = true → answers .map s m 1 s) ∧
    (n m 2 = 2 ^ 16 → va % 2 ^ 16 = 0 → va + 2 ^ 16 ≤ 2 ^ 57 → pa % 2 ^ 16 = 0 → flags < 2 ^ 7 → flags % 4 = 0 → frameOk s c.desc.part pa = true →
      mappedAs s true pa (2 ^ 16) = false → chain s (n m 0) va a3 → s.sigs = [] → ∃ t, answers .map s m 0 t ∧
      t.hbm = Memory.setLe s.hbm a3 8 (leaf pa flags) ∧ t.ctxs = s.ctxs ∧ t.warps = s.warps ∧
      ∀ o k, o < 2 ^ 16 → may flags k false false → translate t (n m 0) (va + o) k false false = .ok (pa + o))) ∧
  (∀ (s : State) (m : List Byte) (a3 : Nat), comes s 10 m →
    let va := n m 1
    (Tbl.find s.ctxs (n m 0) = none ∨ va % 2 ^ 16 ≠ 0 ∨ n m 2 % 2 ^ 16 ≠ 0 ∨ n m 2 = 0 ∨ 2 ^ 57 < va + n m 2 → answers .unmap s m 1 s) ∧
    (n m 2 = 2 ^ 16 → va % 2 ^ 16 = 0 → va + 2 ^ 16 ≤ 2 ^ 57 → chain s (n m 0) va a3 → s.sigs = [] → ∃ t, answers .unmap s m 0 t ∧
      t.hbm = Memory.setLe s.hbm a3 8 0 ∧ t.ctxs = s.ctxs ∧ t.warps = s.warps ∧
      ∀ o k cv, o < 2 ^ 16 → translate t (n m 0) (va + o) k cv false = .error .page)) ∧
  (∀ (s : State) (m : List Byte) (a3 pa old : Nat), comes s 11 m →
    let va := n m 1
    let flags := n m 4
    (Tbl.find s.ctxs (n m 0) = none ∨ va % 2 ^ 16 ≠ 0 ∨ n m 2 % 2 ^ 16 ≠ 0 ∨ n m 2 = 0 ∨ 2 ^ 57 < va + n m 2 ∨ flags % 4 ≠ 0 ∨ 2 ^ 8 ≤ flags →
      answers .protect s m 1 s) ∧
    (n m 2 = 2 ^ 16 → va % 2 ^ 16 = 0 → va + 2 ^ 16 ≤ 2 ^ 57 → chain s (n m 0) va a3 → s.sigs = [] → flags < 2 ^ 8 → flags % 4 = 0 →
      pa % 2 ^ 16 = 0 → pa < 2 ^ 48 → old < 2 ^ 8 → old % 4 = 0 → (tableEntry s a3).toNat = leaf pa old →
      (old.testBit 7 ≠ flags.testBit 7 → answers .protect s m 1 s) ∧
      (old.testBit 7 = flags.testBit 7 → ∃ t, answers .protect s m 0 t ∧ t.hbm = Memory.setLe s.hbm a3 8 (leaf pa flags) ∧ t.ctxs = s.ctxs ∧
        ∀ o k cv, o < 2 ^ 16 → may flags k cv false → translate t (n m 0) (va + o) k cv false = .ok (pa + o)))) ∧
  (∀ (s : State) (ctx k : Nat) (g : Wg), Tbl.find s.wgs k = some g → g.ctx = ctx → ∃ g', Tbl.find (shootdown s ctx).wgs k = some g' ∧
    ∀ r ∈ g'.locks, ∀ p ∈ r.pages, p.2.2 = .locked → ∃ e sh, leafOf s ctx p.1 = some (e, sh) ∧ 2 ^ sh = p.2.1)

/-- R49, R283, R310, R318, R332, R344, R352, R362, R365, R382, Table 16.4: the driver messages on demand paging, handlers, peer grants, kills,
logs, the summary, Ethernet rings, TIME, PTP and code objects: what each sets, and when it is refused with nothing changed. The operands'
places are the model's (log 9). -/
def Obligations.DriverServices : Prop :=
  let comes (s : State) (ty : Nat) (m : List Byte) : Prop :=
    s.board.boot = 4 ∧ messageAt s s.ev.a = some m ∧ natAt m 0 2 = ty ∧ natAt m 2 2 = 0
  let answers (i : Instr) (s : State) (m : List Byte) (st : Nat) (res : List Byte) (t : State) : Prop :=
    Machine.exec i s = .next (answerRing s.ev.a m { status := st, results := res, state := t })
  let n (m : List Byte) (k : Nat) : Nat := natAt m (8 + 8 * k) 8
  (∀ (s : State) (m : List Byte), comes s 12 m →
    (4 ≤ n m 1 ∨ Tbl.find s.ctxs (n m 0) = none → answers .pgreg s m 1 [] s) ∧
    (∀ c, n m 1 < 4 → Tbl.find s.ctxs (n m 0) = some c → answers .pgreg s m 0 []
      { s with ctxs := Tbl.put s.ctxs (n m 0) { c with paging := (n m 1).testBit 0, protMsgs := (n m 1).testBit 1 } })) ∧
  (∀ (s : State) (m : List Byte), comes s 14 m →
    (Tbl.find s.ctxs (n m 0) = none → answers .handler s m 1 [] s) ∧
    (∀ c, Tbl.find s.ctxs (n m 0) = some c →
      (n m 1 = 0 → ∃ c', answers .handler s m 0 [] { s with ctxs := Tbl.put s.ctxs (n m 0) c' } ∧ c'.handler = none ∧ c'.desc = c.desc ∧ c'.tq = c.tq) ∧
      (n m 1 % 256 ≠ 0 → answers .handler s m 1 [] s) ∧
      (n m 1 ≠ 0 → n m 1 % 256 = 0 → ∀ bs, tableRead s (n m 0) (dwordAt m 16) 256 = some bs →
        (checkHandler s (n m 0) bs = none → answers .handler s m 1 [] s) ∧
        (∀ k, checkHandler s (n m 0) bs = some k → (k.lrec.wx, k.lrec.wy, k.lrec.wz) = (96, 1, 1) ∧ k.lrec.gx * k.lrec.gy * k.lrec.gz = 1 ∧
          ∃ t c', answers .handler s m 0 [] t ∧ Tbl.find t.ctxs (n m 0) = some c' ∧ c'.handler = some k.lrec ∧ c'.desc = c.desc)))) ∧
  (∀ (s : State) (m : List Byte), comes s 15 m →
    let g := dwordAt m 16
    (4096 ≤ n m 0 ∨ 143 < g.toNat / 2 ^ 32 % 2 ^ 9 ∨ g.toNat / 2 ^ 10 % 2 ^ 6 ≠ 0 ∨ g.toNat / 2 ^ 26 % 2 ^ 6 ≠ 0 ∨ g.toNat / 2 ^ 41 % 2 ^ 19 ≠ 0 →
      answers .peergrant s m 1 [] s) ∧
    (g.getLsbD 63 = true → (∃ p ∈ s.grants, p.1 ≠ n m 0 ∧ p.2.getLsbD 63 = true ∧ p.2.toNat / 2 ^ 32 % 2 ^ 9 = g.toNat / 2 ^ 32 % 2 ^ 9 ∧
      p.2.toNat / 2 ^ 16 % 2 ^ 10 = g.toNat / 2 ^ 16 % 2 ^ 10) → answers .peergrant s m 1 [] s) ∧
    (n m 0 < 4096 → g.toNat / 2 ^ 32 % 2 ^ 9 ≤ 143 → g.toNat / 2 ^ 10 % 2 ^ 6 = 0 → g.toNat / 2 ^ 26 % 2 ^ 6 = 0 → g.toNat / 2 ^ 41 % 2 ^ 19 = 0 →
      (g.getLsbD 63 = false ∨ ∀ p ∈ s.grants, p.1 = n m 0 ∨ p.2.getLsbD 63 = false ∨ p.2.toNat / 2 ^ 16 % 2 ^ 10 ≠ g.toNat / 2 ^ 16 % 2 ^ 10) →
      ∃ t, answers .peergrant s m 0 [] { s with grants := t } ∧ Tbl.read 0 t (n m 0) = g ∧ ∀ k, k ≠ n m 0 → Tbl.read 0 t k = Tbl.read 0 s.grants k)) ∧
  (∀ (s : State) (m : List Byte), comes s 16 m →
    (Tbl.find s.ctxs (n m 0) = none → answers .kill s m 1 [] s) ∧
    (∀ c, Tbl.find s.ctxs (n m 0) = some c → c.halted = none → ∃ t, answers .kill s m 0 [] t ∧
      Tbl.find t.ctxs (n m 0) = some { c with halted := some (0xFF, 0, 0, clkNat s) } ∧ t.warps = s.warps ∧ t.hbm = s.hbm)) ∧
  (∀ (s : State) (m : List Byte), comes s 17 m →
    (n m 0 = 0xFFFF → ∃ res t, answers .evread s m 0 res t ∧ natAt res 112 4 = s.board.log.dropped % 2 ^ 32 ∧ t.board.log.dropped = 0 ∧
      t.board.log.events = s.board.log.events.drop 7 ∧ t.ctxs = s.ctxs) ∧
    (n m 0 ≠ 0xFFFF → Tbl.find s.ctxs (n m 0) = none → answers .evread s m 1 [] s) ∧
    (n m 0 ≠ 0xFFFF → ∀ c, Tbl.find s.ctxs (n m 0) = some c → ∃ res t c', answers .evread s m 0 res t ∧ natAt res 112 4 = c.log.dropped % 2 ^ 32 ∧
      Tbl.find t.ctxs (n m 0) = some c' ∧ c'.log.dropped = 0 ∧ c'.log.events = c.log.events.drop 7 ∧ c'.events = c.events)) ∧
  (∀ (s : State) (m : List Byte), comes s 18 m → s.ctxs.length < 2 ^ 16 → ∃ res, answers .resync s m 0 res s ∧
    natAt res 0 4 = (if s.board.running then s.board.bank1 else s.board.bank0).fwver.toNat ∧ natAt res 4 2 = 0x0201 ∧
    natAt res 6 2 = (if s.board.running then 1 else 0) ∧ natAt res 8 4 = s.board.cfg.clmask.toNat ∧ natAt res 12 4 = s.board.cfg.ccmask.toNat ∧
    natAt res 16 8 = s.board.cfg.chmask.toNat ∧ natAt res 24 4 = s.board.cfg.lkmask.toNat ∧ natAt res 64 2 = s.ctxs.length ∧
    natAt res 70 2 = s.board.nhalt.toNat ∧ natAt res 72 8 = s.board.cecc.toNat ∧ natAt res 88 8 = s.clock.clk.toNat ∧
    natAt res 96 8 = s.clock.time.toNat) ∧
  (∀ (s : State) (m : List Byte), comes s 23 m →
    let base := dwordAt m 8
    let cnt := natAt m 16 2
    let ctx := natAt m 20 4 % 2 ^ 10
    (2 ^ 57 ≤ base.toNat ∨ base.toNat % 64 ≠ 0 ∨ natAt m 18 2 ≠ 0 ∨ Tbl.find s.ctxs ctx = none ∨ (cnt ≠ 0 ∧ ∀ k, k < 13 → cnt ≠ 2 ^ (k + 3)) →
      answers .ethring s m 1 [] s) ∧
    (∀ c k, base.toNat < 2 ^ 57 → base.toNat % 64 = 0 → natAt m 18 2 = 0 → Tbl.find s.ctxs ctx = some c → k < 13 → cnt = 2 ^ (k + 3) →
      ∃ t r, answers .ethring s m 0 [] t ∧ Tbl.find t.net.eth (natAt m 24 2 / 2 ^ 12) = some r ∧ r.rbase = base ∧ r.rcount = cnt ∧ r.ctx = ctx ∧
        r.etype = natAt m 26 2 ∧ r.vlan = natAt m 24 2 % 2 ^ 12 ∧ r.s = 0 ∧ t.hbm = s.hbm)) ∧
  (∀ (s : State) (m : List Byte), comes s 24 m →
    (s.clock.ptpMaster = true ∨ n m 0 < s.clock.time.toNat → answers .timeset s m 1 [] s) ∧
    (s.clock.ptpMaster = false → s.clock.time.toNat ≤ n m 0 → ∃ t, answers .timeset s m 0 [] t ∧ t.clock.time.toNat = n m 0 ∧
      t.clock.clk = s.clock.clk ∧ t.ctxs = s.ctxs)) ∧
  (∀ (s : State) (m : List Byte), comes s 25 m →
    ((n m 0 ≠ 0 ∧ n m 0 ≠ 1 ∧ n m 0 ≠ 0xFF) ∨ 255 < n m 1 → answers .ptpcfg s m 1 [] s) ∧
    (n m 0 = 0 ∨ n m 0 = 1 ∨ n m 0 = 0xFF → n m 1 ≤ 255 → ∃ t, answers .ptpcfg s m 0 (leBytes 8 (n m 0) ++ leBytes 8 (n m 1)) t ∧
      t.clock.ptpPort = (if n m 0 = 0xFF then none else some (n m 0)) ∧ t.clock.ptpDomain.toNat = n m 1 ∧ t.clock.ptpMaster = false ∧
      t.clock.time = s.clock.time)) ∧
  (∀ (s : State) (m : List Byte), comes s 22 m →
    (12 < n m 1 ∨ loadObject s (n m 0) = none → answers .xlate s m 1 [] s) ∧
    (∀ img, n m 1 = 0 → loadObject s (n m 0) = some img → ∃ t, answers .xlate s m 0 [] t ∧
      Tbl.find t.net.objects s.freshId = some { image := img, hash := sha256 img, mapped := true, since := clkNat s } ∧ t.net.outbox = s.net.outbox ∧ t.host = s.host)) ∧
  (∀ (s : State) (since : Nat), (∀ o, Tbl.find s.net.objects s.ev.b = some o → o.since = since) →
    (Tbl.find s.net.objects s.ev.b = none → s.ev.x.toNat = since) →
    (s.board.boot ≠ 4 ∨ clkNat s < since + 21000000 ∨ (∃ o, Tbl.find s.net.objects s.ev.b = some o ∧ o.mapped = true) →
      Machine.exec .xlateTimeout s = .next s) ∧
    (s.board.boot = 4 → since + 21000000 ≤ clkNat s → (∀ o, Tbl.find s.net.objects s.ev.b = some o → o.mapped = false) →
      ∀ img, loadObject s s.ev.a = some img → ∃ t, Machine.exec .xlateTimeout s = .next t ∧
        Tbl.find t.net.objects s.freshId = some { image := img, hash := sha256 img, mapped := true, since := clkNat s } ∧ t.host = s.host))

/-- R310, R332, R333, Table 16.4: the service of a fault. A park whose accesses succeed by now replays; otherwise, with demand paging off for
its cause or an address that no table maps, it joins the trap queue where TQMASK lets its cause in, and logs an event where not; with
paging on it waits on the fault message of its page and kind, one for all that wait. PGANS answers a message: mapped replays what waits, not
mapped queues it. An engine's fault goes the same way, up to the outcome of its own chapter. A page that a walk finds mapped, where a change of mapping had
made its locked entry invalid, is served by an ordinary entry from then on. The operands' places are the model's (log 9). -/
def Obligations.FaultService : Prop :=
  let may (s : State) (ctx : Nat) (q : DWord × Kind) : Prop := pathOf q.1 ∈ ([0, 1, 6, 7] : List Nat) ∧ pathCheck q.1 q.2 = none ∧
    ∃ l, resolve s { ctx := ctx, wg := none } q.1 1 q.2 = .ok l
  let resumed (s u : State) (wid fid : Nat) (w : Warp) (f : Frag) : Prop := ∃ w' g, findFrag u wid fid = some (w', g) ∧ g.st = .ready ∧
    g.cause = .none ∧ g.fw = 0 ∧ g.pc = f.pc ∧ g.lanes = f.lanes ∧ g.s = f.s ∧ g.j = f.j ∧ g.acq = true ∧ w'.sregs = w.sregs ∧ w'.vregs = w.vregs ∧
    u.hbm = s.hbm ∧ (f.fw = 0 → ∃ r, g.replay = some r ∧ r.lanes = f.lanes) ∧
    (f.fw ≠ 0 → ∀ bs, readVirt s { ctx := w.ctx, wg := none } (f.frame + 0x20) 12 = .ok bs → ∃ r, g.replay = some r ∧
      r.lanes = BitVec.ofNat 96 (leNat bs)) ∧
    ∀ c, Tbl.find u.ctxs w.ctx = some c → (wid, fid) ∉ c.tq ∧ ∀ p ∈ c.parks, p.warp ≠ wid ∨ p.frag ≠ fid
  let queued (s u : State) (wid fid : Nat) (w : Warp) (f : Frag) : Prop := u.hbm = s.hbm ∧ (∃ w', findFrag u wid fid = some (w', f)) ∧
    ∀ c, Tbl.find s.ctxs w.ctx = some c → ∃ c', Tbl.find u.ctxs w.ctx = some c' ∧ (∀ p ∈ c'.parks, p.warp ≠ wid ∨ p.frag ≠ fid) ∧
      (c.tqmask.getLsbD f.cause.code = true → c'.tq = c.tq ++ [(wid, fid)] ∧ c'.events = c.events) ∧
      (c.tqmask.getLsbD f.cause.code = false → c'.tq = c.tq ∧ c'.events = c.events + 1)
  let awaits (s : State) (wid fid : Nat) (w : Warp) (f : Frag) (p : PhPark) : Prop := phPark s wid fid = some (w, f, p) ∧ p.frame = none ∧
    f.st = .parked ∧ (f.cause = .page ∨ f.cause = .prot)
  let walked (s : State) (ctx : Nat) (e : EngFault) : State := fillOrdinary s ctx (offOf e.addr)
  (∀ (s : State) (ctx o : Nat), { fillOrdinary s ctx o with wgs := s.wgs } = s ∧ ∀ k g, Tbl.find s.wgs k = some g →
    Tbl.find (fillOrdinary s ctx o).wgs k = some { g with locks := if g.ctx = ctx then g.locks.map (fun r => { r with
      pages := r.pages.map fun q => if q.1 ≤ o ∧ o < q.1 + q.2.1 ∧ q.2.2 = .invalid then (q.1, q.2.1, .ordinary) else q }) else g.locks }) ∧
  (∀ (s : State) (w : Warp) (f : Frag) (p : PhPark), s.ev.a = 0 → awaits s s.ev.b s.ev.c w f p →
    (p.msgs ≠ [] → Machine.exec .faultService s = .next s) ∧
    (p.msgs = [] → (∀ q ∈ p.accs, may s w.ctx q) → ∃ u, Machine.exec .faultService s = .next u ∧ resumed s u s.ev.b s.ev.c w f ∧ u.msgs = s.msgs) ∧
    (p.msgs = [] → ∀ c, Tbl.find s.ctxs w.ctx = some c → (∃ q ∈ p.accs, ¬ may s w.ctx q) →
      (c.paging = false ∨ (f.cause = .prot ∧ c.protMsgs = false) ∨ ∃ q ∈ p.accs, pathOf q.1 ∉ ([0, 1, 6, 7] : List Nat)) →
      ∃ u, Machine.exec .faultService s = .next u ∧ queued s u s.ev.b s.ev.c w f ∧ u.msgs = s.msgs) ∧
    (p.msgs = [] → ∀ c a k, Tbl.find s.ctxs w.ctx = some c → p.accs = [(a, k)] → ¬ may s w.ctx (a, k) →
      pathOf a ∈ ([0, 1, 6, 7] : List Nat) → c.paging = true → (f.cause = .page ∨ c.protMsgs = true) →
      let q : FaultMsg := { ctx := w.ctx, page := offOf a / 2 ^ 16, kind := k.code }
      ∃ u t, Machine.exec .faultService s = .next u ∧ phPark u s.ev.b s.ev.c = some (w, f, { p with msgs := [t] }) ∧ u.hbm = s.hbm ∧
        ((∃ m ∈ s.msgs, m.2 = q) → u.msgs = s.msgs ∧ (t, q) ∈ s.msgs) ∧
        ((∀ m ∈ s.msgs, m.2 ≠ q) → u.msgs = Tbl.put s.msgs t q))) ∧
  (∀ (s : State) (m : List Byte), s.board.boot = 4 → messageAt s s.ev.a = some m → natAt m 0 2 = 13 → natAt m 2 2 = 0 →
    let answers (st : Nat) (t : State) : Prop := Machine.exec .pgans s = .next (answerRing s.ev.a m { status := st, results := [], state := t })
    let tag := natAt m 8 8
    (1 < natAt m 16 8 ∨ Tbl.find s.msgs tag = none → answers 1 s) ∧
    (∀ q p w f, Tbl.find s.msgs tag = some q → parksOn s q.ctx tag = [p] → unitsOn s tag = [] → awaits s p.warp p.frag w f p →
      (natAt m 16 8 = 0 → ∃ u, answers 0 u ∧ resumed s u p.warp p.frag w f ∧ Tbl.find u.msgs tag = none) ∧
      (natAt m 16 8 = 1 → ∃ u, answers 0 u ∧ queued s u p.warp p.frag w f ∧ Tbl.find u.msgs tag = none))) ∧
  (∀ (s : State) (c : Copy) (e : EngFault), s.ev.a = 1 → Tbl.find s.copies s.ev.b = some c → c.fault = some e → e.msg = none →
    (may s c.ctx (e.addr, e.kind) → Machine.exec .faultService s = .next { walked s c.ctx e with copies := Tbl.put s.copies s.ev.b { c with fault := none } }) ∧
    (¬ may s c.ctx (e.addr, e.kind) → ∀ x, Tbl.find s.ctxs c.ctx = some x → x.paging = false → Machine.exec .faultService s =
      .next (copyFail { s with copies := Tbl.put s.copies s.ev.b { c with fault := none } } s.ev.b e.cause 0 e.addr))) ∧
  (∀ (s : State) (J : Job) (g : Group) (e : EngFault), s.ev.a = 2 → Tbl.find s.jobs s.ev.b = some J →
    J.groups.find? (fun g => g.order == s.ev.c) = some g → g.fault = some e → e.msg = none →
    let sets (h : Group → Group) : Prop := Machine.exec .faultService s = .next
      { walked s J.ctx e with jobs := Tbl.put s.jobs s.ev.b { J with groups := J.groups.map fun x => if x.order = s.ev.c then h x else x } }
    (may s J.ctx (e.addr, e.kind) → sets fun x => { x with fault := none }) ∧
    (¬ may s J.ctx (e.addr, e.kind) → ∀ x, Tbl.find s.ctxs J.ctx = some x → x.paging = false → ∃ u J', Machine.exec .faultService s = .next u ∧
      Tbl.find u.jobs s.ev.b = some J' ∧ ∀ y ∈ J'.groups, y.order = s.ev.c → y.err = some (e.cause, e.addr) ∧ y.fault = none)) ∧
  (∀ (s : State) (k : Walk) (e : EngFault), s.ev.a = 3 → Tbl.find s.walks s.ev.b = some k → k.pend = some e → e.msg = none → k.saving = none →
    (may s k.ctx (e.addr, e.kind) → Machine.exec .faultService s = .next { walked s k.ctx e with walks := Tbl.put s.walks s.ev.b { k with pend := none } }) ∧
    (¬ may s k.ctx (e.addr, e.kind) → ∀ x, Tbl.find s.ctxs k.ctx = some x → x.paging = false → Machine.exec .faultService s = .next
      (walkFaultOutcome { s with walks := Tbl.put s.walks s.ev.b { k with pend := none } } s.ev.b { k with pend := none } e.cause e.addr))) ∧
  (∀ (s : State) (b : Build) (e : EngFault), s.ev.a = 4 → Tbl.find s.builds s.ev.b = some b → b.fault = some e → e.msg = none →
    (may s b.ctx (e.addr, e.kind) → Machine.exec .faultService s = .next { walked s b.ctx e with builds := Tbl.put s.builds s.ev.b { b with fault := none } }) ∧
    (¬ may s b.ctx (e.addr, e.kind) → ∀ x, Tbl.find s.ctxs b.ctx = some x → x.paging = false → ∃ u, Machine.exec .faultService s = .next u ∧
      Tbl.find u.builds s.ev.b = some { b with fault := none, refused := some e.addr } ∧ u.hbm = s.hbm)) ∧
  (∀ (s : State) (o : PixOp) (e : EngFault), s.ev.a = 5 → Tbl.find s.pix s.ev.b = some o → o.fault = some e → e.msg = none →
    may s o.ctx (e.addr, e.kind) → Machine.exec .faultService s = .next { walked s o.ctx e with pix := Tbl.put s.pix s.ev.b { o with fault := none } })

/-- R345 to R348, R353 to R355, R357, R370, Tables 17.8 to 17.10, 18.1 and 18.4: FWLOAD takes a verified image of a high enough security
version into the bank that does not run, or a record for the next reset (one that breaks Table 17.8 is refused, log 68); FWSWAP hands over, or rolls back, with the machine's work as it
stood; ATTEST signs the report; a reset counts the boot, keeps flash and the host's memory, and clears the rest; BOOT 0 to 3, or recovery
where a check fails; DEVNUM, the end of training, MTAIL and the writable ring registers. Image fields and the operands' places are the model's (logs 4, 9). -/
def Obligations.FirmwareAndBoot : Prop :=
  let comes (s : State) (ty : Nat) (m : List Byte) : Prop :=
    (s.board.boot = 4 ∨ s.board.boot = 15) ∧ messageAt s s.ev.a = some m ∧ natAt m 0 2 = ty ∧ natAt m 2 2 = 0
  let answers (i : Instr) (s : State) (m : List Byte) (st : Nat) (res : List Byte) (t : State) : Prop :=
    Machine.exec i s = .next (answerRing s.ev.a m { status := st, results := res, state := t })
  let works (s t : State) : Prop := t.ctxs = s.ctxs ∧ t.queues = s.queues ∧ t.launches = s.launches ∧ t.warps = s.warps ∧ t.hbm = s.hbm ∧
    t.net = s.net ∧ t.board.cfg = s.board.cfg ∧ t.board.capKey = s.board.capKey ∧ t.board.rings = s.board.rings ∧ t.board.bootCount = s.board.bootCount
  let on (b : Machine.Board) : Bank := if b.running then b.bank1 else b.bank0
  let off (b : Machine.Board) : Bank := if b.running then b.bank0 else b.bank1
  (∀ (s : State) (m : List Byte), comes s 19 m →
    let img := Memory.bytes s.host (natAt m 8 8) (natAt m 16 8)
    let good := rsaVerify Config.firmwareModulus (Config.imageSigned img) (Config.imageSignature img) = true ∧
      s.board.cfg.secver.toNat ≤ (Config.imageSecver img).toNat
    (¬ good → answers .fwload s m 1 [] s) ∧
    (good → Config.imageIsRecord img = false → ∃ t, answers .fwload s m 0 [] t ∧ works s t ∧ t.board.running = s.board.running ∧
      on t.board = on s.board ∧ (off t.board).valid = true ∧ (off t.board).fwver = Config.imageFwver img ∧ (off t.board).hash = sha256 img) ∧
    (good → Config.imageIsRecord img = true →
      (recordOk (Config.imageRecord img) = false → answers .fwload s m 1 [] s) ∧
      (recordOk (Config.imageRecord img) = true → ∃ c, answers .fwload s m 0 [] { s with board := { s.board with cfgNext := some c } } ∧
        c.body = (Config.imageRecord img).take 128 ∧ c.sig = (Config.imageRecord img).drop 128 ∧ c.pwrlim.toNat ≤ 1900))) ∧
  (∀ (s : State) (m : List Byte), comes s 20 m →
    let res (o : Nat) : List Byte := leBytes 8 (on s.board).fwver.toNat ++ leBytes 8 (off s.board).fwver.toNat ++ leBytes 8 o
    let fits := (off s.board).major = (on s.board).major ∧ (on s.board).minor ≤ (off s.board).minor
    ((off s.board).valid = false → answers .fwswap s m 1 [] s ∧ answers .fwswapRollback s m 1 [] s) ∧
    ((off s.board).valid = true → fits → ∃ t blk, answers .fwswap s m 0 (res 0) t ∧ works s t ∧ on t.board = off s.board ∧
      off t.board = on s.board ∧ t.sram = Memory.stores s.sram Config.blockAddress blk ∧ natAt blk 0 4 = 0x53504842 ∧
      natAt blk 12 4 = (crc32c (blk.drop 64)).toNat ∧ natAt blk 8 4 = (blk.drop 64).length ∧ t.board.stbHash = sha256 blk) ∧
    ((off s.board).valid = true → (¬ fits → ∃ t, answers .fwswap s m 1 (res 1) t ∧ works s t ∧ t.board = s.board) ∧
      ∃ t, answers .fwswapRollback s m 1 (res 1) t ∧ works s t ∧ t.board = s.board)) ∧
  (∀ (s : State) (m : List Byte), comes s 21 m → ∃ body t, answers .attest s m 0 [] t ∧
    t.host = Memory.stores s.host (natAt m 40 8) (body ++ rsaSign deviceModulus devicePrivate body) ∧ body.length = 256 ∧ t.board = s.board ∧ t.hbm = s.hbm ∧
    body.take 32 = (m.drop 8).take 32 ∧ natAt body 32 8 = s.board.cfg.serial.toNat ∧ natAt body 40 4 = s.board.bootCount.toNat ∧
    natAt body 44 4 = (on s.board).fwver.toNat ∧ body.drop 48 = inBytes 32 (on s.board).hash ++
      inBytes 32 (sha256 (s.board.cfg.body ++ s.board.cfg.sig)) ++ inBytes 32 Config.romHash ++ inBytes 32 s.board.stbHash ++ List.replicate 80 0) ∧
  (∀ (n : Nat) (bs : List Byte), (inBytes n bs).length = n ∧ (bs.length = n → inBytes n bs = bs)) ∧
  (∀ s : State, ∃ t, Machine.exec .reset s = .next t ∧ t.board.bootCount = s.board.bootCount + 1 ∧ t.board.cfg = s.board.cfgNext.getD s.board.cfg ∧
    t.board.bank0 = s.board.bank0 ∧ t.board.bank1 = s.board.bank1 ∧ t.host = s.host ∧ t.clock = State.reset.clock ∧ t.ctxs = [] ∧ t.queues = [] ∧
    t.launches = [] ∧ t.warps = [] ∧ t.hbm = [] ∧ t.wstore = [] ∧ t.grants = [] ∧ t.net.reqs = [] ∧ t.board.rings = [] ∧ t.board.devnum = 0xFF ∧
    t.board.boot = 0 ∧ t.board.msix = []) ∧
  (∀ (s : State) (pass : Bool) (ts : List Turn), s.turns = .boot pass :: ts → ∃ t, Machine.step s = .next t ∧ t.turns = ts ∧
    let key := hmac Config.seed (([0x63, 0x61, 0x70] : List Byte) ++ leBytes 4 s.board.bootCount.toNat)
    let good := rsaVerify Config.configModulus s.board.cfg.body s.board.cfg.sig = true ∧ s.board.cfg.devkeyh = sha256 devicePublic ∧
      s.board.cfg.pwrlim.toNat ≤ 1900 ∧ (s.board.bank0.valid = true ∨ s.board.bank1.valid = true)
    t.host = s.host ∧ t.board.bootCount = s.board.bootCount ∧ t.board.cfg = s.board.cfg ∧
    (s.board.boot = 0 → t.board = { s.board with boot := 1 } ∧ t.hbm = s.hbm) ∧
    (s.board.boot = 1 → t.board.capKey = key ∧ t.hbm = s.hbm ∧
      (good → t.board.boot = 2 ∧ (on t.board).valid = true ∧ t.board.msix = s.board.msix) ∧ (¬ good → t.board.boot = 15 ∧ 16 ∈ t.board.msix)) ∧
    (s.board.boot = 2 → t.board.capKey = s.board.capKey ∧ t.hbm = [] ∧ t.wstore = [] ∧ (pass = true → t.board = { s.board with boot := 3 }) ∧
      (pass = false → t.board.boot = 15 ∧ 16 ∈ t.board.msix)) ∧
    (2 < s.board.boot.toNat → t = { s with turns := ts })) ∧
  (∀ s : State, let v := s.ev.a % 2 ^ 8
    let sets (b : Machine.Board) : Prop := Machine.exec .devnum s = .next { s with board := b }
    (4 ≤ s.board.boot.toNat ∨ (144 ≤ v ∧ v ≤ 254) → Machine.exec .devnum s = .next s) ∧
    (s.board.boot.toNat < 3 → v < 144 ∨ v = 0xFF → sets { s.board with devnum := BitVec.ofNat 8 v }) ∧
    (s.board.boot = 3 → v = 0xFF → sets { s.board with devnum := 0xFF, standalone := true, boot := 4 }) ∧
    (s.board.boot = 3 → v < 144 → s.ev.b = 0 → sets { s.board with devnum := BitVec.ofNat 8 v, train := s.clock.clk.toNat }) ∧
    (s.board.boot = 3 → v < 144 → s.ev.b ≠ 0 → ∃ t, Machine.exec .devnum s = .next t ∧ t.board.boot = 4 ∧ t.board.devnum = BitVec.ofNat 8 v ∧
      t.net.linksUp = 0 ∧ t.board.standalone = s.board.standalone) ∧
    (s.board.boot = 3 → s.board.devnum ≠ 0xFF → s.board.train + 21000000 ≤ s.clock.clk.toNat →
      Machine.exec .boot3Timeout s = .next { s with board := { s.board with boot := 4 } }) ∧
    (s.board.boot ≠ 3 ∨ s.board.devnum = 0xFF ∨ s.clock.clk.toNat < s.board.train + 21000000 → Machine.exec .boot3Timeout s = .next s)) ∧
  (∀ s : State, s.ev.a < 16 →
    let r := ringOf s s.ev.a
    let v : Word := s.ev.w.setWidth 32
    (r.mslots.toNat < (v - r.mhead).toNat → ∃ t, Machine.exec .mtail s = .next t ∧ t.board.rings = s.board.rings ∧ t.host = s.host ∧ t.ph = s.ph) ∧
    ((v - r.mhead).toNat ≤ r.mslots.toNat → ∃ t, Machine.exec .mtail s = .next t ∧ ringOf t s.ev.a = { r with mtail := v } ∧
      (∀ k, k ≠ s.ev.a → ringOf t k = ringOf s k) ∧ t.host = s.host ∧ ∀ k c, Tbl.find s.ph k = some c →
        Tbl.find t.ph k = some { c with sig := c.sig ||| 2 })) ∧
  (∀ (s : State) (k : Nat), k < 16 →
    let r := ringOf s k
    let lowHalf (old : DWord) : DWord := old.extractLsb' 32 32 ++ s.ev.w.setWidth 32
    let highHalf (old : DWord) : DWord := (s.ev.w.setWidth 32 : Word) ++ old.extractLsb' 0 32
    let sets (q : Ring) : Prop := ∃ t, Machine.exec .registerWrite s = .next t ∧ ringOf t k = q ∧ (∀ j, j ≠ k → ringOf t j = ringOf s j) ∧
      { t with board := { t.board with rings := s.board.rings } } = s
    (s.ev.a = 0x10 + 32 * k → (s.ev.b = 8 → sets { r with mbase := s.ev.w }) ∧ (s.ev.b = 4 → sets { r with mbase := lowHalf r.mbase })) ∧
    (s.ev.a = 0x14 + 32 * k → s.ev.b = 4 → sets { r with mbase := highHalf r.mbase }) ∧
    (s.ev.a = 0x18 + 32 * k → (s.ev.b = 8 → sets { r with abase := s.ev.w }) ∧ (s.ev.b = 4 → sets { r with abase := lowHalf r.abase })) ∧
    (s.ev.a = 0x1C + 32 * k → s.ev.b = 4 → sets { r with abase := highHalf r.abase }) ∧
    (s.ev.a = 0x20 + 32 * k → s.ev.b = 4 ∨ s.ev.b = 8 → sets { r with mslots := s.ev.w.setWidth 16 }) ∧
    (s.ev.a = 0x24 + 32 * k ∨ s.ev.a = 0x28 + 32 * k ∨ s.ev.a = 0x2C + 32 * k ∨ 0x210 ≤ s.ev.a ∨ s.ev.a < 0x10 →
      Machine.exec .registerWrite s = .next s))

/-- R333, R335 to R337, R352, R355, R356, R358 to R360, R370, Tables 18.1, 18.2 and 16.4: what comes over the fabric and the host link. A peer's load, store or
atomic is performed through its grant and the target context's tables, or answered with STATUS 1, and completed either way; a completion or
a limit that runs out ends the request of its tag; images, events and wake writes; headers that are discarded; links that go down and
come up; and what the host reads of the register and wake windows. The layouts of the payloads of atomics and images are the model's (log 11). -/
def Obligations.FabricAndHostLink : Prop :=
  let fld (x : DWord) (lo n : Nat) : Nat := x.toNat / 2 ^ lo % 2 ^ n
  let comes (s : State) (kind : Nat) : Prop := fld s.ev.w 0 8 = kind ∧ fld s.ev.w 29 3 = 0 ∧ s.board.standalone = false ∧
    fld s.ev.w 32 9 = s.board.devnum.toNat
  let sdev (s : State) : Nat := fld s.ev.w 41 9
  let sctx (s : State) : Nat := fld s.ev.w 50 10
  let place (s : State) : Nat := fld s.ev.x 0 48
  let tag (s : State) : Nat := fld s.ev.x 48 16
  let completes (s u : State) (st : Nat) (bs : List Byte) : Prop := ∃ h : BitVec 128, u.net.outbox = s.net.outbox ++ [(h, bs)] ∧
    h.toNat % 2 ^ 8 = 4 ∧ h.toNat / 2 ^ 32 % 2 ^ 9 = sdev s ∧ h.toNat / 2 ^ 60 % 2 ^ 4 = st ∧ h.toNat / 2 ^ 112 = tag s
  let through (s : State) (g : DWord) (k : Kind) (n : Nat) (m : Nat → Nat) : Prop :=
    grantOf s (sdev s) (sctx s) = some g ∧ ∀ j, j < n → translate s (g.toNat % 2 ^ 10) (place s + j) k false true = .ok (m j)
  let instr (k : Nat) : Instr := if k = 1 then .causewayLoad else if k = 2 then .causewayStore else .causewayAtomic
  let kind (k : Nat) : Kind := if k = 1 then .ld else if k = 2 then .st else .at
  let fails (i : Instr) (s : State) (t : Nat) (r : Req) (c : Cause) (sub : Nat) : Prop := ∀ w f, findFrag s r.warp r.frag = some (w, f) →
    f.wait.ids = [t] → f.brk = none → r.lane = none → r.copy = none → r.tag.toNat = t →
    let x := mkIssue (fetchAt s w f.pc) r.warp r.frag w f
    let f' := { f with wait := { f.wait with ids := [] } }
    x.late = false → ctxHalted s r.ctx 400 = false →
    ∃ u info, Machine.exec i s = .next (takeTrap u r.warp r.frag x.i c sub x.act info r.addr false) ∧ u.hbm = s.hbm ∧ u.ctxs = s.ctxs ∧
      u.launches = s.launches ∧ findFrag u r.warp r.frag = some ({ w with frags := Tbl.put w.frags r.frag f' }, f')
  (∀ (s : State) (k : Nat), 1 ≤ k → k ≤ 3 → comes s k →
    ((∀ p ∈ s.grants, ¬ (p.2.getLsbD 63 = true ∧ p.2.toNat / 2 ^ 32 % 2 ^ 9 = sdev s ∧ p.2.toNat / 2 ^ 16 % 2 ^ 10 = sctx s)) →
      ∃ u, Machine.exec (instr k) s = .next u ∧ completes s u 1 [] ∧ u.hbm = s.hbm ∧ u.ctxs = s.ctxs) ∧
    (∀ g, grantOf s (sdev s) (sctx s) = some g → g.getLsbD (59 + k) = false ∨ (k ≤ 2 ∧ 0 < fld s.ev.w 16 13 ∧
        ∃ c, translate s (g.toNat % 2 ^ 10) (place s) (kind k) false true = .error c) →
      ∃ u, Machine.exec (instr k) s = .next u ∧ completes s u 1 [] ∧ u.hbm = s.hbm ∧
        ∀ c, Tbl.find s.ctxs (g.toNat % 2 ^ 10) = some c → ∃ c', Tbl.find u.ctxs (g.toNat % 2 ^ 10) = some c' ∧ c'.events = c.events + 1)) ∧
  (∀ (s : State) (g : DWord) (m : Nat → Nat), comes s 1 → g.getLsbD 60 = true → through s g .ld (fld s.ev.w 16 13) m →
    ∃ u, Machine.exec .causewayLoad s = .next u ∧ u.hbm = s.hbm ∧ u.ctxs = s.ctxs ∧
      completes s u 0 ((List.range (fld s.ev.w 16 13)).map fun j => Memory.byte s.hbm (m j))) ∧
  (∀ (s : State) (g : DWord) (m : Nat → Nat), comes s 2 → g.getLsbD 61 = true → through s g .st (fld s.ev.w 16 13) m → s.sigs = [] →
    s.ev.data.length = fld s.ev.w 16 13 → (∀ i j, i < s.ev.data.length → j < s.ev.data.length → m i = m j → i = j) →
    ∃ u, Machine.exec .causewayStore s = .next u ∧ completes s u 0 [] ∧ u.ctxs = s.ctxs ∧
      (∀ j, j < s.ev.data.length → Memory.byte u.hbm (m j) = s.ev.data.getD j 0) ∧
      ∀ a, (∀ j, j < s.ev.data.length → a ≠ m j) → Memory.byte u.hbm a = Memory.byte s.hbm a) ∧
  (∀ (s : State) (g : DWord) (m : Nat → Nat) (op : AtomOp) (ty : VTy), comes s 3 → g.getLsbD 62 = true → s.sigs = [] →
    AtomOp.ofCode (fld s.ev.w 8 8) = some op → (∃ b, s.ev.data[16]? = some b ∧ VTy.ofCode b.toNat = some ty) → through s g .at (atomBytes ty) m →
    let old : DWord := BitVec.ofNat 64 (leNat (Memory.bytes s.hbm (m 0) (atomBytes ty)))
    ∃ u, Machine.exec .causewayAtomic s = .next u ∧ completes s u 0 (leBytes (atomBytes ty) old.toNat) ∧
      u.hbm = Memory.stores s.hbm (m 0) (leBytes (atomBytes ty) (atomNew op ty old (dwordAt s.ev.data 0) (dwordAt s.ev.data 8)).toNat)) ∧
  (∀ s : State, comes s 4 →
    (Tbl.find s.net.reqs (tag s) = none → Machine.exec .causewayCompletion s = .next s) ∧
    (∀ r, Tbl.find s.net.reqs (tag s) = some r → r.host = false →
      (fld s.ev.w 60 4 ≠ 0 → fails .causewayCompletion s (tag s) r .peer 0) ∧
      (fld s.ev.w 60 4 = 0 → ∀ w f t, findFrag s r.warp r.frag = some (w, f) → f.wait.ids = [tag s] → f.brk = none → r.lane = none →
        r.copy = none → r.tag.toNat = tag s → ctxHalted s r.ctx 400 = false → fetchAt s w f.pc = .sld t → ∃ u w' g A, Machine.exec .causewayCompletion s = .next u ∧
          findFrag u r.warp r.frag = some (w', g) ∧ g.pc = afterPc (.sld t) f ∧ Tbl.find w'.access s.freshId = some A ∧
          ∀ j, j < (sldFn t.z.toNat).regs → Tbl.find A.sdst (t.d.toNat + j) = ((sldFn t.z.toNat).words s.ev.data)[j]?))) ∧
  (∀ (s : State) (r : Req), Tbl.find s.net.reqs s.ev.a = some r →
    (∀ c, Tbl.find s.ctxs r.ctx = some c → r.host = false →
      (s.clock.clk.toNat < r.sent + 2100 * (if c.desc.peerto = 0 then 20 else c.desc.peerto) → Machine.exec .peerTimeout s = .next s) ∧
      (r.sent + 2100 * (if c.desc.peerto = 0 then 20 else c.desc.peerto) ≤ s.clock.clk.toNat → fails .peerTimeout s s.ev.a r .peer 4)) ∧
    (r.host = true → (s.clock.clk.toNat < r.sent + 105000 → Machine.exec .hostTimeout s = .next s) ∧
      (r.sent + 105000 ≤ s.clock.clk.toNat → s.ev.b = 0 → fails .hostTimeout s s.ev.a r .prot 0))) ∧
  (∀ s : State, comes s 5 → (∀ p ∈ s.net.objects, p.2.hash = s.ev.data.take 32 → p.2.mapped = true) →
    let img := s.ev.data.drop 32
    let o (mapped : Bool) (img hash : List Byte) : XObj := { image := img, hash := hash, mapped := mapped, since := clkNat s }
    (tag s ≠ 1 → ∃ u, Machine.exec .causewayImage s = .next u ∧ Tbl.find u.net.objects s.freshId = some (o false img (s.ev.data.take 32))) ∧
    (tag s = 1 → sha256 img = s.ev.data.take 32 → ∃ u, Machine.exec .causewayImage s = .next u ∧
      Tbl.find u.net.objects s.freshId = some (o true img (sha256 img))) ∧
    (tag s = 1 → sha256 img ≠ s.ev.data.take 32 → ∀ own, loadObject s s.ev.a = some own → ∃ u, Machine.exec .causewayImage s = .next u ∧
      Tbl.find u.net.objects s.freshId = none ∧ Tbl.find u.net.objects (s.freshId + 1) = some (o true own (sha256 own)))) ∧
  (∀ (s : State) (bar off n : Nat) (ts : List Turn), s.turns = .hostRead bar off n :: ts → ∃ bs, bs.length = n ∧
    let reads : Prop := Machine.step s = .next { s with turns := ts, net := { s.net with reads := s.net.reads ++ [bs] } }
    (bar = 2 → off + n ≤ 65536 → reads ∧ ∀ b ∈ bs, b = 0) ∧
    (bar = 0 → off + n ≤ 4096 → reads ∧ (off = 0 → n = 4 → leNat bs = 0x5A960001) ∧ (off = 4 → n = 1 → leNat bs = s.board.boot.toNat) ∧
      (off = 0x410 → n = 8 → leNat bs = s.board.wrejh.toNat) ∧ (off = 0x418 → n = 8 → leNat bs = s.clock.time.toNat) ∧
      ∀ k, k < 16 → n = 4 → (off = 0x24 + 32 * k → leNat bs = (ringOf s k).mtail.toNat) ∧
        (off = 0x28 + 32 * k → leNat bs = (ringOf s k).mhead.toNat))) ∧
  (∀ s : State, comes s 6 → ∃ u, Machine.exec .causewayEvent s = .next u ∧ { u with ph := s.ph } = s ∧ ∀ k c, Tbl.find s.ph k = some c →
    Tbl.find u.ph k = some { c with sig := c.sig ||| 64 }) ∧
  (∀ s : State, comes s 7 → s.ev.data.length = 64 → ∃ u v, Machine.exec .causewayWake s = .next u ∧
    Machine.exec .wakeWrite { s with ev := { s.ev with a := 0 } } = .next v ∧ u.queues = v.queues ∧ u.board.wrej = v.board.wrej ∧
    u.net.outbox = s.net.outbox ∧ u.hbm = s.hbm) ∧
  (∀ s : State,
    (fld s.ev.w 29 3 ≠ 0 ∨ fld s.ev.w 0 8 = 0 ∨ 8 ≤ fld s.ev.w 0 8 →
      (∀ i ∈ ([.causewayLoad, .causewayStore, .causewayAtomic, .causewayCompletion, .causewayImage, .causewayEvent, .causewayWake] : List Instr),
        Machine.exec i s = .next s) ∧
      ∃ u, Machine.exec .causewayDiscard s = .next u ∧ u.hbm = s.hbm ∧ u.queues = s.queues ∧ u.net = s.net ∧
        (s.board.log.events.length < Config.logCapacity → u.board.log.events.length = s.board.log.events.length + 1)) ∧
    (fld s.ev.w 29 3 = 0 → 1 ≤ fld s.ev.w 0 8 → fld s.ev.w 0 8 ≤ 7 → Machine.exec .causewayDiscard s = .next s)) ∧
  (∀ s : State, ∃ u, Machine.exec .linkDown s = .next u ∧ u.net.routes = s.net.routes ∧ u.board = s.board ∧
    ∀ k, k < 20 → u.net.linksUp.getLsbD k = (s.net.linksUp.getLsbD k && !(decide (k = s.ev.a) && decide (s.ev.a < 18)))) ∧
  (∀ s : State,
    (18 ≤ s.ev.a ∨ s.board.cfg.lkmask.getLsbD s.ev.a = false ∨ (s.board.boot ≠ 4 ∧ s.board.boot ≠ 3) → Machine.exec .linkUp s = .next s) ∧
    (s.ev.a < 16 → s.board.cfg.lkmask.getLsbD s.ev.a = true → s.board.standalone = false → s.board.boot = 4 ∨ (s.board.boot = 3 ∧ s.board.devnum ≠ 0xFF) →
      ∃ u, Machine.exec .linkUp s = .next u ∧ (∀ k, k < 20 → u.net.linksUp.getLsbD k = (s.net.linksUp.getLsbD k || decide (k = s.ev.a))) ∧
        (∀ d, d < 2 ^ 8 → Tbl.read 0 u.net.routes d = Tbl.read 0 s.net.routes d |||
          (if BitVec.ofNat 8 d ∈ s.ev.data then BitVec.ofNat 18 (2 ^ s.ev.a) else 0)) ∧
        (s.board.boot = 3 →
          ((∀ k, k < 18 → s.board.cfg.lkmask.getLsbD k = true → u.net.linksUp.getLsbD k = true) → u.board.boot = 4) ∧
          ((∃ k, k < 18 ∧ s.board.cfg.lkmask.getLsbD k = true ∧ u.net.linksUp.getLsbD k = false) → u.board.boot = 3))))

/-- R361 to R369, R318, Table 18.3: a frame goes into the buffer of the next descriptor of the lowest ring that takes it, or is dropped and
counted; a PTP message goes to the pump house besides, and one of the port and domain in use slews TIME, or sets it past a millisecond;
THROT counts cycles of a throttle only; the power check of each 10 µs deepens and loosens the throttles, matrix spacing first; and a half
at 110 °C throttles to the deepest, at 120 °C the device halts every context and enters recovery. -/
def Obligations.NetworkPowerAndHeat : Prop :=
  let open_ (s : State) (p : Nat) : Prop := p < 2 ∧ s.board.cfg.lkmask.getLsbD (18 + p) = true ∧ s.net.linksUp.getLsbD (16 + p) = true
  let dropped (s u : State) : Prop := u.net.ethDrop = s.net.ethDrop + 1 ∧ u.hbm = s.hbm ∧ u.host = s.host ∧ u.warps = s.warps
  let takes (r : EthRing) (f : List Byte) : Prop := r.rcount ≠ 0 ∧
    let t := beNat ((f.drop 12).take 2)
    (r.etype = 0 ∨ r.etype = if t = 0x8100 then beNat ((f.drop 16).take 2) else t) ∧
    (r.vlan = 0xFFF ∨ (t = 0x8100 ∧ r.vlan = beNat ((f.drop 14).take 2) % 2 ^ 12))
  let goesTo (s : State) (k : Nat) (r : EthRing) : Prop := open_ s s.ev.a ∧ s.ev.b = 0 ∧ k < 8 ∧ Tbl.find s.net.eth (8 * s.ev.a + k) = some r ∧
    takes r s.ev.data ∧ ∀ j, j < k → ∀ q, Tbl.find s.net.eth (8 * s.ev.a + j) = some q → ¬ takes q s.ev.data
  let deep (b : Machine.Board) : Prop := b.space = Config.deepestSpace ∧ b.withhold = Config.deepestWithhold
  (∀ s : State, ¬ open_ s s.ev.a → Machine.exec .frameReceive s = .next s) ∧
  (∀ s : State, open_ s s.ev.a → s.ev.b ≠ 0 ∨ (∀ k q, k < 8 → Tbl.find s.net.eth (8 * s.ev.a + k) = some q → ¬ takes q s.ev.data) →
    ∃ u, Machine.exec .frameReceive s = .next u ∧ dropped s u) ∧
  (∀ (s : State) (k : Nat) (r : EthRing), goesTo s k r →
    let who : Who := { ctx := r.ctx, wg := none }
    let d := r.rbase + BitVec.ofNat 64 (64 * (r.s % r.rcount))
    (tableRead s r.ctx d 64 = none → ∃ u, Machine.exec .frameReceive s = .next u ∧ dropped s u) ∧
    (∀ bs, tableRead s r.ctx d 64 = some bs →
      let len := natAt bs 8 4
      (natAt bs 60 4 / 2 ^ 31 = 0 ∨ len = 0 ∨ len % 64 ≠ 0 ∨ 2 ^ 57 ≤ (dwordAt bs 0).toNat →
        ∃ u, Machine.exec .frameReceive s = .next u ∧ dropped s u) ∧
      (natAt bs 60 4 / 2 ^ 31 ≠ 0 → len ≠ 0 → len % 64 = 0 → (dwordAt bs 0).toNat < 2 ^ 57 → ∀ u1 u2 u3,
        writeVirt s who (dwordAt bs 0) (s.ev.data.take len) = .ok u1 →
        writeVirt u1 who (d + 16) (leBytes 4 s.ev.data.length ++ leBytes 4 (if len < s.ev.data.length then 1 else 0) ++
          leBytes 8 s.clock.time.toNat ++ leBytes 4 (s.clock.timeRem * 65536 / 21)) = .ok u2 →
        writeVirt u2 who (d + 60) (leBytes 4 (r.s % 2 ^ 31)) = .ok u3 → ∃ u, Machine.exec .frameReceive s = .next u ∧ u.hbm = u3.hbm ∧
          u.net.ethDrop = u3.net.ethDrop ∧ Tbl.find u.net.eth (8 * s.ev.a + k) = some { r with s := r.s + 1, warned := false }))) ∧
  (∀ s : State, open_ s s.ev.a → s.ev.b = 0 → ∃ u, Machine.exec .frameReceive s = .next u ∧
    u.net.ptpIn = s.net.ptpIn ++ (if isPtp s.ev.data then [(s.ev.a, s.ev.data)] else [])) ∧
  (∀ s : State, let c := s.clock
    (s.ev.c ≠ 0 → (c.ptpPort ≠ some s.ev.a → Machine.exec .ptpMessage s = .next s) ∧ (c.ptpPort = some s.ev.a →
      Machine.exec .ptpMessage s = .next { s with clock := { c with ptpMaster := false, slew := 0 } })) ∧
    (s.ev.c = 0 → (∀ q ∈ s.net.ptpIn, q.1 ≠ s.ev.a) → Machine.exec .ptpMessage s = .next s) ∧
    (s.ev.c = 0 → ∀ pre f post, s.net.ptpIn = pre ++ (s.ev.a, f) :: post → (∀ q ∈ pre, q.1 ≠ s.ev.a) →
      let t := { s with net := { s.net with ptpIn := pre ++ post } }
      (c.ptpPort ≠ some s.ev.a ∨ c.ptpDomain.toNat ≠ ptpDomain f → Machine.exec .ptpMessage s = .next t) ∧
      (c.ptpPort = some s.ev.a → c.ptpDomain.toNat = ptpDomain f →
        (s.ev.n ≤ 1000000 → Machine.exec .ptpMessage s = .next { t with clock := { c with ptpMaster := true, slew := s.ev.n } }) ∧
        (1000000 < s.ev.n → Machine.exec .ptpMessage s =
          .next { t with clock := { c with ptpMaster := true, time := c.time + BitVec.ofInt 64 s.ev.n, slew := 0 } })))) ∧
  (∀ (s : State) (n : Nat) (ts : List Turn), s.turns = .clock n :: ts → ∃ u k, Machine.step s = .next u ∧ k ≤ n ∧
    u.board.throt = s.board.throt + BitVec.ofNat 64 k ∧ (s.board.space = 0 → s.board.withhold = 0 → k = 0)) ∧
  (∀ s : State, s.clock.clk.toNat / 21000 ≤ s.board.powerAt → Machine.exec .powerCheck s = .next s) ∧
  (∀ s : State, s.board.powerAt < s.clock.clk.toNat / 21000 → ∃ u, Machine.exec .powerCheck s = .next u ∧ u.board.pwr = BitVec.ofNat 32 s.ev.a ∧
    u.board.powerAt = s.clock.clk.toNat / 21000 ∧ u.board.throt = s.board.throt ∧ u.warps = s.warps ∧ u.hbm = s.hbm ∧
    (s.ev.a = 1000 * s.board.cfg.pwrlim.toNat → u.board.space = s.board.space ∧ u.board.withhold = s.board.withhold) ∧
    (1000 * s.board.cfg.pwrlim.toNat < s.ev.a →
      (s.board.space < Config.deepestSpace → u.board.space = s.board.space + 1 ∧ u.board.withhold = s.board.withhold) ∧
      (Config.deepestSpace ≤ s.board.space → s.board.withhold < Config.deepestWithhold → u.board.space = s.board.space ∧
        u.board.withhold = s.board.withhold + 1)) ∧
    (s.ev.a < 1000 * s.board.cfg.pwrlim.toNat →
      (s.board.withhold ≠ 0 → u.board.space = s.board.space ∧ u.board.withhold + 1 = s.board.withhold) ∧
      (s.board.withhold = 0 → u.board.withhold = 0 ∧ u.board.space = s.board.space - 1))) ∧
  (∀ s : State, s.ev.a < 2 → ∃ u, Machine.exec .tempLimit s = .next u ∧
    (if s.ev.a = 0 then u.board.temp0 else u.board.temp1) = BitVec.ofInt 16 s.ev.n ∧ u.warps = s.warps ∧ u.hbm = s.hbm ∧
    (s.ev.n < 1760 → u.board.space = s.board.space ∧ u.board.withhold = s.board.withhold ∧ u.ctxs = s.ctxs ∧ u.board.boot = s.board.boot) ∧
    (1760 ≤ s.ev.n → deep u.board ∧ (s.board.log.events.length < Config.logCapacity → s.board.log.events.length < u.board.log.events.length)) ∧
    (1760 ≤ s.ev.n → s.ev.n < 1920 → u.ctxs = s.ctxs ∧ u.board.boot = s.board.boot) ∧
    (1920 ≤ s.ev.n → u.board.boot = 15 ∧ 16 ∈ u.board.msix ∧ ∀ k c, Tbl.find s.ctxs k = some c → ∃ c', Tbl.find u.ctxs k = some c' ∧ c'.halted.isSome = true))

/-- R32, R54, R283, R289, R292, R297 to R302, R310, R376, Tables 02.4 and 14.7: the dispatcher puts the next workgroup on the core with room
and the fewest warps, its warps as a launch leaves them; a handler warp is launched for a trap queue that holds something; budget periods
and their collection; eviction and pre-emption stop work, a save completes and keeps it, with the last one of a core its room is free, and a
restore makes it resident as it stood; and a launch that is over completes its command, whose head the service core moves where `phdisp`
handed it over. The order of fresh identities is the model's own. -/
def Obligations.SchedulerEvents : Prop :=
  let inPart (p : Part) (k : Nat) : Prop := k < 96 ∧ p.clmask.getLsbD (k / 8) = true
  let open_ (s : State) (L : Launch) (need : Room) (k : Nat) : Prop := fits s false k need (fun _ => false) = true ∧
    waysFit s (k / 48) L.ctx L.lrec.ways (fun _ => false) = true
  let best (s : State) (p : Part) (L : Launch) (need : Room) (k : Nat) : Prop := inPart p k ∧ open_ s L need k ∧
    ∀ j, inPart p j → open_ s L need j → warpsOn s false k < warpsOn s false j ∨ (warpsOn s false k = warpsOn s false j ∧ k ≤ j)
  let alone (s : State) (lid : Nat) (L : Launch) (c : Ctx) (p : Part) : Prop := s.launches = [(lid, L)] ∧ L.ctl = false ∧ L.cluster = none ∧
    L.graph = none ∧ L.lrec.cgwg = 0 ∧ L.lrec.nnodes = 0 ∧ Tbl.find s.ctxs L.ctx = some c ∧ c.halted = none ∧ c.desc.part = s.ev.a ∧
    Tbl.find s.parts s.ev.a = some p
  let need (r : LaunchRec) (n : Nat) : Room :=
    { warps := n, regs := 32 * r.base32 * n + 64 * r.pool, lines := r.scrl, slots := r.bars, tiles := r.tiles * n, accs := r.accs * n, ents := n }
  (Room.ofCore false = { warps := 32, regs := 8192, lines := 4096, slots := 16, tiles := 32, accs := 48, ents := 128 } ∧
    Room.ofCore true = { warps := 8, regs := 2048, lines := 1024, slots := 16, tiles := 0, accs := 0, ents := 32 }) ∧
  (∀ (s : State) (lid k : Nat) (L : Launch) (c : Ctx) (p : Part), alone s lid L c p →
    let r := L.lrec
    let n := r.wx * r.wy * r.wz
    let gid := s.freshId + 1
    L.nextWg < r.gx * r.gy * r.gz → (∀ q ∈ s.cgs, q.2.launch ≠ lid) → fillHalves s = [] → best s p L (need r ((n + 95) / 96)) k →
    ∃ u g, Machine.exec .dispatch s = .next u ∧ Tbl.find u.wgs gid = some g ∧ g.core = k ∧ g.linear = L.nextWg ∧ g.launch = lid ∧ g.ctx = L.ctx ∧
      g.x = L.nextWg % r.gx ∧ g.y = L.nextWg / r.gx % r.gy ∧ g.z = L.nextWg / (r.gx * r.gy) ∧ g.resid = .resident ∧ g.scratch = [] ∧
      g.free = r.pool ∧ g.warps = (List.range ((n + 95) / 96)).map (s.freshId + 2 + ·) ∧
      Tbl.find u.launches lid = some { L with nextWg := L.nextWg + 1 } ∧ u.hbm = s.hbm ∧
      ∀ i, i < (n + 95) / 96 → ∃ w, Tbl.find u.warps (s.freshId + 2 + i) = some w ∧ w.core = k ∧ w.wg = gid ∧ w.index = i ∧ w.resid = .resident ∧
        w.level = L.level ∧ (∀ l, l < 96 → w.lanes0.getLsbD l = decide (96 * i + l < n)) ∧ w.pcr = .launch r ∧ w.base = 32 * r.base32 ∧
        w.frags = [(0, .first w.lanes0 (r.kstart + BitVec.ofNat 64 (4 * r.entry)) .ready)] ∧ w.triple 0 = w.lanes0 ∧
        w.sreg 5 ++ w.sreg 4 = r.karg ∧ w.sreg 6 = BitVec.ofNat 32 L.nextWg ∧ w.sreg 7 = BitVec.ofNat 32 i ∧ w.sreg 8 = BitVec.ofNat 32 g.x ∧
        w.sreg 9 = BitVec.ofNat 32 g.y ∧ w.sreg 10 = BitVec.ofNat 32 g.z ∧ ∀ l, l < 96 → w.lanes0.getLsbD l = true →
          let q := 96 * i + l
          w.vreg 0 l = BitVec.ofNat 32 (q % r.wx + 2 ^ 10 * (q / r.wx % r.wy) + 2 ^ 20 * (q / (r.wx * r.wy)))) ∧
  (∀ (s : State) (lid kc gid wid k : Nat) (L : Launch) (c : Ctx) (p : Part) (cg : Cg) (g : Wg) (w : Warp), alone s lid L c p →
    s.cgs = [(kc, cg)] → cg.launch = lid → cg.wgs = [gid] → Tbl.find s.wgs gid = some g → g.resid = .saved → g.warps = [wid] → g.locks = [] →
    g.launch = lid → Tbl.find s.warps wid = some w → w.ctl = false → s.walks = [] →
    (∀ q ∈ w.frags, q.2.st ≠ .waiting) → L.cls = .h ∨ handlerSaved s L.ctx = false →
    best s p L { need L.lrec 1 with ents := w.frags.length + w.kept } k →
    ∃ u w', Machine.exec .restore s = .next u ∧ Tbl.find u.wgs gid = some { g with core := k, resid := .resident, idle := none } ∧
      Tbl.find u.warps wid = some w' ∧ w'.resid = .resident ∧ w'.core = k ∧ w'.sregs = w.sregs ∧ w'.vregs = w.vregs ∧ w'.acc = w.acc ∧
      w'.tile = w.tile ∧ w'.tokens = w.tokens ∧ u.hbm = s.hbm ∧
      ∀ j f, Tbl.find w.frags j = some f → ∃ f', Tbl.find w'.frags j = some f' ∧ f'.pc = f.pc ∧ f'.lanes = f.lanes) ∧
  (∀ (s : State) (c : Ctx), Tbl.find s.ctxs s.ev.a = some c →
    (c.tq = [] ∨ c.halted ≠ none ∨ c.handler = none ∨ (∃ q ∈ s.launches, q.2.ctx = s.ev.a ∧ q.2.level = .h) →
      Machine.exec .handlerLaunch s = .next s) ∧
    (∀ r, c.tq ≠ [] → c.halted = none → c.handler = some r → (∀ q ∈ s.launches, q.2.ctx = s.ev.a → q.2.level ≠ .h) → ∃ u L,
      Machine.exec .handlerLaunch s = .next u ∧ Tbl.find u.launches s.freshId = some L ∧ L.level = .h ∧ L.cls = .h ∧ L.ctl = true ∧ L.ctx = s.ev.a ∧
      L.lrec = r ∧ L.nextWg = 0 ∧ (∀ wid fid rest w f, c.tq = (wid, fid) :: rest → findFrag s wid fid = some (w, f) → L.age = f.parkClk.toNat) ∧ { u with launches := s.launches, freshId := s.freshId } = s)) ∧
  (∀ s : State, (s.clock.clk.toNat / 2100000 ≤ s.period → Machine.exec .budgetPeriod s = .next s) ∧
    (s.period < s.clock.clk.toNat / 2100000 → ∃ u, Machine.exec .budgetPeriod s = .next u ∧ u.period = s.clock.clk.toNat / 2100000 ∧
      ∀ k c, Tbl.find s.ctxs k = some c → ∃ c', Tbl.find u.ctxs k = some c' ∧ (∀ b, Tbl.read 0 c'.spent b = 0) ∧
        c'.charged = (if c.later.1 = s.clock.clk.toNat / 2100000 then c.later.2 else []) ∧
        c'.desc = (match c.pending with | some d => d | none => c.desc) ∧ c'.pending = none ∧ c'.tq = c.tq ∧ c'.halted = c.halted) ∧
    ∃ u, Machine.exec .budgetCollect s = .next u ∧ { u with ctxs := s.ctxs } = s ∧ ∀ k c, Tbl.find s.ctxs k = some c → (c.charged.map (·.1)).Nodup →
      ∃ c', Tbl.find u.ctxs k = some c' ∧ c'.charged = [] ∧ ∀ b, Tbl.read 0 c'.spent b = Tbl.read 0 c.spent b + Tbl.read 0 c.charged b) ∧
  (∀ (s : State) (cg : Cg), Tbl.find s.cgs s.ev.a = some cg →
    (cgIdle s cg = false ∨ waitsForRoom s cg.launch = false → Machine.exec .eviction s = .next s) ∧
    (cgIdle s cg = true → waitsForRoom s cg.launch = true → s.pix = [] → s.walks = [] → ∃ u, Machine.exec .eviction s = .next u ∧
      ∀ k ∈ cg.wgs, ∀ g, Tbl.find s.wgs k = some g → g.resid = .resident ∧ ∃ g', Tbl.find u.wgs k = some g' ∧ g'.resid = .leaving ∧ g'.core = g.core ∧
        ∀ j ∈ g.warps, ∀ w, Tbl.find s.warps j = some w → ∃ w', Tbl.find u.warps j = some w' ∧ w'.resid = .leaving ∧ w'.sregs = w.sregs ∧
          w'.vregs = w.vregs ∧ ∀ i f, Tbl.find w.frags i = some f → ∃ f', Tbl.find w'.frags i = some f' ∧ f'.pc = f.pc ∧ f'.lanes = f.lanes)) ∧
  (∀ (s : State) (L : Launch) (part : Nat) (x : Waiter) (item : Item), Tbl.find s.launches s.ev.a = some L → partOf s L.ctx = some part →
    (waiting s part).find? (fun p => p.1.id == s.ev.a) = some (x, item) →
    let choices := victimChoices s part x.id x.L item
    ((place s part x.id x.L item Machine.Wg.leaves).isSome = true ∨ choices = [] → Machine.exec .preemption s = .next s) ∧
    ((place s part x.id x.L item Machine.Wg.leaves) = none → choices ≠ [] → s.pix = [] → s.walks = [] → (s.wgs.map (·.1)).Nodup →
      ∃ v u, v ∈ choices ∧
      (∀ o ∈ choices, v.count ≤ o.count) ∧ Machine.exec .preemption s = .next u ∧ ∀ k g, Tbl.find s.wgs k = some g → g.resid = .resident →
        ∃ g', Tbl.find u.wgs k = some g' ∧ (g'.resid = .leaving ↔ g.ctl = x.L.ctl ∧ (g.ctx, g.core) ∈ v.set))) ∧
  (∀ (s : State) (gid wid : Nat) (g : Wg) (w : Warp) (c : Ctx),
    s.wgs.filter (fun p => p.2.ctl == decide (s.ev.a ≠ 0) && p.2.core == s.ev.b && p.2.ctx == s.ev.c && p.2.resid == .leaving) = [(gid, g)] →
    Tbl.find s.wgs gid = some g → g.warps = [wid] → Tbl.find s.warps wid = some w → Tbl.find s.ctxs s.ev.c = some c → w.ctl = g.ctl → w.core = g.core →
    (hasRows s wid = true ∨ (∃ p ∈ w.frags, p.2.st = .running ∧ p.2.wkind = .peer) → Machine.exec .saveComplete s = .next s) ∧
    (hasRows s wid = false → (∀ p ∈ w.frags, p.2.st ≠ .running ∨ p.2.wkind ≠ .peer) → ∃ u g' w', Machine.exec .saveComplete s = .next u ∧
      Tbl.find u.wgs gid = some g' ∧ Tbl.find u.warps wid = some w' ∧ g' = { g with resid := g'.resid } ∧ w'.resid = g'.resid ∧
      ((∃ p ∈ s.wgs, p.2.ctl = g.ctl ∧ p.2.core = g.core ∧ p.2.ctx ≠ s.ev.c ∧ p.2.resid = .leaving) → g'.resid = .written) ∧
      ((∀ p ∈ s.wgs, p.2.ctl = g.ctl → p.2.core = g.core → p.2.ctx ≠ s.ev.c → p.2.resid ≠ .leaving) → g'.resid = .saved) ∧
      w'.sregs = w.sregs ∧ w'.vregs = w.vregs ∧ w'.restart = false ∧
      (w.restart = false ∨ w.restartable s = false → s.mops = [] → w'.acc = w.acc ∧ w'.tile = w.tile ∧ w'.tokens = w.tokens ∧ w'.pcr = w.pcr ∧
        ∀ j f, Tbl.find w.frags j = some f → ∃ f', Tbl.find w'.frags j = some f' ∧ f'.pc = f.pc ∧ f'.lanes = f.lanes ∧ f'.s = f.s ∧ f'.j = f.j) ∧
      (∀ L j f, w.restart = true → w.restartable s = true → w.frags = [(j, f)] → Tbl.find s.launches w.launch = some L → w'.landDue = true ∧
        w'.acc = [] ∧ ∃ f', w'.frags = [(j, f')] ∧ f'.pc = L.lrec.kstart + BitVec.ofNat 64 (4 * w.pcr.rlab.toNat) ∧ f'.st = .ready ∧
        f'.lanes = f.lanes) ∧
      (s.sigs = [] → ∀ a, a < c.desc.csave ∨ c.desc.csave + c.desc.csavelen ≤ a → Memory.byte u.hbm a = Memory.byte s.hbm a))) ∧
  (∀ (s : State) (L : Launch), Tbl.find s.launches s.ev.a = some L → L.lrec.nnodes = 0 →
    let busy : Prop := (∃ p ∈ s.wgs, p.2.launch = s.ev.a) ∨ (∃ p ∈ s.pix, p.2.launch = s.ev.a ∨ p.2.graph = some s.ev.a) ∨
      (∃ p ∈ s.walks, p.2.launch = s.ev.a)
    (busy ∨ L.nextWg < L.lrec.gx * L.lrec.gy * L.lrec.gz ∨ L.queue = none → Machine.exec .launchComplete s = .next s) ∧
    (∀ k q, ¬ busy → L.lrec.gx * L.lrec.gy * L.lrec.gz ≤ L.nextWg → L.queue = some k → Tbl.find s.queues k = some q →
      q.run = some (.launch s.ev.a q.head) → ∃ u q', Machine.exec .launchComplete s = .next u ∧ Tbl.find u.launches s.ev.a = none ∧
        Tbl.find u.queues k = some q' ∧ q'.head = q.head + 1 ∧ q'.done = q.done + 1 ∧ q'.tdone = s.clock.time ∧ q'.run = none ∧
        q'.st = (if q.st = .running ∧ q.head + 1 = q.tail then .idle else q.st) ∧
        u.board.msix = s.board.msix ++ (if q.vec then [32 + k % 2016] else []) ∧ ∀ j p, Tbl.find u.parts j = some p → s.ev.a ∉ p.intake) ∧
    (∀ k q, ¬ busy → L.lrec.gx * L.lrec.gy * L.lrec.gz ≤ L.nextWg → L.queue = some k → Tbl.find s.queues k = some q → q.run = some (.handed s.ev.a) →
      ∃ u, Machine.exec .launchComplete s = .next u ∧ Tbl.find u.launches s.ev.a = none ∧
        Tbl.find u.queues k = some { q with run := some .retire, done := q.done + 1, tdone := s.clock.time }))

/-- R25, R53, R161, R317 to R320, R358, Tables 01.6, 15.8 and 15.9: a quarter gives its slot to the ready fragment that stands first (after
held fragments of a warp that found it taken and may merge now: DEDUCED, log 22); an
access lands in registers, tiles and accumulators, and leaves flight; refresh windows; the barrier watchdog and its capture; errors of
memory; and a halt, which discards a context's work, writes its records from CSAVE on, stops its queues with error 6, and leaves every
other context as it stood, but for fragments that waited for a place that has come free. -/
def Obligations.LandingsAndHalts : Prop :=
  let ready (s : State) : List Choice := readyIn s (decide (s.ev.a ≠ 0)) s.ev.b s.ev.c
  let fit (s : State) : List Choice := (ready s).filter (choosable s (ready s))
  let rank (f : Frag) (c : Cls) : Nat := if 8 ≤ f.starve then 0 else match c with | .h => 1 | .d => 2 | .v => 2 | _ => 3
  let first (a b : Choice) : Prop := rank a.f a.w.cls < rank b.f b.w.cls ∨ (rank a.f a.w.cls = rank b.f b.w.cls ∧
    (a.w.age < b.w.age ∨ (a.w.age = b.w.age ∧ a.fid < b.fid)))
  let halts (i : Instr) (s : State) (ctx cause sub : Nat) (a : DWord) : Prop := ∃ u c c', Machine.exec i s = .next u ∧ Tbl.find s.ctxs ctx = some c ∧
    Tbl.find u.ctxs ctx = some c' ∧ c'.halted = some (cause, sub, a, s.clock.clk.toNat) ∧ c'.tq = c.tq ∧ u.warps = s.warps ∧ u.queues = s.queues ∧
    ∀ k p, Tbl.find s.ph k = some p → Tbl.find u.ph k = some { p with sig := p.sig ||| 32 }
  (∀ s : State,
    let held : Option Nat := heldWarp s (decide (s.ev.a ≠ 0)) s.ev.b s.ev.c
    (slotHeld s (decide (s.ev.a ≠ 0)) s.ev.b s.ev.c = true ∨ (held = none ∧ fit s = []) → Machine.exec .reachSelect s = .next s) ∧
    (∀ wid, slotHeld s (decide (s.ev.a ≠ 0)) s.ev.b s.ev.c = false → held = some wid → Machine.exec .reachSelect s = .next (joins s wid)) ∧
    (∀ c : Choice, slotHeld s (decide (s.ev.a ≠ 0)) s.ev.b s.ev.c = false → held = none → c ∈ fit s → (∀ d ∈ fit s, d = c ∨ first c d) →
      (s.warps.map (·.1)).Nodup → (∀ p ∈ s.warps, (p.2.frags.map (·.1)).Nodup) →
      ∃ u w g, Machine.exec .reachSelect s = .next u ∧ u.focus = some (.frag c.wid c.fid) ∧ findFrag u c.wid c.fid = some (w, g) ∧
        g = { c.f with st := .running, wkind := .none, starve := 0, yield := [], due := if c.f.cont then c.f.due else c.w.timer, cont := false } ∧
        ∀ d ∈ ready s, (d.wid, d.fid) ≠ (c.wid, c.fid) →
          ∃ w' h, findFrag u d.wid d.fid = some (w', h) ∧ h.starve = d.f.starve + 1 ∧ h.st = .ready ∧ h.pc = d.f.pc)) ∧
  (∀ (s : State) (w : Warp) (a : Access), s.ev.c = 0 → Tbl.find s.warps s.ev.a = some w → Tbl.find w.access s.ev.b = some a →
    (ownedAccess s s.ev.a s.ev.b = true ∨ ctxHalted s w.ctx 400 = true → Machine.exec .accessComplete s = .next s) ∧
    (ownedAccess s s.ev.a s.ev.b = false → ctxHalted s w.ctx 400 = false → w.ended = false → (a.vdst.map (·.1)).Nodup → (a.sdst.map (·.1)).Nodup →
      (a.tdst.map (·.1)).Nodup → (a.adst.map (·.1)).Nodup → (∀ p ∈ a.sdst, 3 ≤ p.1) →
      ∃ u w', Machine.exec .accessComplete s = .next u ∧ Tbl.find u.warps s.ev.a = some w' ∧ Tbl.find w'.access s.ev.b = none ∧ u.hbm = s.hbm ∧
        (∀ r l, l < 96 → w'.vreg r l = match Tbl.find a.vdst (vkey r l) with
          | some v => if r < w.top then v else w.vreg r l
          | none => w.vreg r l) ∧
        (∀ r, w'.sreg r = (Tbl.find a.sdst r).getD (w.sreg r)) ∧
        (∀ k, Tbl.read 0 w'.tile k = match Tbl.find a.tdst k with
          | some v => v
          | none => if k / 16384 ∈ a.tiles then 0 else Tbl.read 0 w.tile k) ∧
        (∀ k, Tbl.read 0 w'.acc k = (Tbl.find a.adst k).getD (Tbl.read 0 w.acc k)) ∧
        ∀ t, a.tok = some t → Tbl.read 0 w'.tokens t = Tbl.read 0 w.tokens t - 1)) ∧
  (∀ (s : State) (r : Req), Tbl.find s.net.reqs s.ev.a = some r →
    (r.host = false → s.ev.c ≠ 0 → Machine.exec .accessComplete s = .next s) ∧
    (r.host = true → s.ev.c = 1 → Machine.exec .accessComplete s = .next (if r.kind = 1
      then endReq s s.ev.a (.ok (Memory.bytes s.host (offOf r.addr) r.bytes))
      else endReq { s with host := Memory.stores s.host (offOf r.addr) r.data } s.ev.a (.ok []))) ∧
    (r.host = true → 2 ≤ s.ev.c → Machine.exec .accessComplete s = .next (endReq s s.ev.a (.error (.prot, 0))))) ∧
  (∀ s : State, let opens (k : Nat) : Bool := decide ((s.clock.clk.toNat + 67200 * k) % 134400 < 8400)
    (s.ev.a = 0 ∨ s.ev.a = 1 → (opens s.ev.a = false → Machine.exec .refreshWindowBegin s = .next s) ∧
      (opens s.ev.a = true → Machine.exec .refreshWindowEnd s = .next s)) ∧
    (s.ev.a = 0 → opens 0 = true → Machine.exec .refreshWindowBegin s = .next { s with clock := { s.clock with win0 := true } }) ∧
    (s.ev.a = 1 → opens 1 = true → Machine.exec .refreshWindowBegin s = .next { s with clock := { s.clock with win1 := true } }) ∧
    (s.ev.a = 0 → opens 0 = false → Machine.exec .refreshWindowEnd s = .next { s with clock := { s.clock with win0 := false } }) ∧
    (s.ev.a = 1 → opens 1 = false → Machine.exec .refreshWindowEnd s = .next { s with clock := { s.clock with win1 := false } })) ∧
  (∀ s : State, Machine.exec .correctableError s = .next { s with board := { s.board with cecc := s.board.cecc + 1 } } ∧
    (Tbl.find s.ctxs s.ev.a = none → Machine.exec .uncorrectableError s = .next s) ∧
    ∀ c, Tbl.find s.ctxs s.ev.a = some c → (c.halted ≠ none → Machine.exec .uncorrectableError s = .next s) ∧
      (c.halted = none → halts .uncorrectableError s s.ev.a 0x1A s.ev.b s.ev.w)) ∧
  (∀ (s : State) (g : Wg) (c : Ctx) (r : Round) (L : Launch), Tbl.find s.wgs s.ev.b = some g → Tbl.find s.ctxs g.ctx = some c →
    roundOf s g (decide (s.ev.a ≠ 0)) s.ev.c = some r → Tbl.find s.launches g.launch = some L → L.graph = none →
    let limit := if c.desc.wdog = 0 then 2 ^ 24 else 1024 * c.desc.wdog
    let sub := (if s.ev.a ≠ 0 then 16 else 0) + s.ev.c
    (c.halted ≠ none ∨ r.count < limit → Machine.exec .barto s = .next s) ∧
    (c.halted = none → limit ≤ r.count → halts .barto s g.ctx 0x14 sub 0 ∧
      (freeRun L 2 = none → ∃ u c' bs, Machine.exec .barto s = .next u ∧ u.hbm = s.hbm ∧ Tbl.find u.ctxs g.ctx = some c' ∧ c'.capture = some bs ∧
        natAt bs 0 4 = (0x14 * 2 ^ 24 + 2 * 2 ^ 16 + sub) % 2 ^ 32 ∧ natAt bs 8 8 = r.pc.toNat) ∧
      (∀ i (m : Nat → Nat), freeRun L 2 = some i → s.sigs = [] → (L.lrec.frame + BitVec.ofNat 64 (2048 * i)).toNat + 4096 ≤ 2 ^ 57 →
        (∀ q, q < 4096 → translate s g.ctx ((L.lrec.frame + BitVec.ofNat 64 (2048 * i)).toNat + q) .st false false = .ok (m q)) →
        (∀ x y, x < 4096 → y < 4096 → m x = m y → x = y) → ∃ u, Machine.exec .barto s = .next u ∧
          let word (o : Nat) : Nat := leNat ((List.range 4).map fun j => Memory.byte u.hbm (m (o + j)))
          word 0 = (0x14 * 2 ^ 24 + 2 * 2 ^ 16 + sub) % 2 ^ 32 ∧ word 8 + 2 ^ 32 * word 12 = r.pc.toNat ∧ word 0x1C = g.linear % 2 ^ 32 ∧
          (∀ z, (∀ q, q < 4096 → z ≠ m q) → Memory.byte u.hbm z = Memory.byte s.hbm z)))) ∧
  (∀ (s : State) (c : Ctx), Tbl.find s.ctxs s.ev.a = some c →
    (c.halted = none → Machine.exec .halt s = .next s) ∧
    (∀ cause sub a t, c.halted = some (cause, sub, a, t) → ∃ u c', Machine.exec .halt s = .next u ∧ Tbl.find u.ctxs s.ev.a = some c' ∧ c'.halted = none ∧
      c'.tq = [] ∧ c'.events = c.events + 1 ∧ u.board.nhalt = s.board.nhalt + 1 ∧ 16 ∈ u.board.msix ∧
      (∀ p ∈ u.warps, p.2.ctx ≠ s.ev.a) ∧ (∀ p ∈ u.wgs, p.2.ctx ≠ s.ev.a) ∧ (∀ p ∈ u.launches, p.2.ctx ≠ s.ev.a) ∧
      (∀ p ∈ u.copies, p.2.ctx ≠ s.ev.a) ∧ (∀ p ∈ u.walks, p.2.ctx ≠ s.ev.a) ∧ (∀ p ∈ u.builds, p.2.ctx ≠ s.ev.a) ∧
      (∀ p ∈ u.pix, p.2.ctx ≠ s.ev.a) ∧ (∀ p ∈ u.bins, p.2.ctx ≠ s.ev.a) ∧ (∀ p ∈ u.jobs, p.2.ctx ≠ s.ev.a) ∧
      (∀ k w, Tbl.find s.warps k = some w → w.ctx ≠ s.ev.a → ∃ w', Tbl.find u.warps k = some w' ∧ { w' with frags := w.frags } = w ∧
        ∀ j f, Tbl.find w.frags j = some f → ∃ f', Tbl.find w'.frags j = some f' ∧ (f' = f ∨
          (f.st = .stalled ∧ (f.wkind = .copySlots ∨ f.wkind = .walkRoom ∨ f.wkind = .buildQueue) ∧
            f' = { f with st := .ready, wkind := .none, warg := 0 }))) ∧
      (∀ k x, k ≠ s.ev.a → Tbl.find s.ctxs k = some x → Tbl.find u.ctxs k = some x) ∧
      (∀ k q, Tbl.find s.queues k = some q → Tbl.find u.queues k = some (if q.owner = s.ev.a ∧ q.used = true
        then { q with st := .halted, err := 6, esub := BitVec.ofNat 32 cause, run := none } else q)) ∧
      (s.sigs = [] → (∀ z, z < c.desc.csave ∨ c.desc.csave + c.desc.csavelen ≤ z → Memory.byte u.hbm z = Memory.byte s.hbm z) ∧
        let rs := stoppedUnits s s.ev.a
        let n := rs.length + (if c.capture.isSome then 1 else 0)
        64 * (n + 1) ≤ c.desc.csavelen →
          Memory.le u.hbm (c.desc.csave + 64 * n) 4 = (0xF000 * 2 ^ 16 + cause * 2 ^ 8) % 2 ^ 32 ∧
          Memory.le u.hbm (c.desc.csave + 64 * n + 4) 4 = n % 2 ^ 32 ∧
          ∀ j r, rs[j]? = some r → Memory.le u.hbm (c.desc.csave + 64 * j) 4 = (r.unit * 2 ^ 16 + cause * 2 ^ 8) % 2 ^ 32 ∧
            Memory.le u.hbm (c.desc.csave + 64 * j + 4) 4 = r.count % 2 ^ 32 ∧
            Memory.le u.hbm (c.desc.csave + 64 * j + 8) 8 = s.clock.clk.toNat ∧
            Memory.le u.hbm (c.desc.csave + 64 * j + 16) 8 = s.clock.time.toNat ∧
            Memory.le u.hbm (c.desc.csave + 64 * j + 24) 8 = r.last.toNat)))

/-! ## Operands, encodings, steps and reset -/

/-- R96: an inline integer is placed into every element of the instruction's type, in every selector position but those of R97. -/
def Obligations.InlineIntegers : Prop :=
  ∀ (w : Warp) (fid : Nat) (f : Frag) (pos l : Nat) (v : BitVec 9),
    let gives (ty : VTy) : DWord := selVal w fid f ty pos (.imm v) l
    gives .s32 = (v.signExtend 32).setWidth 64 ∧ gives .n32 = (v.signExtend 32).setWidth 64 ∧ gives .b32 = (v.signExtend 32).setWidth 64 ∧
    gives .s16x2 = (v.signExtend 16 ++ v.signExtend 16 : Word).setWidth 64 ∧ gives .n16x2 = (v.signExtend 16 ++ v.signExtend 16 : Word).setWidth 64 ∧
    (let b : Byte := v.setWidth 8
     gives .s8x4 = (b ++ b ++ b ++ b : Word).setWidth 64 ∧ gives .n8x4 = (b ++ b ++ b ++ b : Word).setWidth 64) ∧
    gives .s64 = v.signExtend 64 ∧ gives .n64 = v.signExtend 64 ∧
    (∀ ty ∈ ([.f32, .f16x2, .bf16x2] : List VTy), ∀ k, k < ty.count → (ty.ff.dec (elemAt ty.width (gives ty) k)).rat = v.toInt) ∧
    ∀ ty ∈ ([.e4m3x4, .e5m2x4, .e2m1x8] : List VTy), ∀ k, k < ty.count → elemAt ty.width (gives ty) k =
      ty.ff.roundFin .rne true false (decide (v.toInt < 0)) (v.toInt.natAbs : Rat)

/-- R43, R95, R97, R110, Tables 02.3 and 04.8: what the selectors other than an inline integer deliver, with which element types a floating
constant is no operand, which twelve bits are a selector, and the second operand of the S format. -/
def Obligations.OperandForms : Prop :=
  (∀ (w : Warp) (fid : Nat) (f : Frag) (pos l : Nat), l < 96 →
    (∀ (ty : VTy) (n : BitVec 11), selVal w fid f ty pos (.vreg n) l = if ty.isL then w.vreg (n.toNat + 1) l ++ w.vreg n.toNat l
      else (w.vreg n.toNat l).setWidth 64) ∧
    (∀ (ty : VTy) (n : BitVec 9), selVal w fid f ty pos (.sreg n) l = if ty.isL then w.sreg (n.toNat + 1) ++ w.sreg n.toNat
      else (w.sreg n.toNat).setWidth 64) ∧
    (∀ (ty : VTy) (k : BitVec 2) (t : Tbl DWord), f.replay = none → f.latches[k.toNat]? = some t → selVal w fid f ty pos (.latch k) l =
      if ty.isL then Tbl.read 0 t l else ((Tbl.read 0 t l).setWidth 32).setWidth 64) ∧
    (∀ c : BitVec 9, c.toNat ≤ 6 → ∀ n, ([0, 1, l, l / 32, w.index, fid, w.depthOf l] : List Nat)[c.toNat]? = some n →
      selInt w fid f pos (.special c) l = BitVec.ofNat 32 n ∧ selVal w fid f .n32 pos (.special c) l = BitVec.ofNat 64 (n % 2 ^ 32)) ∧
    (∀ ty ∈ ([.f32, .b32] : List VTy), selVal w fid f ty pos (.special 7) l = 0x3F800000 ∧
      selVal w fid f ty pos (.special 8) l = 0xBF800000 ∧ selVal w fid f ty pos (.special 9) l = 0x3F000000) ∧
    (∀ ty ∈ ([.f16x2, .bf16x2, .e4m3x4, .e5m2x4, .e2m1x8] : List VTy), ∀ k, k < ty.count →
      let holds (c : BitVec 9) (q : Rat) : Prop := (ty.ff.dec (elemAt ty.width (selVal w fid f ty pos (.special c) l) k)).rat = q
      holds 7 1 ∧ holds 8 (-1) ∧ holds 9 (1 / 2)) ∧
    (∀ (ty : VTy) (c : BitVec 9), 7 ≤ c.toNat → c.toNat ≤ 9 → ((Sel.special c).okFor ty = true ↔ ty.isFloat = true ∨ ty = .b32) ∧
      (Sel.special c).okInt = false) ∧
    (∀ v : BitVec 9, selInt w fid f pos (.imm v) l = v.signExtend 32) ∧ (∀ n : BitVec 11, selInt w fid f pos (.vreg n) l = w.vreg n.toNat l) ∧
    ∀ n : BitVec 9, selInt w fid f pos (.sreg n) l = w.sreg n.toNat) ∧
  (∀ n : BitVec 11, selOfBits (0#1 ++ n) = some (.vreg n)) ∧
  (∀ n : BitVec 9, selOfBits (0b101#3 ++ n) = some (.sreg n) ∧ selOfBits (0b110#3 ++ n) = some (.special n) ∧
    selOfBits (0b111#3 ++ n) = some (.imm n) ∧ selOfBits (0b100#3 ++ n) = if n.toNat < 4 then some (.latch (n.setWidth 2)) else none) ∧
  (∀ (t : SFmt) (w : Warp),
    (∀ a b i, t.src = .regs a b i → t.op2 w = if t.ty.wide then w.sreg (b.toNat + 1) ++ w.sreg b.toNat else (w.sreg b.toNat).setWidth 64) ∧
    ∀ a i, t.src = .imm a i → t.op2 w = if t.ty.wide then i.signExtend 64 else (i.signExtend 32).setWidth 64)

/-- R4, R84 to R93, R98, R100, R241, R339, Tables 04.8, 04.9, 05.6, 06.9, 08.8, 10.8, 11.8 and 17.1: words that the spec writes out decode
to the instructions beside them, and words that no instruction has do not decode. -/
def Obligations.WordsOfTheSpec : Prop :=
  let v : VFmt :=
    { lk := false, ty := .s32, sat := false, rc := .mode, guard := none, nw := false, d := 0, a := .vreg 0, x := 0, b := .vreg 0,
      c := .vreg 0, y := 0 }
  decodeGranules 0x42000148 0x0A800064 0 = .ok (.sadd { lk := false, ty := .s32, d := 20, z := 0, src := .imm 21 100 }) ∧
  decodeGranules 0x62A10000 0x0F000000 0 = .ok (.pcrw { lk := true, ty := .s32, d := 0, z := 0, src := .regs 30 0 0 }) ∧
  decodeGranules 0x6060000C 0x002C0000 0 = .ok (.iff { lk := true, imm := 12, cond := .mask 5, neg := true, lp := 0 }) ∧
  decodeGranules 0x61010000 0x40485000 0 = .ok (.ctab { lk := true, imm := 0, cond := .vec 9, neg := false, lp := 40 }) ∧
  decodeGranules 0x20A1FFF2 0 0 = .ok (.endloop { lk := true, imm := 0xFFF2 }) ∧
  decodeGranules 0x88002800 0x01401500 0xFFD00000 = .ok (.vadd { v with ty := .s16x2, sat := true, d := 20, a := .vreg 21, b := .imm (-3) }) ∧
  decodeGranules 0x88426000 0x00500100 0x00200000 = .ok (.vcmp .lt { v with ty := .f32, d := 5, a := .vreg 1, b := .vreg 2 }) ∧
  decodeGranules 0x50000028 0x003F8080 0 = .ok (.tcfg { lk := false, ty := .s32, d := 2, z := 0, src := .imm 0 0x3F8080 }) ∧
  decodeGranules 0x90409000 0x00000003 0x00000010 = .ok (.mma { v with ty := .e4m3x4, x := 3, y := 0x10 }) ∧
  decodeGranules 0x92A0608C 0x008A1F01 0xA1400000 = .ok (.pzt { v with ty := .f32, guard := some 12, d := 8, a := .sreg 31, x := 1, b := .sreg 20 }) ∧
  decodeWalk 0x91010002 = some (.wmovSpecial 1 2) ∧ decodeWalk 0x68200005 = some (.wbnz 1 5) ∧ decodeWalk 0x0A000000 = some (.wchild 2) ∧
  decodeWalk 0x7B210001 = some (.wsubImm 3 1 1) ∧ decodeWalk 0x2000000E = some (.wpop 14) ∧ decodeWalk 0xC0000000 = some .wdone ∧
  decodePh 0x00C5850B = some (.phring 10 11 12) ∧ decodePh 0x02C5950B = some (.phbfxS 10 11 12) ∧ decodePh 0x0005952B = some (.phunseal 10 11) ∧
  decodeGranules 0xC0000000 0 0 = .error .early ∧ decodeGranules 0x01400000 0 0 = .error .early ∧ decodeWalk 0xD0000000 = none

/-- R4, R84 to R95, R98, R100, R241, R339: decoding the words of a well-formed instruction gives it back, with every operand at every value
that its encoding admits; what decodes is well-formed and has exactly these words; and LEN 11 decodes to nothing. -/
def Obligations.DecodeAndEncodeAgree : Prop :=
  (∀ i : Instr, i.wellFormed = true → (∀ opc fn t, i.shape = .c opc fn t → decodeGranules (i.encode.getD 0 0) 0 0 = .ok i ∧ i.encode.length = 1) ∧
    (∀ opc fn t, i.shape = .cx opc fn t → decodeGranules (i.encode.getD 0 0) (i.encode.getD 1 0) 0 = .ok i ∧ i.encode.length = 2) ∧
    (∀ opc fn t, i.shape = .s opc fn t → decodeGranules (i.encode.getD 0 0) (i.encode.getD 1 0) 0 = .ok i ∧ i.encode.length = 2) ∧
    (∀ opc fn t, i.shape = .v opc fn t → decodeGranules (i.encode.getD 0 0) (i.encode.getD 1 0) (i.encode.getD 2 0) = .ok i ∧ i.encode.length = 3) ∧
    (∀ opc fn t, i.shape = .vm opc fn t → decodeGranules (i.encode.getD 0 0) (i.encode.getD 1 0) (i.encode.getD 2 0) = .ok i ∧ i.encode.length = 3) ∧
    (∀ op a b c f imm, i.shape = .walk op a b c f imm → ∃ g, i.encode = [g] ∧ decodeWalk g = some i) ∧
    ∀ c1 f3 f7 rd a b, i.shape = .ph c1 f3 f7 rd a b → ∃ g, i.encode = [g] ∧ decodePh g = some i) ∧
  (∀ g0 g1 g2 i, decodeGranules g0 g1 g2 = .ok i → i.wellFormed = true ∧ i.encode = [g0, g1, g2].take (granulesOf g0)) ∧
  (∀ g i, decodeWalk g = some i → i.wellFormed = true ∧ i.encode = [g]) ∧ (∀ g i, decodePh g = some i → i.encode = [g]) ∧
  ∀ g0 g1 g2 : Word, g0.extractLsb' 30 2 = 3 → decodeGranules g0 g1 g2 = .error .early

/-- R13, R23, R48, R49, R51, R84, R98, R205, R240, R241, R338: a step executes the instruction that is decoded where the agent whose turn it is stands, a
fragment at its PC, a walk at its UPC, a service core at its pc; a granule that cannot be fetched, or that is no instruction, goes to the
trap of R98 in its place; a TIMER trap that was pending when the reach was won is taken at its start; a restarted warp goes on at `land` or
faults LAND; a service core's word outside the custom opcodes is one of its base set (whose rules are PRESUMED, log 6); and passing time
advances CLK, and TIME by 10 ns in every 21 cycles. Whose turn it is, is the model's own (log 1). -/
def Obligations.StepRunsDecoded : Prop :=
  let restart (s : State) (w : Warp) : DWord :=
    (match Tbl.find s.launches w.launch with | some L => L.lrec.kstart | none => 0) + BitVec.ofNat 64 (4 * w.pcr.rlab.toNat)
  let frag (s : State) (wid fid : Nat) (w : Warp) (f : Frag) (ts : List Turn) : Prop := s.turns = .issue wid fid :: ts ∧
    findFrag s wid fid = some (w, f) ∧ w.resid = .resident ∧ ctxHalted s w.ctx 400 = false ∧ f.st = .running ∧ f.wkind ≠ .peer ∧
    (w.landDue = false ∨ f.pc ≠ restart s w)
  let inFocus (s : State) (wid fid : Nat) (w : Warp) (f : Frag) (ts : List Turn) (due : Bool) : State :=
    let w' : Warp := { w with frags := Tbl.put w.frags fid { f with st := .running, wkind := .none }, landDue := due }
    { s with turns := ts, focus := some (.frag wid fid), warps := Tbl.put s.warps wid w' }
  let runs (s : State) (wid fid : Nat) (w : Warp) (f : Frag) (ts : List Turn) (i : Instr) : Prop :=
    Machine.step s = Machine.exec i (inFocus s wid fid w f ts (w.landDue && f.due && w.timer))
  let at_ (s : State) (w : Warp) (f : Frag) (gs : List Word) : Prop := ∀ j g, gs[j]? = some g →
    ∃ bs, readCode s w (f.pc + BitVec.ofNat 64 (4 * j)) 4 = .ok bs ∧ g = BitVec.ofNat 32 (leNat bs)
  (∀ (s : State) (wid fid : Nat) (w : Warp) (f : Frag) (ts : List Turn), frag s wid fid w f ts →
    (w.timer = true → f.due = true → runs s wid fid w f ts .timer) ∧
    (w.timer = false ∨ f.due = false →
      (∀ gs, at_ s w f gs → gs ≠ [] → gs.length = granulesOf (gs.getD 0 0) →
        (∀ i, decodeGranules (gs.getD 0 0) (gs.getD 1 0) (gs.getD 2 0) = .ok i → runs s wid fid w f ts i) ∧
        (∀ e, decodeGranules (gs.getD 0 0) (gs.getD 1 0) (gs.getD 2 0) = .error e → runs s wid fid w f ts (.unassignedEncoding e gs))) ∧
      (∀ gs c a, at_ s w f gs → (gs ≠ [] → gs.length < granulesOf (gs.getD 0 0)) →
        readCode s w (f.pc + BitVec.ofNat 64 (4 * gs.length)) 4 = .error (c, a) →
        runs s wid fid w f ts (.unassignedEncoding (fetchFail c) gs)))) ∧
  (∀ (s : State) (wid fid : Nat) (w : Warp) (f : Frag) (ts : List Turn) (g : Word), s.turns = .issue wid fid :: ts →
    findFrag s wid fid = some (w, f) → w.resid = .resident → ctxHalted s w.ctx 400 = false → f.st = .running → f.wkind ≠ .peer →
    w.landDue = true → f.pc = restart s w → w.timer = false → at_ s w f [g] →
    (∀ c, decodeGranules g 0 0 = .ok (.land c) → Machine.step s = Machine.exec (.land c) (inFocus s wid fid w f ts false)) ∧
    ((∀ c, decodeGranules g 0 0 ≠ .ok (.land c)) → ∃ i, Machine.step s =
      .next (takeTrap (inFocus s wid fid w f ts true) wid fid i .land 0 (w.act f none) [] 0 false))) ∧
  (∀ (s : State) (id : Nat) (k : Walk) (L : Launch) (p : WalkProg) (g : Word) (i : Instr) (ts : List Turn), s.turns = .walk id :: ts →
    Tbl.find s.walks id = some k → k.resid = .resident → k.pend = none → ctxHalted s k.ctx 2100 = false → budgetSpent s k.ctx k.cls 4 = false →
    k.rebuild = false → Tbl.find s.launches k.launch = some L → L.walks[k.prog]? = some (some p) → p.code[k.upc]? = some g → decodeWalk g = some i →
    Machine.step s = Machine.exec i { s with turns := ts, focus := some (.walk id) }) ∧
  (∀ (s : State) (k : Nat) (c : PhCore) (ts : List Turn), s.turns = .ph k :: ts → Tbl.find s.ph k = some c →
    let g : Word := BitVec.ofNat 32 (Memory.le s.sram c.pc.toNat 4)
    let past (c : PhCore) : PhCore := { c with pc := c.pc + 4, wait := none, csr := Tbl.write 0 c.csr 0xB02 (Tbl.read 0 c.csr 0xB02 + 1) }
    let traps (cause : Nat) (tval : DWord) : Prop := ∃ c', Machine.step s = .next { s with turns := ts, ph := Tbl.put s.ph k c' } ∧
      c'.machine = true ∧ c'.mcause = BitVec.ofNat 64 cause ∧ c'.mepc = c.pc ∧ c'.mtval = tval ∧ c'.pc = c.mtvec &&& ~~~3 ∧ c'.x = c.x
    (c.pc.toNat + 4 ≤ 0x400000 →
      (∀ i, decodePh g = some i → Machine.step s = Machine.exec i { s with turns := ts, focus := some (.ph k) }) ∧
      (isCustom g = true → decodePh g = none → traps 2 (g.setWidth 64)) ∧
      (∀ (imm : BitVec 12) (rs1 rd : BitVec 5), g = imm ++ rs1 ++ 0b000#3 ++ rd ++ 0b0010011#7 →
        Machine.step s = .next { s with turns := ts, ph := Tbl.put s.ph k (past (c.setReg rd (c.reg rs1 + imm.signExtend 64))) }) ∧
      (g = 0x00000073 → traps (if c.machine then 11 else 8) 0)) ∧
    (c.pc.getLsbD 63 = true ∨ 0x400000 ≤ c.pc.toNat → traps 1 c.pc)) ∧
  (∀ (s : State) (i : Instr) (args : EvArgs) (ts : List Turn), s.turns = .event i args :: ts → i.isEvent = true →
    Machine.step s = Machine.exec i { s with turns := ts, ev := args }) ∧
  (∀ (s : State) (n : Nat) (ts : List Turn), s.turns = .clock n :: ts → ∃ t, Machine.step s = .next t ∧ t.turns = ts ∧ t.hbm = s.hbm ∧
    t.clock.clk = s.clock.clk + BitVec.ofNat 64 n ∧ (s.clock.slew = 0 → s.clock.time.toNat + (s.clock.timeRem + 10 * n) / 21 < 2 ^ 64 →
      21 * t.clock.time.toNat + t.clock.timeRem = 21 * s.clock.time.toNat + s.clock.timeRem + 10 * n))

/-- Every step keeps the memories of the device and of the host, and every scratchpad, in canonical form: addresses rise strictly, and no
entry holds what an unlisted address reads as. -/
def Obligations.MemoryStaysCanonical : Prop := ∀ s t : State, s.MemOk → Machine.step s = .next t → t.MemOk

/-- R49, R51, R53, R54, R345, R355, R357, R370, Tables 02.4, 18.1 and 18.4: after reset CLK and TIME are 0, the first refresh window of half 0
is in progress, BOOT is 0 and DEVNUM 0xFF, the rings'
registers and the counters are 0, nothing is loaded, mapped or granted, and the memories are in canonical form; and the registers of a
warp at launch. -/
def Obligations.ResetState : Prop :=
  let s := State.reset
  s.MemOk ∧ s.hbm = [] ∧ s.wstore = [] ∧ s.clock.clk = 0 ∧ s.clock.time = 0 ∧ s.clock.win0 = true ∧ s.clock.win1 = false ∧ s.board.boot = 0 ∧ s.board.devnum = 0xFF ∧
  s.board.standalone = false ∧ (∀ k, ringOf s k = { mbase := 0, abase := 0, mslots := 0, mtail := 0, mhead := 0 }) ∧ s.board.pwr = 0 ∧
  s.board.throt = 0 ∧ s.board.wrejh = 0 ∧ s.board.wrej = 0 ∧ s.board.cecc = 0 ∧ s.board.nhalt = 0 ∧ s.board.msix = [] ∧ s.ctxs = [] ∧ s.parts = [] ∧
  s.queues = [] ∧ s.grants = [] ∧ s.launches = [] ∧ s.warps = [] ∧ s.copies = [] ∧ s.walks = [] ∧ s.net.linksUp = 0 ∧ s.net.reqs = [] ∧
  (∀ r : LaunchRec, (Pcrs.launch r).mode = 0x10 ∧ (Pcrs.launch r).rlab = r.rlab ∧ (Pcrs.launch r).wtim = 0 ∧ (Pcrs.launch r).wtcmp = 0 ∧
    (Pcrs.launch r).seed = r.seed ∧ (Pcrs.launch r).mbu = 0 ∧
    (Pcrs.launch r).nflush = BitVec.ofNat 32 (if r.nflush = 0 then 2048 else if r.nflush < 64 then 64 else r.nflush))
end

