-- ==== Sys2Proof/Laws/Tables.lean ====
section
/-! SUPPORT. Reads after writes of keyed tables and of memory, and that every table and memory operation keeps the canonical form. -/

namespace Sys2Proof

/-! ## Reads after writes, whatever the table -/

@[simp] theorem Tbl.find_put_self {α : Type} (t : Tbl α) (k : Nat) (v : α) : Tbl.find (Tbl.put t k v) k = some v := by
  induction t with
  | nil => simp [Tbl.put, Tbl.find]
  | cons p t ih =>
    obtain ⟨j, a⟩ := p
    by_cases h : k < j
    · simp [Tbl.put, Tbl.find, h]
    · by_cases e : j = k
      · simp [Tbl.put, Tbl.find, e]
      · simp [Tbl.put, Tbl.find, h, e, ih]

theorem Tbl.find_put_other {α : Type} (t : Tbl α) {k k' : Nat} (v : α) (h : k' ≠ k) : Tbl.find (Tbl.put t k v) k' = Tbl.find t k' := by
  induction t with
  | nil => simp [Tbl.put, Tbl.find, Ne.symm h]
  | cons p t ih =>
    obtain ⟨j, a⟩ := p
    by_cases l : k < j
    · simp [Tbl.put, Tbl.find, l, Ne.symm h]
    · by_cases e : j = k
      · subst e; simp [Tbl.put, Tbl.find, Ne.symm h]
      · simp [Tbl.put, Tbl.find, l, e, ih]

@[simp] theorem Tbl.find_del_self {α : Type} (t : Tbl α) (k : Nat) : Tbl.find (Tbl.del t k) k = none := by
  induction t with
  | nil => rfl
  | cons p t ih =>
    obtain ⟨j, a⟩ := p
    by_cases e : j = k
    · simp [Tbl.del, e, ih]
    · simp [Tbl.del, Tbl.find, e, ih]

theorem Tbl.find_del_other {α : Type} (t : Tbl α) {k k' : Nat} (h : k' ≠ k) : Tbl.find (Tbl.del t k) k' = Tbl.find t k' := by
  induction t with
  | nil => rfl
  | cons p t ih =>
    obtain ⟨j, a⟩ := p
    by_cases e : j = k
    · subst e; simp [Tbl.del, Tbl.find, Ne.symm h, ih]
    · simp [Tbl.del, Tbl.find, e, ih]

@[simp] theorem Tbl.read_write_self {α : Type} [DecidableEq α] (d : α) (t : Tbl α) (k : Nat) (v : α) :
    Tbl.read d (Tbl.write d t k v) k = v := by
  unfold Tbl.read Tbl.write
  split <;> simp_all

theorem Tbl.read_write_other {α : Type} [DecidableEq α] (d : α) (t : Tbl α) {k k' : Nat} (v : α) (h : k' ≠ k) :
    Tbl.read d (Tbl.write d t k v) k' = Tbl.read d t k' := by
  unfold Tbl.read Tbl.write
  split
  · rw [Tbl.find_del_other t h]
  · rw [Tbl.find_put_other t v h]

/-- A read after a write, either way. -/
theorem Tbl.read_write {α : Type} [DecidableEq α] (d : α) (t : Tbl α) (k k' : Nat) (v : α) :
    Tbl.read d (Tbl.write d t k v) k' = if k' = k then v else Tbl.read d t k' := by
  split
  · subst k'; simp
  · exact Tbl.read_write_other d t v ‹_›

theorem Tbl.find_modify_self {α : Type} (t : Tbl α) (k : Nat) (g : α → α) : Tbl.find (Tbl.modify t k g) k = (Tbl.find t k).map g := by
  unfold Tbl.modify
  split <;> simp_all

theorem Tbl.find_modify_other {α : Type} (t : Tbl α) {k k' : Nat} (g : α → α) (h : k' ≠ k) :
    Tbl.find (Tbl.modify t k g) k' = Tbl.find t k' := by
  unfold Tbl.modify
  split
  · exact Tbl.find_put_other t _ h
  · rfl

/-- A key that is found, changed by a function that is known. -/
@[simp] theorem Tbl.modify_some {α : Type} {t : Tbl α} {k : Nat} {a : α} (h : Tbl.find t k = some a) (g : α → α) :
    Tbl.modify t k g = Tbl.put t k (g a) := by
  simp [Tbl.modify, h]

@[simp] theorem Tbl.put_put {α : Type} (t : Tbl α) (k : Nat) (v v' : α) : Tbl.put (Tbl.put t k v) k v' = Tbl.put t k v' := by
  induction t with
  | nil => simp [Tbl.put]
  | cons p t ih =>
    obtain ⟨j, a⟩ := p
    by_cases l : k < j
    · simp [Tbl.put, l]
    · by_cases e : j = k
      · simp [Tbl.put, e]
      · simp [Tbl.put, l, e, ih]

theorem Tbl.find_mapVals {α : Type} (t : Tbl α) (g : Nat → α → α) (k : Nat) : Tbl.find (Tbl.mapVals t g) k = (Tbl.find t k).map (g k) := by
  induction t with
  | nil => rfl
  | cons p t ih =>
    obtain ⟨j, a⟩ := p
    by_cases e : j = k
    · subst e; simp [Tbl.mapVals, Tbl.find]
    · simp only [Tbl.mapVals, List.map_cons, Tbl.find, e, if_false]
      exact ih

/-! ## The canonical form of a table -/

theorem Tbl.risesFrom_le {α : Type} {lo lo' : Nat} (h : lo' ≤ lo) : ∀ {t : Tbl α}, Tbl.risesFrom lo t = true → Tbl.risesFrom lo' t = true
  | [], _ => rfl
  | (j, a) :: t, r => by simp [Tbl.risesFrom] at r ⊢; exact ⟨by omega, r.2⟩

theorem Tbl.risesFrom_put {α : Type} (v : α) (k : Nat) :
    ∀ {lo : Nat} {t : Tbl α}, lo ≤ k → Tbl.risesFrom lo t = true → Tbl.risesFrom lo (Tbl.put t k v) = true
  | lo, [], h, _ => by simp [Tbl.put, Tbl.risesFrom, h]
  | lo, (j, a) :: t, h, r => by
    simp [Tbl.risesFrom] at r
    by_cases l : k < j
    · simp [Tbl.put, Tbl.risesFrom, l, h, r.2, Nat.succ_le_of_lt l]
    · by_cases e : j = k
      · subst e; simp [Tbl.put, Tbl.risesFrom, r]
      · simp [Tbl.put, Tbl.risesFrom, l, e, r.1]
        exact Tbl.risesFrom_put v k (by omega) r.2

theorem Tbl.risesFrom_del {α : Type} (k : Nat) : ∀ {lo : Nat} {t : Tbl α}, Tbl.risesFrom lo t = true → Tbl.risesFrom lo (Tbl.del t k) = true
  | lo, [], _ => rfl
  | lo, (j, a) :: t, r => by
    simp [Tbl.risesFrom] at r
    by_cases e : j = k
    · simp [Tbl.del, e]; exact Tbl.risesFrom_del k (Tbl.risesFrom_le (by omega) r.2)
    · simp [Tbl.del, e, Tbl.risesFrom, r.1, Tbl.risesFrom_del k r.2]

theorem Tbl.wf_put {α : Type} {t : Tbl α} (k : Nat) (v : α) (h : t.wf = true) : (Tbl.put t k v).wf = true :=
  Tbl.risesFrom_put v k (Nat.zero_le k) h

theorem Tbl.wf_del {α : Type} {t : Tbl α} (k : Nat) (h : t.wf = true) : (Tbl.del t k).wf = true := Tbl.risesFrom_del k h

/-- What a table satisfies entry by entry, it satisfies after an insertion of an entry that satisfies it. -/
theorem Tbl.all_put {α : Type} (p : Nat × α → Bool) (k : Nat) (v : α) :
    ∀ {t : Tbl α}, t.all p = true → p (k, v) = true → (Tbl.put t k v).all p = true
  | [], _, h => by simp [Tbl.put, h]
  | (j, a) :: t, r, h => by
    rw [List.all_cons, Bool.and_eq_true] at r
    by_cases l : k < j
    · simp [Tbl.put, l, h, r.1, List.all_cons]; exact fun a b m => List.all_eq_true.mp r.2 _ m
    · by_cases e : j = k
      · simp [Tbl.put, e, List.all_cons]; exact ⟨h, fun a b m => List.all_eq_true.mp r.2 _ m⟩
      · simp only [Tbl.put, l, e, if_false, List.all_cons, Bool.and_eq_true]
        exact ⟨r.1, Tbl.all_put p k v r.2 h⟩

theorem Tbl.all_del {α : Type} (p : Nat × α → Bool) (k : Nat) : ∀ {t : Tbl α}, t.all p = true → (Tbl.del t k).all p = true
  | [], _ => rfl
  | (j, a) :: t, r => by
    rw [List.all_cons, Bool.and_eq_true] at r
    by_cases e : j = k
    · simp only [Tbl.del, e, if_true]; exact Tbl.all_del p k r.2
    · simp only [Tbl.del, e, if_false, List.all_cons, Bool.and_eq_true]; exact ⟨r.1, Tbl.all_del p k r.2⟩

theorem Tbl.sparseWf_write {α : Type} [DecidableEq α] (d : α) {t : Tbl α} (k : Nat) (v : α) (h : t.sparseWf d = true) :
    (Tbl.write d t k v).sparseWf d = true := by
  simp only [Tbl.sparseWf, Bool.and_eq_true] at h ⊢
  unfold Tbl.write
  split
  · exact ⟨Tbl.wf_del k h.1, Tbl.all_del _ k h.2⟩
  · exact ⟨Tbl.wf_put k v h.1, Tbl.all_put _ k v h.2 (by simpa using ‹¬ v = d›)⟩

theorem Tbl.sparseWf_writes {α : Type} [DecidableEq α] (d : α) (vs : List α) :
    ∀ {t : Tbl α} (k : Nat), t.sparseWf d = true → (Tbl.writes d t k vs).sparseWf d = true := by
  induction vs with
  | nil => intro t k h; exact h
  | cons v vs ih => intro t k h; exact ih (k + 1) (Tbl.sparseWf_write d k v h)

/-- No key below the lowest one is found. -/
theorem Tbl.find_none_of_rises {α : Type} : ∀ {lo : Nat} {t : Tbl α} {k : Nat}, Tbl.risesFrom lo t = true → k < lo → Tbl.find t k = none
  | _, [], _, _, _ => rfl
  | lo, (j, a) :: t, k, r, h => by
    simp [Tbl.risesFrom] at r
    have : ¬ j = k := by omega
    simp [Tbl.find, this]
    exact Tbl.find_none_of_rises r.2 (by omega)

theorem Tbl.eq_of_find {α : Type} : ∀ {lo : Nat} {t t' : Tbl α}, Tbl.risesFrom lo t = true → Tbl.risesFrom lo t' = true →
    (∀ k, Tbl.find t k = Tbl.find t' k) → t = t'
  | _, [], [], _, _, _ => rfl
  | _, [], (j, a) :: t', _, _, h => by have := h j; simp [Tbl.find] at this
  | _, (j, a) :: t, [], _, _, h => by have := h j; simp [Tbl.find] at this
  | lo, (j, a) :: t, (j', a') :: t', r, r', h => by
    simp [Tbl.risesFrom] at r r'
    have e : j = j' := by
      rcases Nat.lt_trichotomy j j' with l | l | l
      · have := h j
        simp [Tbl.find, Nat.ne_of_gt l, Tbl.find_none_of_rises r'.2 (show j < j' + 1 by omega)] at this
      · exact l
      · have := h j'
        simp [Tbl.find, Nat.ne_of_gt l, Tbl.find_none_of_rises r.2 (show j' < j + 1 by omega)] at this
    subst e
    have ha : a = a' := by have := h j; simpa [Tbl.find] using this
    subst ha
    congr 1
    refine Tbl.eq_of_find r.2 r'.2 fun k => ?_
    by_cases e : j = k
    · subst e
      rw [Tbl.find_none_of_rises r.2 (by omega), Tbl.find_none_of_rises r'.2 (by omega)]
    · have := h k; simpa [Tbl.find, e] using this

/-- Canonical tables that read alike are equal data. -/
theorem Tbl.ext_of_wf {α : Type} {t t' : Tbl α} (r : t.wf = true) (r' : t'.wf = true) (h : ∀ k, Tbl.find t k = Tbl.find t' k) : t = t' :=
  Tbl.eq_of_find r r' h

/-! ## Memory -/

@[simp] theorem Memory.byte_store_self (m : Memory) (a : Nat) (b : Byte) : Memory.byte (Memory.store m a b) a = b :=
  Tbl.read_write_self 0 m a b

theorem Memory.byte_store_other (m : Memory) {a a' : Nat} (b : Byte) (h : a' ≠ a) : Memory.byte (Memory.store m a b) a' = Memory.byte m a' :=
  Tbl.read_write_other 0 m b h

theorem Memory.wf_store {m : Memory} (a : Nat) (b : Byte) (h : Memory.wf m = true) : Memory.wf (Memory.store m a b) = true :=
  Tbl.sparseWf_write 0 a b h

theorem Memory.wf_stores (bs : List Byte) : ∀ {m : Memory} (a : Nat), Memory.wf m = true → Memory.wf (Memory.stores m a bs) = true := by
  induction bs with
  | nil => intro m a h; exact h
  | cons b bs ih => intro m a h; exact ih (a + 1) (Memory.wf_store a b h)

theorem Memory.wf_setLe {m : Memory} (a n v : Nat) (h : Memory.wf m = true) : Memory.wf (Memory.setLe m a n v) = true :=
  Memory.wf_stores _ a h

theorem Memory.wf_empty : Memory.wf [] = true := rfl

/-- A byte outside a stored range reads as before. -/
theorem Memory.byte_stores_outside (bs : List Byte) :
    ∀ (m : Memory) (a k : Nat), k < a ∨ a + bs.length ≤ k → Memory.byte (Memory.stores m a bs) k = Memory.byte m k := by
  induction bs with
  | nil => intro m a k _; rfl
  | cons b bs ih =>
    intro m a k h
    simp only [List.length_cons] at h
    rw [Memory.stores, ih _ (a + 1) k (by omega), Memory.byte_store_other _ _ (by omega)]

/-- A byte inside a stored range reads as stored. -/
theorem Memory.byte_stores_inside (bs : List Byte) :
    ∀ (m : Memory) (a i : Nat) (h : i < bs.length), Memory.byte (Memory.stores m a bs) (a + i) = bs[i] := by
  induction bs with
  | nil => intro m a i h; simp at h
  | cons b bs ih =>
    intro m a i h
    cases i with
    | zero => rw [Memory.stores, Memory.byte_stores_outside _ _ _ _ (by omega)]; simp
    | succ i => rw [Memory.stores, show a + (i + 1) = a + 1 + i by omega, ih _ (a + 1) i (by simpa using h)]; simp

/-- Bytes read back after they were stored. -/
theorem Memory.bytes_stores (bs : List Byte) : ∀ (m : Memory) (a : Nat), Memory.bytes (Memory.stores m a bs) a bs.length = bs := by
  induction bs with
  | nil => intro m a; rfl
  | cons b bs ih =>
    intro m a
    simp only [List.length_cons, Memory.bytes, Memory.stores]
    rw [Memory.byte_stores_outside _ _ _ _ (by omega), Memory.byte_store_self, ih]

/-! ## Byte order -/

@[simp] theorem leBytes_length (n v : Nat) : (leBytes n v).length = n := by
  induction n generalizing v with
  | zero => rfl
  | succ n ih => simp [leBytes, ih]

theorem leNat_leBytes (n v : Nat) : leNat (leBytes n v) = v % 256 ^ n := by
  induction n generalizing v with
  | zero => simp [leBytes, leNat, Nat.mod_one]
  | succ n ih =>
    simp only [leBytes, leNat, ih, BitVec.toNat_ofNat]
    rw [show 256 ^ (n + 1) = 256 * 256 ^ n from by rw [Nat.pow_succ, Nat.mul_comm], Nat.mod_mul]

end Sys2Proof
end

