-- ==== Sys2Proof/Laws/Crypto.lean ====
section
/-! SUPPORT. Lengths of hashes and seals, and what sealing a capability leaves. -/

namespace Sys2Proof

open Machine

/-- The first 64 primes. -/
def firstPrimes : List Nat := (List.range 312).filter fun n => decide (2 ≤ n) && (List.range n).all fun d => decide (d < 2) || n % d != 0

/-- The round constants are the first 32 bits of the fractions of the cube roots of the first 64 primes. -/
theorem shaK_roots : firstPrimes.length = 64 ∧ shaK.length = 64 ∧ ∀ p ∈ firstPrimes.zip shaK, ∃ n < 8,
    (2 ^ 32 * n + p.2.toNat) ^ 3 ≤ p.1 * 2 ^ 96 ∧ p.1 * 2 ^ 96 < (2 ^ 32 * n + p.2.toNat + 1) ^ 3 := by decide +kernel

/-- The first hash value holds those of the square roots of the first eight. -/
theorem shaInit_roots : ∀ p ∈ firstPrimes.zip shaInit, ∃ n < 8,
    (2 ^ 32 * n + p.2.toNat) ^ 2 ≤ p.1 * 2 ^ 64 ∧ p.1 * 2 ^ 64 < (2 ^ 32 * n + p.2.toNat + 1) ^ 2 := by decide +kernel

theorem shaRounds_length (l : List (Word × Word)) : ∀ v : List Word, v.length = 8 → (l.foldl shaRound v).length = 8 := by
  induction l with
  | nil => intro v h; exact h
  | cons p l ih => intro v _; exact ih _ rfl

theorem shaBlock_length (h : List Word) (bs : List Byte) (e : h.length = 8) : (shaBlock h bs).length = 8 := by
  simp [shaBlock, shaRounds_length _ h e, e]

theorem shaBlocks_length (n : Nat) : ∀ (h : List Word) (bs : List Byte), h.length = 8 → (shaBlocks n h bs).length = 8 := by
  induction n with
  | zero => intro h bs e; exact e
  | succ n ih => intro h bs e; exact ih _ _ (shaBlock_length h _ e)

@[simp] theorem beBytes_length (n v : Nat) : (beBytes n v).length = n := by simp [beBytes]

theorem sha256_length (bs : List Byte) : (sha256 bs).length = 32 := by
  have h : ∀ l : List Word, (l.flatMap fun w => beBytes 4 w.toNat).length = 4 * l.length := by
    intro l
    induction l with
    | nil => rfl
    | cons w l ih => simp only [List.flatMap_cons, List.length_append, beBytes_length, ih, List.length_cons]; omega
  exact (h _).trans (by rw [shaBlocks_length _ _ _ rfl])

theorem hmac_length (key bs : List Byte) : (hmac key bs).length = 32 := sha256_length _

theorem sealOf_fst_length (key cap : List Byte) : (sealOf key cap).1.length = 4 := by simp [sealOf, hmac_length]

theorem sealOf_snd_length (key cap : List Byte) : (sealOf key cap).2.length = 8 := by simp [sealOf, hmac_length]

theorem sealCap_length (key cap : List Byte) (h : cap.length = 32) : (sealCap key cap).length = 32 := by
  simp [sealCap, h, sealOf_fst_length, sealOf_snd_length]

/-- The seal leaves bytes 0 to 15 alone. -/
theorem sealCap_take (key cap : List Byte) (h : cap.length = 32) : (sealCap key cap).take 16 = cap.take 16 := by simp [sealCap, h]

/-- The seal leaves the epoch, bytes 20 to 23, alone. -/
theorem sealCap_epoch (key cap : List Byte) (h : cap.length = 32) : ((sealCap key cap).drop 20).take 4 = (cap.drop 20).take 4 := by
  simp [sealCap, List.take_append, List.drop_append, h, sealOf_fst_length]

/-- Sealing twice is sealing once. -/
theorem sealCap_sealCap (key cap : List Byte) (h : cap.length = 32) : sealCap key (sealCap key cap) = sealCap key cap := by
  have e1 := sealCap_take key cap h
  have e2 := sealCap_epoch key cap h
  have e3 : sealOf key (sealCap key cap) = sealOf key cap := by unfold sealOf; rw [e1, e2]
  show (sealCap key cap).take 16 ++ (sealOf key (sealCap key cap)).1 ++ ((sealCap key cap).drop 20).take 4 ++ (sealOf key (sealCap key cap)).2 = _
  rw [e1, e2, e3]
  rfl

end Sys2Proof
end

