-- ==== Sys2Proof/Laws/State.lean ====
section
/-! SUPPORT. What each named update of the state leaves as it was: one lemma for each field, true by rfl. -/

namespace Sys2Proof

open Machine

/-! ### putWarp -/

@[simp] theorem putWarp_clock (s : State) (wid : Nat) (w : Warp) : (putWarp s wid w).clock = s.clock := rfl
@[simp] theorem putWarp_board (s : State) (wid : Nat) (w : Warp) : (putWarp s wid w).board = s.board := rfl
@[simp] theorem putWarp_net (s : State) (wid : Nat) (w : Warp) : (putWarp s wid w).net = s.net := rfl
@[simp] theorem putWarp_hbm (s : State) (wid : Nat) (w : Warp) : (putWarp s wid w).hbm = s.hbm := rfl
@[simp] theorem putWarp_wstore (s : State) (wid : Nat) (w : Warp) : (putWarp s wid w).wstore = s.wstore := rfl
@[simp] theorem putWarp_host (s : State) (wid : Nat) (w : Warp) : (putWarp s wid w).host = s.host := rfl
@[simp] theorem putWarp_sram (s : State) (wid : Nat) (w : Warp) : (putWarp s wid w).sram = s.sram := rfl
@[simp] theorem putWarp_olds (s : State) (wid : Nat) (w : Warp) : (putWarp s wid w).olds = s.olds := rfl
@[simp] theorem putWarp_ctxs (s : State) (wid : Nat) (w : Warp) : (putWarp s wid w).ctxs = s.ctxs := rfl
@[simp] theorem putWarp_parts (s : State) (wid : Nat) (w : Warp) : (putWarp s wid w).parts = s.parts := rfl
@[simp] theorem putWarp_queues (s : State) (wid : Nat) (w : Warp) : (putWarp s wid w).queues = s.queues := rfl
@[simp] theorem putWarp_grants (s : State) (wid : Nat) (w : Warp) : (putWarp s wid w).grants = s.grants := rfl
@[simp] theorem putWarp_msgs (s : State) (wid : Nat) (w : Warp) : (putWarp s wid w).msgs = s.msgs := rfl
@[simp] theorem putWarp_launches (s : State) (wid : Nat) (w : Warp) : (putWarp s wid w).launches = s.launches := rfl
@[simp] theorem putWarp_cgs (s : State) (wid : Nat) (w : Warp) : (putWarp s wid w).cgs = s.cgs := rfl
@[simp] theorem putWarp_wgs (s : State) (wid : Nat) (w : Warp) : (putWarp s wid w).wgs = s.wgs := rfl
@[simp] theorem putWarp_copies (s : State) (wid : Nat) (w : Warp) : (putWarp s wid w).copies = s.copies := rfl
@[simp] theorem putWarp_mops (s : State) (wid : Nat) (w : Warp) : (putWarp s wid w).mops = s.mops := rfl
@[simp] theorem putWarp_bins (s : State) (wid : Nat) (w : Warp) : (putWarp s wid w).bins = s.bins := rfl
@[simp] theorem putWarp_rowsAt (s : State) (wid : Nat) (w : Warp) : (putWarp s wid w).rowsAt = s.rowsAt := rfl
@[simp] theorem putWarp_jobs (s : State) (wid : Nat) (w : Warp) : (putWarp s wid w).jobs = s.jobs := rfl
@[simp] theorem putWarp_mbuReq (s : State) (wid : Nat) (w : Warp) : (putWarp s wid w).mbuReq = s.mbuReq := rfl
@[simp] theorem putWarp_mbuCap (s : State) (wid : Nat) (w : Warp) : (putWarp s wid w).mbuCap = s.mbuCap := rfl
@[simp] theorem putWarp_mbuEra (s : State) (wid : Nat) (w : Warp) : (putWarp s wid w).mbuEra = s.mbuEra := rfl
@[simp] theorem putWarp_period (s : State) (wid : Nat) (w : Warp) : (putWarp s wid w).period = s.period := rfl
@[simp] theorem putWarp_walks (s : State) (wid : Nat) (w : Warp) : (putWarp s wid w).walks = s.walks := rfl
@[simp] theorem putWarp_builds (s : State) (wid : Nat) (w : Warp) : (putWarp s wid w).builds = s.builds := rfl
@[simp] theorem putWarp_pix (s : State) (wid : Nat) (w : Warp) : (putWarp s wid w).pix = s.pix := rfl
@[simp] theorem putWarp_cells (s : State) (wid : Nat) (w : Warp) : (putWarp s wid w).cells = s.cells := rfl
@[simp] theorem putWarp_sigs (s : State) (wid : Nat) (w : Warp) : (putWarp s wid w).sigs = s.sigs := rfl
@[simp] theorem putWarp_ph (s : State) (wid : Nat) (w : Warp) : (putWarp s wid w).ph = s.ph := rfl
@[simp] theorem putWarp_sec (s : State) (wid : Nat) (w : Warp) : (putWarp s wid w).sec = s.sec := rfl
@[simp] theorem putWarp_secMem (s : State) (wid : Nat) (w : Warp) : (putWarp s wid w).secMem = s.secMem := rfl
@[simp] theorem putWarp_turns (s : State) (wid : Nat) (w : Warp) : (putWarp s wid w).turns = s.turns := rfl
@[simp] theorem putWarp_focus (s : State) (wid : Nat) (w : Warp) : (putWarp s wid w).focus = s.focus := rfl
@[simp] theorem putWarp_ev (s : State) (wid : Nat) (w : Warp) : (putWarp s wid w).ev = s.ev := rfl
@[simp] theorem putWarp_freshId (s : State) (wid : Nat) (w : Warp) : (putWarp s wid w).freshId = s.freshId := rfl
@[simp] theorem putWarp_freeCtr (s : State) (wid : Nat) (w : Warp) : (putWarp s wid w).freeCtr = s.freeCtr := rfl

/-! ### modWarp -/

@[simp] theorem modWarp_clock (s : State) (wid : Nat) (g : Warp → Warp) : (modWarp s wid g).clock = s.clock := rfl
@[simp] theorem modWarp_board (s : State) (wid : Nat) (g : Warp → Warp) : (modWarp s wid g).board = s.board := rfl
@[simp] theorem modWarp_net (s : State) (wid : Nat) (g : Warp → Warp) : (modWarp s wid g).net = s.net := rfl
@[simp] theorem modWarp_hbm (s : State) (wid : Nat) (g : Warp → Warp) : (modWarp s wid g).hbm = s.hbm := rfl
@[simp] theorem modWarp_wstore (s : State) (wid : Nat) (g : Warp → Warp) : (modWarp s wid g).wstore = s.wstore := rfl
@[simp] theorem modWarp_host (s : State) (wid : Nat) (g : Warp → Warp) : (modWarp s wid g).host = s.host := rfl
@[simp] theorem modWarp_sram (s : State) (wid : Nat) (g : Warp → Warp) : (modWarp s wid g).sram = s.sram := rfl
@[simp] theorem modWarp_olds (s : State) (wid : Nat) (g : Warp → Warp) : (modWarp s wid g).olds = s.olds := rfl
@[simp] theorem modWarp_ctxs (s : State) (wid : Nat) (g : Warp → Warp) : (modWarp s wid g).ctxs = s.ctxs := rfl
@[simp] theorem modWarp_parts (s : State) (wid : Nat) (g : Warp → Warp) : (modWarp s wid g).parts = s.parts := rfl
@[simp] theorem modWarp_queues (s : State) (wid : Nat) (g : Warp → Warp) : (modWarp s wid g).queues = s.queues := rfl
@[simp] theorem modWarp_grants (s : State) (wid : Nat) (g : Warp → Warp) : (modWarp s wid g).grants = s.grants := rfl
@[simp] theorem modWarp_msgs (s : State) (wid : Nat) (g : Warp → Warp) : (modWarp s wid g).msgs = s.msgs := rfl
@[simp] theorem modWarp_launches (s : State) (wid : Nat) (g : Warp → Warp) : (modWarp s wid g).launches = s.launches := rfl
@[simp] theorem modWarp_cgs (s : State) (wid : Nat) (g : Warp → Warp) : (modWarp s wid g).cgs = s.cgs := rfl
@[simp] theorem modWarp_wgs (s : State) (wid : Nat) (g : Warp → Warp) : (modWarp s wid g).wgs = s.wgs := rfl
@[simp] theorem modWarp_copies (s : State) (wid : Nat) (g : Warp → Warp) : (modWarp s wid g).copies = s.copies := rfl
@[simp] theorem modWarp_mops (s : State) (wid : Nat) (g : Warp → Warp) : (modWarp s wid g).mops = s.mops := rfl
@[simp] theorem modWarp_bins (s : State) (wid : Nat) (g : Warp → Warp) : (modWarp s wid g).bins = s.bins := rfl
@[simp] theorem modWarp_rowsAt (s : State) (wid : Nat) (g : Warp → Warp) : (modWarp s wid g).rowsAt = s.rowsAt := rfl
@[simp] theorem modWarp_jobs (s : State) (wid : Nat) (g : Warp → Warp) : (modWarp s wid g).jobs = s.jobs := rfl
@[simp] theorem modWarp_mbuReq (s : State) (wid : Nat) (g : Warp → Warp) : (modWarp s wid g).mbuReq = s.mbuReq := rfl
@[simp] theorem modWarp_mbuCap (s : State) (wid : Nat) (g : Warp → Warp) : (modWarp s wid g).mbuCap = s.mbuCap := rfl
@[simp] theorem modWarp_mbuEra (s : State) (wid : Nat) (g : Warp → Warp) : (modWarp s wid g).mbuEra = s.mbuEra := rfl
@[simp] theorem modWarp_period (s : State) (wid : Nat) (g : Warp → Warp) : (modWarp s wid g).period = s.period := rfl
@[simp] theorem modWarp_walks (s : State) (wid : Nat) (g : Warp → Warp) : (modWarp s wid g).walks = s.walks := rfl
@[simp] theorem modWarp_builds (s : State) (wid : Nat) (g : Warp → Warp) : (modWarp s wid g).builds = s.builds := rfl
@[simp] theorem modWarp_pix (s : State) (wid : Nat) (g : Warp → Warp) : (modWarp s wid g).pix = s.pix := rfl
@[simp] theorem modWarp_cells (s : State) (wid : Nat) (g : Warp → Warp) : (modWarp s wid g).cells = s.cells := rfl
@[simp] theorem modWarp_sigs (s : State) (wid : Nat) (g : Warp → Warp) : (modWarp s wid g).sigs = s.sigs := rfl
@[simp] theorem modWarp_ph (s : State) (wid : Nat) (g : Warp → Warp) : (modWarp s wid g).ph = s.ph := rfl
@[simp] theorem modWarp_sec (s : State) (wid : Nat) (g : Warp → Warp) : (modWarp s wid g).sec = s.sec := rfl
@[simp] theorem modWarp_secMem (s : State) (wid : Nat) (g : Warp → Warp) : (modWarp s wid g).secMem = s.secMem := rfl
@[simp] theorem modWarp_turns (s : State) (wid : Nat) (g : Warp → Warp) : (modWarp s wid g).turns = s.turns := rfl
@[simp] theorem modWarp_focus (s : State) (wid : Nat) (g : Warp → Warp) : (modWarp s wid g).focus = s.focus := rfl
@[simp] theorem modWarp_ev (s : State) (wid : Nat) (g : Warp → Warp) : (modWarp s wid g).ev = s.ev := rfl
@[simp] theorem modWarp_freshId (s : State) (wid : Nat) (g : Warp → Warp) : (modWarp s wid g).freshId = s.freshId := rfl
@[simp] theorem modWarp_freeCtr (s : State) (wid : Nat) (g : Warp → Warp) : (modWarp s wid g).freeCtr = s.freeCtr := rfl

/-! ### modFrag -/

@[simp] theorem modFrag_clock (s : State) (wid fid : Nat) (g : Frag → Frag) : (modFrag s wid fid g).clock = s.clock := rfl
@[simp] theorem modFrag_board (s : State) (wid fid : Nat) (g : Frag → Frag) : (modFrag s wid fid g).board = s.board := rfl
@[simp] theorem modFrag_net (s : State) (wid fid : Nat) (g : Frag → Frag) : (modFrag s wid fid g).net = s.net := rfl
@[simp] theorem modFrag_hbm (s : State) (wid fid : Nat) (g : Frag → Frag) : (modFrag s wid fid g).hbm = s.hbm := rfl
@[simp] theorem modFrag_wstore (s : State) (wid fid : Nat) (g : Frag → Frag) : (modFrag s wid fid g).wstore = s.wstore := rfl
@[simp] theorem modFrag_host (s : State) (wid fid : Nat) (g : Frag → Frag) : (modFrag s wid fid g).host = s.host := rfl
@[simp] theorem modFrag_sram (s : State) (wid fid : Nat) (g : Frag → Frag) : (modFrag s wid fid g).sram = s.sram := rfl
@[simp] theorem modFrag_olds (s : State) (wid fid : Nat) (g : Frag → Frag) : (modFrag s wid fid g).olds = s.olds := rfl
@[simp] theorem modFrag_ctxs (s : State) (wid fid : Nat) (g : Frag → Frag) : (modFrag s wid fid g).ctxs = s.ctxs := rfl
@[simp] theorem modFrag_parts (s : State) (wid fid : Nat) (g : Frag → Frag) : (modFrag s wid fid g).parts = s.parts := rfl
@[simp] theorem modFrag_queues (s : State) (wid fid : Nat) (g : Frag → Frag) : (modFrag s wid fid g).queues = s.queues := rfl
@[simp] theorem modFrag_grants (s : State) (wid fid : Nat) (g : Frag → Frag) : (modFrag s wid fid g).grants = s.grants := rfl
@[simp] theorem modFrag_msgs (s : State) (wid fid : Nat) (g : Frag → Frag) : (modFrag s wid fid g).msgs = s.msgs := rfl
@[simp] theorem modFrag_launches (s : State) (wid fid : Nat) (g : Frag → Frag) : (modFrag s wid fid g).launches = s.launches := rfl
@[simp] theorem modFrag_cgs (s : State) (wid fid : Nat) (g : Frag → Frag) : (modFrag s wid fid g).cgs = s.cgs := rfl
@[simp] theorem modFrag_wgs (s : State) (wid fid : Nat) (g : Frag → Frag) : (modFrag s wid fid g).wgs = s.wgs := rfl
@[simp] theorem modFrag_copies (s : State) (wid fid : Nat) (g : Frag → Frag) : (modFrag s wid fid g).copies = s.copies := rfl
@[simp] theorem modFrag_mops (s : State) (wid fid : Nat) (g : Frag → Frag) : (modFrag s wid fid g).mops = s.mops := rfl
@[simp] theorem modFrag_bins (s : State) (wid fid : Nat) (g : Frag → Frag) : (modFrag s wid fid g).bins = s.bins := rfl
@[simp] theorem modFrag_rowsAt (s : State) (wid fid : Nat) (g : Frag → Frag) : (modFrag s wid fid g).rowsAt = s.rowsAt := rfl
@[simp] theorem modFrag_jobs (s : State) (wid fid : Nat) (g : Frag → Frag) : (modFrag s wid fid g).jobs = s.jobs := rfl
@[simp] theorem modFrag_mbuReq (s : State) (wid fid : Nat) (g : Frag → Frag) : (modFrag s wid fid g).mbuReq = s.mbuReq := rfl
@[simp] theorem modFrag_mbuCap (s : State) (wid fid : Nat) (g : Frag → Frag) : (modFrag s wid fid g).mbuCap = s.mbuCap := rfl
@[simp] theorem modFrag_mbuEra (s : State) (wid fid : Nat) (g : Frag → Frag) : (modFrag s wid fid g).mbuEra = s.mbuEra := rfl
@[simp] theorem modFrag_period (s : State) (wid fid : Nat) (g : Frag → Frag) : (modFrag s wid fid g).period = s.period := rfl
@[simp] theorem modFrag_walks (s : State) (wid fid : Nat) (g : Frag → Frag) : (modFrag s wid fid g).walks = s.walks := rfl
@[simp] theorem modFrag_builds (s : State) (wid fid : Nat) (g : Frag → Frag) : (modFrag s wid fid g).builds = s.builds := rfl
@[simp] theorem modFrag_pix (s : State) (wid fid : Nat) (g : Frag → Frag) : (modFrag s wid fid g).pix = s.pix := rfl
@[simp] theorem modFrag_cells (s : State) (wid fid : Nat) (g : Frag → Frag) : (modFrag s wid fid g).cells = s.cells := rfl
@[simp] theorem modFrag_sigs (s : State) (wid fid : Nat) (g : Frag → Frag) : (modFrag s wid fid g).sigs = s.sigs := rfl
@[simp] theorem modFrag_ph (s : State) (wid fid : Nat) (g : Frag → Frag) : (modFrag s wid fid g).ph = s.ph := rfl
@[simp] theorem modFrag_sec (s : State) (wid fid : Nat) (g : Frag → Frag) : (modFrag s wid fid g).sec = s.sec := rfl
@[simp] theorem modFrag_secMem (s : State) (wid fid : Nat) (g : Frag → Frag) : (modFrag s wid fid g).secMem = s.secMem := rfl
@[simp] theorem modFrag_turns (s : State) (wid fid : Nat) (g : Frag → Frag) : (modFrag s wid fid g).turns = s.turns := rfl
@[simp] theorem modFrag_focus (s : State) (wid fid : Nat) (g : Frag → Frag) : (modFrag s wid fid g).focus = s.focus := rfl
@[simp] theorem modFrag_ev (s : State) (wid fid : Nat) (g : Frag → Frag) : (modFrag s wid fid g).ev = s.ev := rfl
@[simp] theorem modFrag_freshId (s : State) (wid fid : Nat) (g : Frag → Frag) : (modFrag s wid fid g).freshId = s.freshId := rfl
@[simp] theorem modFrag_freeCtr (s : State) (wid fid : Nat) (g : Frag → Frag) : (modFrag s wid fid g).freeCtr = s.freeCtr := rfl

/-! ### modCtx -/

@[simp] theorem modCtx_clock (s : State) (c : Nat) (g : Ctx → Ctx) : (modCtx s c g).clock = s.clock := rfl
@[simp] theorem modCtx_board (s : State) (c : Nat) (g : Ctx → Ctx) : (modCtx s c g).board = s.board := rfl
@[simp] theorem modCtx_net (s : State) (c : Nat) (g : Ctx → Ctx) : (modCtx s c g).net = s.net := rfl
@[simp] theorem modCtx_hbm (s : State) (c : Nat) (g : Ctx → Ctx) : (modCtx s c g).hbm = s.hbm := rfl
@[simp] theorem modCtx_wstore (s : State) (c : Nat) (g : Ctx → Ctx) : (modCtx s c g).wstore = s.wstore := rfl
@[simp] theorem modCtx_host (s : State) (c : Nat) (g : Ctx → Ctx) : (modCtx s c g).host = s.host := rfl
@[simp] theorem modCtx_sram (s : State) (c : Nat) (g : Ctx → Ctx) : (modCtx s c g).sram = s.sram := rfl
@[simp] theorem modCtx_olds (s : State) (c : Nat) (g : Ctx → Ctx) : (modCtx s c g).olds = s.olds := rfl
@[simp] theorem modCtx_parts (s : State) (c : Nat) (g : Ctx → Ctx) : (modCtx s c g).parts = s.parts := rfl
@[simp] theorem modCtx_queues (s : State) (c : Nat) (g : Ctx → Ctx) : (modCtx s c g).queues = s.queues := rfl
@[simp] theorem modCtx_grants (s : State) (c : Nat) (g : Ctx → Ctx) : (modCtx s c g).grants = s.grants := rfl
@[simp] theorem modCtx_msgs (s : State) (c : Nat) (g : Ctx → Ctx) : (modCtx s c g).msgs = s.msgs := rfl
@[simp] theorem modCtx_launches (s : State) (c : Nat) (g : Ctx → Ctx) : (modCtx s c g).launches = s.launches := rfl
@[simp] theorem modCtx_cgs (s : State) (c : Nat) (g : Ctx → Ctx) : (modCtx s c g).cgs = s.cgs := rfl
@[simp] theorem modCtx_wgs (s : State) (c : Nat) (g : Ctx → Ctx) : (modCtx s c g).wgs = s.wgs := rfl
@[simp] theorem modCtx_warps (s : State) (c : Nat) (g : Ctx → Ctx) : (modCtx s c g).warps = s.warps := rfl
@[simp] theorem modCtx_copies (s : State) (c : Nat) (g : Ctx → Ctx) : (modCtx s c g).copies = s.copies := rfl
@[simp] theorem modCtx_mops (s : State) (c : Nat) (g : Ctx → Ctx) : (modCtx s c g).mops = s.mops := rfl
@[simp] theorem modCtx_bins (s : State) (c : Nat) (g : Ctx → Ctx) : (modCtx s c g).bins = s.bins := rfl
@[simp] theorem modCtx_rowsAt (s : State) (c : Nat) (g : Ctx → Ctx) : (modCtx s c g).rowsAt = s.rowsAt := rfl
@[simp] theorem modCtx_jobs (s : State) (c : Nat) (g : Ctx → Ctx) : (modCtx s c g).jobs = s.jobs := rfl
@[simp] theorem modCtx_mbuReq (s : State) (c : Nat) (g : Ctx → Ctx) : (modCtx s c g).mbuReq = s.mbuReq := rfl
@[simp] theorem modCtx_mbuCap (s : State) (c : Nat) (g : Ctx → Ctx) : (modCtx s c g).mbuCap = s.mbuCap := rfl
@[simp] theorem modCtx_mbuEra (s : State) (c : Nat) (g : Ctx → Ctx) : (modCtx s c g).mbuEra = s.mbuEra := rfl
@[simp] theorem modCtx_period (s : State) (c : Nat) (g : Ctx → Ctx) : (modCtx s c g).period = s.period := rfl
@[simp] theorem modCtx_walks (s : State) (c : Nat) (g : Ctx → Ctx) : (modCtx s c g).walks = s.walks := rfl
@[simp] theorem modCtx_builds (s : State) (c : Nat) (g : Ctx → Ctx) : (modCtx s c g).builds = s.builds := rfl
@[simp] theorem modCtx_pix (s : State) (c : Nat) (g : Ctx → Ctx) : (modCtx s c g).pix = s.pix := rfl
@[simp] theorem modCtx_cells (s : State) (c : Nat) (g : Ctx → Ctx) : (modCtx s c g).cells = s.cells := rfl
@[simp] theorem modCtx_sigs (s : State) (c : Nat) (g : Ctx → Ctx) : (modCtx s c g).sigs = s.sigs := rfl
@[simp] theorem modCtx_ph (s : State) (c : Nat) (g : Ctx → Ctx) : (modCtx s c g).ph = s.ph := rfl
@[simp] theorem modCtx_sec (s : State) (c : Nat) (g : Ctx → Ctx) : (modCtx s c g).sec = s.sec := rfl
@[simp] theorem modCtx_secMem (s : State) (c : Nat) (g : Ctx → Ctx) : (modCtx s c g).secMem = s.secMem := rfl
@[simp] theorem modCtx_turns (s : State) (c : Nat) (g : Ctx → Ctx) : (modCtx s c g).turns = s.turns := rfl
@[simp] theorem modCtx_focus (s : State) (c : Nat) (g : Ctx → Ctx) : (modCtx s c g).focus = s.focus := rfl
@[simp] theorem modCtx_ev (s : State) (c : Nat) (g : Ctx → Ctx) : (modCtx s c g).ev = s.ev := rfl
@[simp] theorem modCtx_freshId (s : State) (c : Nat) (g : Ctx → Ctx) : (modCtx s c g).freshId = s.freshId := rfl
@[simp] theorem modCtx_freeCtr (s : State) (c : Nat) (g : Ctx → Ctx) : (modCtx s c g).freeCtr = s.freeCtr := rfl

/-! ### modWg -/

@[simp] theorem modWg_clock (s : State) (k : Nat) (g : Wg → Wg) : (modWg s k g).clock = s.clock := rfl
@[simp] theorem modWg_board (s : State) (k : Nat) (g : Wg → Wg) : (modWg s k g).board = s.board := rfl
@[simp] theorem modWg_net (s : State) (k : Nat) (g : Wg → Wg) : (modWg s k g).net = s.net := rfl
@[simp] theorem modWg_hbm (s : State) (k : Nat) (g : Wg → Wg) : (modWg s k g).hbm = s.hbm := rfl
@[simp] theorem modWg_wstore (s : State) (k : Nat) (g : Wg → Wg) : (modWg s k g).wstore = s.wstore := rfl
@[simp] theorem modWg_host (s : State) (k : Nat) (g : Wg → Wg) : (modWg s k g).host = s.host := rfl
@[simp] theorem modWg_sram (s : State) (k : Nat) (g : Wg → Wg) : (modWg s k g).sram = s.sram := rfl
@[simp] theorem modWg_olds (s : State) (k : Nat) (g : Wg → Wg) : (modWg s k g).olds = s.olds := rfl
@[simp] theorem modWg_ctxs (s : State) (k : Nat) (g : Wg → Wg) : (modWg s k g).ctxs = s.ctxs := rfl
@[simp] theorem modWg_parts (s : State) (k : Nat) (g : Wg → Wg) : (modWg s k g).parts = s.parts := rfl
@[simp] theorem modWg_queues (s : State) (k : Nat) (g : Wg → Wg) : (modWg s k g).queues = s.queues := rfl
@[simp] theorem modWg_grants (s : State) (k : Nat) (g : Wg → Wg) : (modWg s k g).grants = s.grants := rfl
@[simp] theorem modWg_msgs (s : State) (k : Nat) (g : Wg → Wg) : (modWg s k g).msgs = s.msgs := rfl
@[simp] theorem modWg_launches (s : State) (k : Nat) (g : Wg → Wg) : (modWg s k g).launches = s.launches := rfl
@[simp] theorem modWg_cgs (s : State) (k : Nat) (g : Wg → Wg) : (modWg s k g).cgs = s.cgs := rfl
@[simp] theorem modWg_warps (s : State) (k : Nat) (g : Wg → Wg) : (modWg s k g).warps = s.warps := rfl
@[simp] theorem modWg_copies (s : State) (k : Nat) (g : Wg → Wg) : (modWg s k g).copies = s.copies := rfl
@[simp] theorem modWg_mops (s : State) (k : Nat) (g : Wg → Wg) : (modWg s k g).mops = s.mops := rfl
@[simp] theorem modWg_bins (s : State) (k : Nat) (g : Wg → Wg) : (modWg s k g).bins = s.bins := rfl
@[simp] theorem modWg_rowsAt (s : State) (k : Nat) (g : Wg → Wg) : (modWg s k g).rowsAt = s.rowsAt := rfl
@[simp] theorem modWg_jobs (s : State) (k : Nat) (g : Wg → Wg) : (modWg s k g).jobs = s.jobs := rfl
@[simp] theorem modWg_mbuReq (s : State) (k : Nat) (g : Wg → Wg) : (modWg s k g).mbuReq = s.mbuReq := rfl
@[simp] theorem modWg_mbuCap (s : State) (k : Nat) (g : Wg → Wg) : (modWg s k g).mbuCap = s.mbuCap := rfl
@[simp] theorem modWg_mbuEra (s : State) (k : Nat) (g : Wg → Wg) : (modWg s k g).mbuEra = s.mbuEra := rfl
@[simp] theorem modWg_period (s : State) (k : Nat) (g : Wg → Wg) : (modWg s k g).period = s.period := rfl
@[simp] theorem modWg_walks (s : State) (k : Nat) (g : Wg → Wg) : (modWg s k g).walks = s.walks := rfl
@[simp] theorem modWg_builds (s : State) (k : Nat) (g : Wg → Wg) : (modWg s k g).builds = s.builds := rfl
@[simp] theorem modWg_pix (s : State) (k : Nat) (g : Wg → Wg) : (modWg s k g).pix = s.pix := rfl
@[simp] theorem modWg_cells (s : State) (k : Nat) (g : Wg → Wg) : (modWg s k g).cells = s.cells := rfl
@[simp] theorem modWg_sigs (s : State) (k : Nat) (g : Wg → Wg) : (modWg s k g).sigs = s.sigs := rfl
@[simp] theorem modWg_ph (s : State) (k : Nat) (g : Wg → Wg) : (modWg s k g).ph = s.ph := rfl
@[simp] theorem modWg_sec (s : State) (k : Nat) (g : Wg → Wg) : (modWg s k g).sec = s.sec := rfl
@[simp] theorem modWg_secMem (s : State) (k : Nat) (g : Wg → Wg) : (modWg s k g).secMem = s.secMem := rfl
@[simp] theorem modWg_turns (s : State) (k : Nat) (g : Wg → Wg) : (modWg s k g).turns = s.turns := rfl
@[simp] theorem modWg_focus (s : State) (k : Nat) (g : Wg → Wg) : (modWg s k g).focus = s.focus := rfl
@[simp] theorem modWg_ev (s : State) (k : Nat) (g : Wg → Wg) : (modWg s k g).ev = s.ev := rfl
@[simp] theorem modWg_freshId (s : State) (k : Nat) (g : Wg → Wg) : (modWg s k g).freshId = s.freshId := rfl
@[simp] theorem modWg_freeCtr (s : State) (k : Nat) (g : Wg → Wg) : (modWg s k g).freeCtr = s.freeCtr := rfl

/-! ### modLaunch -/

@[simp] theorem modLaunch_clock (s : State) (k : Nat) (g : Launch → Launch) : (modLaunch s k g).clock = s.clock := rfl
@[simp] theorem modLaunch_board (s : State) (k : Nat) (g : Launch → Launch) : (modLaunch s k g).board = s.board := rfl
@[simp] theorem modLaunch_net (s : State) (k : Nat) (g : Launch → Launch) : (modLaunch s k g).net = s.net := rfl
@[simp] theorem modLaunch_hbm (s : State) (k : Nat) (g : Launch → Launch) : (modLaunch s k g).hbm = s.hbm := rfl
@[simp] theorem modLaunch_wstore (s : State) (k : Nat) (g : Launch → Launch) : (modLaunch s k g).wstore = s.wstore := rfl
@[simp] theorem modLaunch_host (s : State) (k : Nat) (g : Launch → Launch) : (modLaunch s k g).host = s.host := rfl
@[simp] theorem modLaunch_sram (s : State) (k : Nat) (g : Launch → Launch) : (modLaunch s k g).sram = s.sram := rfl
@[simp] theorem modLaunch_olds (s : State) (k : Nat) (g : Launch → Launch) : (modLaunch s k g).olds = s.olds := rfl
@[simp] theorem modLaunch_ctxs (s : State) (k : Nat) (g : Launch → Launch) : (modLaunch s k g).ctxs = s.ctxs := rfl
@[simp] theorem modLaunch_parts (s : State) (k : Nat) (g : Launch → Launch) : (modLaunch s k g).parts = s.parts := rfl
@[simp] theorem modLaunch_queues (s : State) (k : Nat) (g : Launch → Launch) : (modLaunch s k g).queues = s.queues := rfl
@[simp] theorem modLaunch_grants (s : State) (k : Nat) (g : Launch → Launch) : (modLaunch s k g).grants = s.grants := rfl
@[simp] theorem modLaunch_msgs (s : State) (k : Nat) (g : Launch → Launch) : (modLaunch s k g).msgs = s.msgs := rfl
@[simp] theorem modLaunch_cgs (s : State) (k : Nat) (g : Launch → Launch) : (modLaunch s k g).cgs = s.cgs := rfl
@[simp] theorem modLaunch_wgs (s : State) (k : Nat) (g : Launch → Launch) : (modLaunch s k g).wgs = s.wgs := rfl
@[simp] theorem modLaunch_warps (s : State) (k : Nat) (g : Launch → Launch) : (modLaunch s k g).warps = s.warps := rfl
@[simp] theorem modLaunch_copies (s : State) (k : Nat) (g : Launch → Launch) : (modLaunch s k g).copies = s.copies := rfl
@[simp] theorem modLaunch_mops (s : State) (k : Nat) (g : Launch → Launch) : (modLaunch s k g).mops = s.mops := rfl
@[simp] theorem modLaunch_bins (s : State) (k : Nat) (g : Launch → Launch) : (modLaunch s k g).bins = s.bins := rfl
@[simp] theorem modLaunch_rowsAt (s : State) (k : Nat) (g : Launch → Launch) : (modLaunch s k g).rowsAt = s.rowsAt := rfl
@[simp] theorem modLaunch_jobs (s : State) (k : Nat) (g : Launch → Launch) : (modLaunch s k g).jobs = s.jobs := rfl
@[simp] theorem modLaunch_mbuReq (s : State) (k : Nat) (g : Launch → Launch) : (modLaunch s k g).mbuReq = s.mbuReq := rfl
@[simp] theorem modLaunch_mbuCap (s : State) (k : Nat) (g : Launch → Launch) : (modLaunch s k g).mbuCap = s.mbuCap := rfl
@[simp] theorem modLaunch_mbuEra (s : State) (k : Nat) (g : Launch → Launch) : (modLaunch s k g).mbuEra = s.mbuEra := rfl
@[simp] theorem modLaunch_period (s : State) (k : Nat) (g : Launch → Launch) : (modLaunch s k g).period = s.period := rfl
@[simp] theorem modLaunch_walks (s : State) (k : Nat) (g : Launch → Launch) : (modLaunch s k g).walks = s.walks := rfl
@[simp] theorem modLaunch_builds (s : State) (k : Nat) (g : Launch → Launch) : (modLaunch s k g).builds = s.builds := rfl
@[simp] theorem modLaunch_pix (s : State) (k : Nat) (g : Launch → Launch) : (modLaunch s k g).pix = s.pix := rfl
@[simp] theorem modLaunch_cells (s : State) (k : Nat) (g : Launch → Launch) : (modLaunch s k g).cells = s.cells := rfl
@[simp] theorem modLaunch_sigs (s : State) (k : Nat) (g : Launch → Launch) : (modLaunch s k g).sigs = s.sigs := rfl
@[simp] theorem modLaunch_ph (s : State) (k : Nat) (g : Launch → Launch) : (modLaunch s k g).ph = s.ph := rfl
@[simp] theorem modLaunch_sec (s : State) (k : Nat) (g : Launch → Launch) : (modLaunch s k g).sec = s.sec := rfl
@[simp] theorem modLaunch_secMem (s : State) (k : Nat) (g : Launch → Launch) : (modLaunch s k g).secMem = s.secMem := rfl
@[simp] theorem modLaunch_turns (s : State) (k : Nat) (g : Launch → Launch) : (modLaunch s k g).turns = s.turns := rfl
@[simp] theorem modLaunch_focus (s : State) (k : Nat) (g : Launch → Launch) : (modLaunch s k g).focus = s.focus := rfl
@[simp] theorem modLaunch_ev (s : State) (k : Nat) (g : Launch → Launch) : (modLaunch s k g).ev = s.ev := rfl
@[simp] theorem modLaunch_freshId (s : State) (k : Nat) (g : Launch → Launch) : (modLaunch s k g).freshId = s.freshId := rfl
@[simp] theorem modLaunch_freeCtr (s : State) (k : Nat) (g : Launch → Launch) : (modLaunch s k g).freeCtr = s.freeCtr := rfl

/-! ### modBoard -/

@[simp] theorem modBoard_clock (s : State) (g : Machine.Board → Machine.Board) : (modBoard s g).clock = s.clock := rfl
@[simp] theorem modBoard_net (s : State) (g : Machine.Board → Machine.Board) : (modBoard s g).net = s.net := rfl
@[simp] theorem modBoard_hbm (s : State) (g : Machine.Board → Machine.Board) : (modBoard s g).hbm = s.hbm := rfl
@[simp] theorem modBoard_wstore (s : State) (g : Machine.Board → Machine.Board) : (modBoard s g).wstore = s.wstore := rfl
@[simp] theorem modBoard_host (s : State) (g : Machine.Board → Machine.Board) : (modBoard s g).host = s.host := rfl
@[simp] theorem modBoard_sram (s : State) (g : Machine.Board → Machine.Board) : (modBoard s g).sram = s.sram := rfl
@[simp] theorem modBoard_olds (s : State) (g : Machine.Board → Machine.Board) : (modBoard s g).olds = s.olds := rfl
@[simp] theorem modBoard_ctxs (s : State) (g : Machine.Board → Machine.Board) : (modBoard s g).ctxs = s.ctxs := rfl
@[simp] theorem modBoard_parts (s : State) (g : Machine.Board → Machine.Board) : (modBoard s g).parts = s.parts := rfl
@[simp] theorem modBoard_queues (s : State) (g : Machine.Board → Machine.Board) : (modBoard s g).queues = s.queues := rfl
@[simp] theorem modBoard_grants (s : State) (g : Machine.Board → Machine.Board) : (modBoard s g).grants = s.grants := rfl
@[simp] theorem modBoard_msgs (s : State) (g : Machine.Board → Machine.Board) : (modBoard s g).msgs = s.msgs := rfl
@[simp] theorem modBoard_launches (s : State) (g : Machine.Board → Machine.Board) : (modBoard s g).launches = s.launches := rfl
@[simp] theorem modBoard_cgs (s : State) (g : Machine.Board → Machine.Board) : (modBoard s g).cgs = s.cgs := rfl
@[simp] theorem modBoard_wgs (s : State) (g : Machine.Board → Machine.Board) : (modBoard s g).wgs = s.wgs := rfl
@[simp] theorem modBoard_warps (s : State) (g : Machine.Board → Machine.Board) : (modBoard s g).warps = s.warps := rfl
@[simp] theorem modBoard_copies (s : State) (g : Machine.Board → Machine.Board) : (modBoard s g).copies = s.copies := rfl
@[simp] theorem modBoard_mops (s : State) (g : Machine.Board → Machine.Board) : (modBoard s g).mops = s.mops := rfl
@[simp] theorem modBoard_bins (s : State) (g : Machine.Board → Machine.Board) : (modBoard s g).bins = s.bins := rfl
@[simp] theorem modBoard_rowsAt (s : State) (g : Machine.Board → Machine.Board) : (modBoard s g).rowsAt = s.rowsAt := rfl
@[simp] theorem modBoard_jobs (s : State) (g : Machine.Board → Machine.Board) : (modBoard s g).jobs = s.jobs := rfl
@[simp] theorem modBoard_mbuReq (s : State) (g : Machine.Board → Machine.Board) : (modBoard s g).mbuReq = s.mbuReq := rfl
@[simp] theorem modBoard_mbuCap (s : State) (g : Machine.Board → Machine.Board) : (modBoard s g).mbuCap = s.mbuCap := rfl
@[simp] theorem modBoard_mbuEra (s : State) (g : Machine.Board → Machine.Board) : (modBoard s g).mbuEra = s.mbuEra := rfl
@[simp] theorem modBoard_period (s : State) (g : Machine.Board → Machine.Board) : (modBoard s g).period = s.period := rfl
@[simp] theorem modBoard_walks (s : State) (g : Machine.Board → Machine.Board) : (modBoard s g).walks = s.walks := rfl
@[simp] theorem modBoard_builds (s : State) (g : Machine.Board → Machine.Board) : (modBoard s g).builds = s.builds := rfl
@[simp] theorem modBoard_pix (s : State) (g : Machine.Board → Machine.Board) : (modBoard s g).pix = s.pix := rfl
@[simp] theorem modBoard_cells (s : State) (g : Machine.Board → Machine.Board) : (modBoard s g).cells = s.cells := rfl
@[simp] theorem modBoard_sigs (s : State) (g : Machine.Board → Machine.Board) : (modBoard s g).sigs = s.sigs := rfl
@[simp] theorem modBoard_ph (s : State) (g : Machine.Board → Machine.Board) : (modBoard s g).ph = s.ph := rfl
@[simp] theorem modBoard_sec (s : State) (g : Machine.Board → Machine.Board) : (modBoard s g).sec = s.sec := rfl
@[simp] theorem modBoard_secMem (s : State) (g : Machine.Board → Machine.Board) : (modBoard s g).secMem = s.secMem := rfl
@[simp] theorem modBoard_turns (s : State) (g : Machine.Board → Machine.Board) : (modBoard s g).turns = s.turns := rfl
@[simp] theorem modBoard_focus (s : State) (g : Machine.Board → Machine.Board) : (modBoard s g).focus = s.focus := rfl
@[simp] theorem modBoard_ev (s : State) (g : Machine.Board → Machine.Board) : (modBoard s g).ev = s.ev := rfl
@[simp] theorem modBoard_freshId (s : State) (g : Machine.Board → Machine.Board) : (modBoard s g).freshId = s.freshId := rfl
@[simp] theorem modBoard_freeCtr (s : State) (g : Machine.Board → Machine.Board) : (modBoard s g).freeCtr = s.freeCtr := rfl

/-! ### modNet -/

@[simp] theorem modNet_clock (s : State) (g : Net → Net) : (modNet s g).clock = s.clock := rfl
@[simp] theorem modNet_board (s : State) (g : Net → Net) : (modNet s g).board = s.board := rfl
@[simp] theorem modNet_hbm (s : State) (g : Net → Net) : (modNet s g).hbm = s.hbm := rfl
@[simp] theorem modNet_wstore (s : State) (g : Net → Net) : (modNet s g).wstore = s.wstore := rfl
@[simp] theorem modNet_host (s : State) (g : Net → Net) : (modNet s g).host = s.host := rfl
@[simp] theorem modNet_sram (s : State) (g : Net → Net) : (modNet s g).sram = s.sram := rfl
@[simp] theorem modNet_olds (s : State) (g : Net → Net) : (modNet s g).olds = s.olds := rfl
@[simp] theorem modNet_ctxs (s : State) (g : Net → Net) : (modNet s g).ctxs = s.ctxs := rfl
@[simp] theorem modNet_parts (s : State) (g : Net → Net) : (modNet s g).parts = s.parts := rfl
@[simp] theorem modNet_queues (s : State) (g : Net → Net) : (modNet s g).queues = s.queues := rfl
@[simp] theorem modNet_grants (s : State) (g : Net → Net) : (modNet s g).grants = s.grants := rfl
@[simp] theorem modNet_msgs (s : State) (g : Net → Net) : (modNet s g).msgs = s.msgs := rfl
@[simp] theorem modNet_launches (s : State) (g : Net → Net) : (modNet s g).launches = s.launches := rfl
@[simp] theorem modNet_cgs (s : State) (g : Net → Net) : (modNet s g).cgs = s.cgs := rfl
@[simp] theorem modNet_wgs (s : State) (g : Net → Net) : (modNet s g).wgs = s.wgs := rfl
@[simp] theorem modNet_warps (s : State) (g : Net → Net) : (modNet s g).warps = s.warps := rfl
@[simp] theorem modNet_copies (s : State) (g : Net → Net) : (modNet s g).copies = s.copies := rfl
@[simp] theorem modNet_mops (s : State) (g : Net → Net) : (modNet s g).mops = s.mops := rfl
@[simp] theorem modNet_bins (s : State) (g : Net → Net) : (modNet s g).bins = s.bins := rfl
@[simp] theorem modNet_rowsAt (s : State) (g : Net → Net) : (modNet s g).rowsAt = s.rowsAt := rfl
@[simp] theorem modNet_jobs (s : State) (g : Net → Net) : (modNet s g).jobs = s.jobs := rfl
@[simp] theorem modNet_mbuReq (s : State) (g : Net → Net) : (modNet s g).mbuReq = s.mbuReq := rfl
@[simp] theorem modNet_mbuCap (s : State) (g : Net → Net) : (modNet s g).mbuCap = s.mbuCap := rfl
@[simp] theorem modNet_mbuEra (s : State) (g : Net → Net) : (modNet s g).mbuEra = s.mbuEra := rfl
@[simp] theorem modNet_period (s : State) (g : Net → Net) : (modNet s g).period = s.period := rfl
@[simp] theorem modNet_walks (s : State) (g : Net → Net) : (modNet s g).walks = s.walks := rfl
@[simp] theorem modNet_builds (s : State) (g : Net → Net) : (modNet s g).builds = s.builds := rfl
@[simp] theorem modNet_pix (s : State) (g : Net → Net) : (modNet s g).pix = s.pix := rfl
@[simp] theorem modNet_cells (s : State) (g : Net → Net) : (modNet s g).cells = s.cells := rfl
@[simp] theorem modNet_sigs (s : State) (g : Net → Net) : (modNet s g).sigs = s.sigs := rfl
@[simp] theorem modNet_ph (s : State) (g : Net → Net) : (modNet s g).ph = s.ph := rfl
@[simp] theorem modNet_sec (s : State) (g : Net → Net) : (modNet s g).sec = s.sec := rfl
@[simp] theorem modNet_secMem (s : State) (g : Net → Net) : (modNet s g).secMem = s.secMem := rfl
@[simp] theorem modNet_turns (s : State) (g : Net → Net) : (modNet s g).turns = s.turns := rfl
@[simp] theorem modNet_focus (s : State) (g : Net → Net) : (modNet s g).focus = s.focus := rfl
@[simp] theorem modNet_ev (s : State) (g : Net → Net) : (modNet s g).ev = s.ev := rfl
@[simp] theorem modNet_freshId (s : State) (g : Net → Net) : (modNet s g).freshId = s.freshId := rfl
@[simp] theorem modNet_freeCtr (s : State) (g : Net → Net) : (modNet s g).freeCtr = s.freeCtr := rfl

/-! ### raiseVec -/

@[simp] theorem raiseVec_clock (s : State) (v : Nat) : (raiseVec s v).clock = s.clock := rfl
@[simp] theorem raiseVec_net (s : State) (v : Nat) : (raiseVec s v).net = s.net := rfl
@[simp] theorem raiseVec_hbm (s : State) (v : Nat) : (raiseVec s v).hbm = s.hbm := rfl
@[simp] theorem raiseVec_wstore (s : State) (v : Nat) : (raiseVec s v).wstore = s.wstore := rfl
@[simp] theorem raiseVec_host (s : State) (v : Nat) : (raiseVec s v).host = s.host := rfl
@[simp] theorem raiseVec_sram (s : State) (v : Nat) : (raiseVec s v).sram = s.sram := rfl
@[simp] theorem raiseVec_olds (s : State) (v : Nat) : (raiseVec s v).olds = s.olds := rfl
@[simp] theorem raiseVec_ctxs (s : State) (v : Nat) : (raiseVec s v).ctxs = s.ctxs := rfl
@[simp] theorem raiseVec_parts (s : State) (v : Nat) : (raiseVec s v).parts = s.parts := rfl
@[simp] theorem raiseVec_queues (s : State) (v : Nat) : (raiseVec s v).queues = s.queues := rfl
@[simp] theorem raiseVec_grants (s : State) (v : Nat) : (raiseVec s v).grants = s.grants := rfl
@[simp] theorem raiseVec_msgs (s : State) (v : Nat) : (raiseVec s v).msgs = s.msgs := rfl
@[simp] theorem raiseVec_launches (s : State) (v : Nat) : (raiseVec s v).launches = s.launches := rfl
@[simp] theorem raiseVec_cgs (s : State) (v : Nat) : (raiseVec s v).cgs = s.cgs := rfl
@[simp] theorem raiseVec_wgs (s : State) (v : Nat) : (raiseVec s v).wgs = s.wgs := rfl
@[simp] theorem raiseVec_warps (s : State) (v : Nat) : (raiseVec s v).warps = s.warps := rfl
@[simp] theorem raiseVec_copies (s : State) (v : Nat) : (raiseVec s v).copies = s.copies := rfl
@[simp] theorem raiseVec_mops (s : State) (v : Nat) : (raiseVec s v).mops = s.mops := rfl
@[simp] theorem raiseVec_bins (s : State) (v : Nat) : (raiseVec s v).bins = s.bins := rfl
@[simp] theorem raiseVec_rowsAt (s : State) (v : Nat) : (raiseVec s v).rowsAt = s.rowsAt := rfl
@[simp] theorem raiseVec_jobs (s : State) (v : Nat) : (raiseVec s v).jobs = s.jobs := rfl
@[simp] theorem raiseVec_mbuReq (s : State) (v : Nat) : (raiseVec s v).mbuReq = s.mbuReq := rfl
@[simp] theorem raiseVec_mbuCap (s : State) (v : Nat) : (raiseVec s v).mbuCap = s.mbuCap := rfl
@[simp] theorem raiseVec_mbuEra (s : State) (v : Nat) : (raiseVec s v).mbuEra = s.mbuEra := rfl
@[simp] theorem raiseVec_period (s : State) (v : Nat) : (raiseVec s v).period = s.period := rfl
@[simp] theorem raiseVec_walks (s : State) (v : Nat) : (raiseVec s v).walks = s.walks := rfl
@[simp] theorem raiseVec_builds (s : State) (v : Nat) : (raiseVec s v).builds = s.builds := rfl
@[simp] theorem raiseVec_pix (s : State) (v : Nat) : (raiseVec s v).pix = s.pix := rfl
@[simp] theorem raiseVec_cells (s : State) (v : Nat) : (raiseVec s v).cells = s.cells := rfl
@[simp] theorem raiseVec_sigs (s : State) (v : Nat) : (raiseVec s v).sigs = s.sigs := rfl
@[simp] theorem raiseVec_ph (s : State) (v : Nat) : (raiseVec s v).ph = s.ph := rfl
@[simp] theorem raiseVec_sec (s : State) (v : Nat) : (raiseVec s v).sec = s.sec := rfl
@[simp] theorem raiseVec_secMem (s : State) (v : Nat) : (raiseVec s v).secMem = s.secMem := rfl
@[simp] theorem raiseVec_turns (s : State) (v : Nat) : (raiseVec s v).turns = s.turns := rfl
@[simp] theorem raiseVec_focus (s : State) (v : Nat) : (raiseVec s v).focus = s.focus := rfl
@[simp] theorem raiseVec_ev (s : State) (v : Nat) : (raiseVec s v).ev = s.ev := rfl
@[simp] theorem raiseVec_freshId (s : State) (v : Nat) : (raiseVec s v).freshId = s.freshId := rfl
@[simp] theorem raiseVec_freeCtr (s : State) (v : Nat) : (raiseVec s v).freeCtr = s.freeCtr := rfl

/-! ### noteKeys -/

@[simp] theorem noteKeys_clock (s : State) (ks : List Nat) : (noteKeys s ks).clock = s.clock := rfl
@[simp] theorem noteKeys_board (s : State) (ks : List Nat) : (noteKeys s ks).board = s.board := rfl
@[simp] theorem noteKeys_net (s : State) (ks : List Nat) : (noteKeys s ks).net = s.net := rfl
@[simp] theorem noteKeys_hbm (s : State) (ks : List Nat) : (noteKeys s ks).hbm = s.hbm := rfl
@[simp] theorem noteKeys_wstore (s : State) (ks : List Nat) : (noteKeys s ks).wstore = s.wstore := rfl
@[simp] theorem noteKeys_host (s : State) (ks : List Nat) : (noteKeys s ks).host = s.host := rfl
@[simp] theorem noteKeys_sram (s : State) (ks : List Nat) : (noteKeys s ks).sram = s.sram := rfl
@[simp] theorem noteKeys_ctxs (s : State) (ks : List Nat) : (noteKeys s ks).ctxs = s.ctxs := rfl
@[simp] theorem noteKeys_parts (s : State) (ks : List Nat) : (noteKeys s ks).parts = s.parts := rfl
@[simp] theorem noteKeys_queues (s : State) (ks : List Nat) : (noteKeys s ks).queues = s.queues := rfl
@[simp] theorem noteKeys_grants (s : State) (ks : List Nat) : (noteKeys s ks).grants = s.grants := rfl
@[simp] theorem noteKeys_msgs (s : State) (ks : List Nat) : (noteKeys s ks).msgs = s.msgs := rfl
@[simp] theorem noteKeys_launches (s : State) (ks : List Nat) : (noteKeys s ks).launches = s.launches := rfl
@[simp] theorem noteKeys_cgs (s : State) (ks : List Nat) : (noteKeys s ks).cgs = s.cgs := rfl
@[simp] theorem noteKeys_wgs (s : State) (ks : List Nat) : (noteKeys s ks).wgs = s.wgs := rfl
@[simp] theorem noteKeys_warps (s : State) (ks : List Nat) : (noteKeys s ks).warps = s.warps := rfl
@[simp] theorem noteKeys_copies (s : State) (ks : List Nat) : (noteKeys s ks).copies = s.copies := rfl
@[simp] theorem noteKeys_mops (s : State) (ks : List Nat) : (noteKeys s ks).mops = s.mops := rfl
@[simp] theorem noteKeys_bins (s : State) (ks : List Nat) : (noteKeys s ks).bins = s.bins := rfl
@[simp] theorem noteKeys_rowsAt (s : State) (ks : List Nat) : (noteKeys s ks).rowsAt = s.rowsAt := rfl
@[simp] theorem noteKeys_jobs (s : State) (ks : List Nat) : (noteKeys s ks).jobs = s.jobs := rfl
@[simp] theorem noteKeys_mbuReq (s : State) (ks : List Nat) : (noteKeys s ks).mbuReq = s.mbuReq := rfl
@[simp] theorem noteKeys_mbuCap (s : State) (ks : List Nat) : (noteKeys s ks).mbuCap = s.mbuCap := rfl
@[simp] theorem noteKeys_mbuEra (s : State) (ks : List Nat) : (noteKeys s ks).mbuEra = s.mbuEra := rfl
@[simp] theorem noteKeys_period (s : State) (ks : List Nat) : (noteKeys s ks).period = s.period := rfl
@[simp] theorem noteKeys_walks (s : State) (ks : List Nat) : (noteKeys s ks).walks = s.walks := rfl
@[simp] theorem noteKeys_builds (s : State) (ks : List Nat) : (noteKeys s ks).builds = s.builds := rfl
@[simp] theorem noteKeys_pix (s : State) (ks : List Nat) : (noteKeys s ks).pix = s.pix := rfl
@[simp] theorem noteKeys_cells (s : State) (ks : List Nat) : (noteKeys s ks).cells = s.cells := rfl
@[simp] theorem noteKeys_sigs (s : State) (ks : List Nat) : (noteKeys s ks).sigs = s.sigs := rfl
@[simp] theorem noteKeys_ph (s : State) (ks : List Nat) : (noteKeys s ks).ph = s.ph := rfl
@[simp] theorem noteKeys_sec (s : State) (ks : List Nat) : (noteKeys s ks).sec = s.sec := rfl
@[simp] theorem noteKeys_secMem (s : State) (ks : List Nat) : (noteKeys s ks).secMem = s.secMem := rfl
@[simp] theorem noteKeys_turns (s : State) (ks : List Nat) : (noteKeys s ks).turns = s.turns := rfl
@[simp] theorem noteKeys_focus (s : State) (ks : List Nat) : (noteKeys s ks).focus = s.focus := rfl
@[simp] theorem noteKeys_ev (s : State) (ks : List Nat) : (noteKeys s ks).ev = s.ev := rfl
@[simp] theorem noteKeys_freshId (s : State) (ks : List Nat) : (noteKeys s ks).freshId = s.freshId := rfl
@[simp] theorem noteKeys_freeCtr (s : State) (ks : List Nat) : (noteKeys s ks).freeCtr = s.freeCtr := rfl

/-! ### setSig -/

@[simp] theorem setSig_clock (s : State) (b : Nat) : (setSig s b).clock = s.clock := rfl
@[simp] theorem setSig_board (s : State) (b : Nat) : (setSig s b).board = s.board := rfl
@[simp] theorem setSig_net (s : State) (b : Nat) : (setSig s b).net = s.net := rfl
@[simp] theorem setSig_hbm (s : State) (b : Nat) : (setSig s b).hbm = s.hbm := rfl
@[simp] theorem setSig_wstore (s : State) (b : Nat) : (setSig s b).wstore = s.wstore := rfl
@[simp] theorem setSig_host (s : State) (b : Nat) : (setSig s b).host = s.host := rfl
@[simp] theorem setSig_sram (s : State) (b : Nat) : (setSig s b).sram = s.sram := rfl
@[simp] theorem setSig_olds (s : State) (b : Nat) : (setSig s b).olds = s.olds := rfl
@[simp] theorem setSig_ctxs (s : State) (b : Nat) : (setSig s b).ctxs = s.ctxs := rfl
@[simp] theorem setSig_parts (s : State) (b : Nat) : (setSig s b).parts = s.parts := rfl
@[simp] theorem setSig_queues (s : State) (b : Nat) : (setSig s b).queues = s.queues := rfl
@[simp] theorem setSig_grants (s : State) (b : Nat) : (setSig s b).grants = s.grants := rfl
@[simp] theorem setSig_msgs (s : State) (b : Nat) : (setSig s b).msgs = s.msgs := rfl
@[simp] theorem setSig_launches (s : State) (b : Nat) : (setSig s b).launches = s.launches := rfl
@[simp] theorem setSig_cgs (s : State) (b : Nat) : (setSig s b).cgs = s.cgs := rfl
@[simp] theorem setSig_wgs (s : State) (b : Nat) : (setSig s b).wgs = s.wgs := rfl
@[simp] theorem setSig_warps (s : State) (b : Nat) : (setSig s b).warps = s.warps := rfl
@[simp] theorem setSig_copies (s : State) (b : Nat) : (setSig s b).copies = s.copies := rfl
@[simp] theorem setSig_mops (s : State) (b : Nat) : (setSig s b).mops = s.mops := rfl
@[simp] theorem setSig_bins (s : State) (b : Nat) : (setSig s b).bins = s.bins := rfl
@[simp] theorem setSig_rowsAt (s : State) (b : Nat) : (setSig s b).rowsAt = s.rowsAt := rfl
@[simp] theorem setSig_jobs (s : State) (b : Nat) : (setSig s b).jobs = s.jobs := rfl
@[simp] theorem setSig_mbuReq (s : State) (b : Nat) : (setSig s b).mbuReq = s.mbuReq := rfl
@[simp] theorem setSig_mbuCap (s : State) (b : Nat) : (setSig s b).mbuCap = s.mbuCap := rfl
@[simp] theorem setSig_mbuEra (s : State) (b : Nat) : (setSig s b).mbuEra = s.mbuEra := rfl
@[simp] theorem setSig_period (s : State) (b : Nat) : (setSig s b).period = s.period := rfl
@[simp] theorem setSig_walks (s : State) (b : Nat) : (setSig s b).walks = s.walks := rfl
@[simp] theorem setSig_builds (s : State) (b : Nat) : (setSig s b).builds = s.builds := rfl
@[simp] theorem setSig_pix (s : State) (b : Nat) : (setSig s b).pix = s.pix := rfl
@[simp] theorem setSig_cells (s : State) (b : Nat) : (setSig s b).cells = s.cells := rfl
@[simp] theorem setSig_sigs (s : State) (b : Nat) : (setSig s b).sigs = s.sigs := rfl
@[simp] theorem setSig_sec (s : State) (b : Nat) : (setSig s b).sec = s.sec := rfl
@[simp] theorem setSig_secMem (s : State) (b : Nat) : (setSig s b).secMem = s.secMem := rfl
@[simp] theorem setSig_turns (s : State) (b : Nat) : (setSig s b).turns = s.turns := rfl
@[simp] theorem setSig_focus (s : State) (b : Nat) : (setSig s b).focus = s.focus := rfl
@[simp] theorem setSig_ev (s : State) (b : Nat) : (setSig s b).ev = s.ev := rfl
@[simp] theorem setSig_freshId (s : State) (b : Nat) : (setSig s b).freshId = s.freshId := rfl
@[simp] theorem setSig_freeCtr (s : State) (b : Nat) : (setSig s b).freeCtr = s.freeCtr := rfl

end Sys2Proof
end

