-- ==== Sys2Proof/Laws/Issue.lean ====
section
/-! SUPPORT. What issuing a Decmen instruction comes to once the shared checks have passed, and what completing one leaves. -/

namespace Sys2Proof

open Machine

/-! ## Finding a warp and its fragment -/

theorem findFrag_warp {s : State} {wid fid : Nat} {w : Warp} {f : Frag} (h : findFrag s wid fid = some (w, f)) :
    Tbl.find s.warps wid = some w := by
  unfold findFrag at h
  cases e : Tbl.find s.warps wid with
  | none => simp [e] at h
  | some v => cases e2 : Tbl.find v.frags fid <;> simp [e, e2] at h; rw [h.1]

theorem findFrag_frag {s : State} {wid fid : Nat} {w : Warp} {f : Frag} (h : findFrag s wid fid = some (w, f)) :
    Tbl.find w.frags fid = some f := by
  unfold findFrag at h
  cases e : Tbl.find s.warps wid with
  | none => simp [e] at h
  | some v => cases e2 : Tbl.find v.frags fid <;> simp [e, e2] at h; rw [← h.1, ← h.2, e2]

theorem findFrag_of {s : State} {wid fid : Nat} {w : Warp} {f : Frag} (h : Tbl.find s.warps wid = some w) (h' : Tbl.find w.frags fid = some f) :
    findFrag s wid fid = some (w, f) := by
  simp [findFrag, h, h']

/-- Changing a fragment of a warp that was just put back. -/
theorem modFrag_putWarp (s : State) (wid fid : Nat) (w : Warp) {f : Frag} (h : Tbl.find w.frags fid = some f) (g : Frag → Frag) :
    modFrag (putWarp s wid w) wid fid g = withFrag s wid fid w (g f) := by
  simp [modFrag, modWarp, putWarp, withFrag, Tbl.modify, h]

/-- Changing a fragment in place. -/
theorem modFrag_of {s : State} {wid fid : Nat} {w : Warp} {f : Frag} (h : findFrag s wid fid = some (w, f)) (g : Frag → Frag) :
    modFrag s wid fid g = withFrag s wid fid w (g f) := by
  simp [modFrag, modWarp, withFrag, Tbl.modify, findFrag_warp h, findFrag_frag h]

@[simp] theorem findFrag_withFrag (s : State) (wid fid : Nat) (w : Warp) (f : Frag) :
    findFrag (withFrag s wid fid w f) wid fid = some ({ w with frags := Tbl.put w.frags fid f }, f) := by
  simp [findFrag, withFrag]

@[simp] theorem modFrag_withFrag (s : State) (wid fid : Nat) (w : Warp) (f : Frag) (g : Frag → Frag) :
    modFrag (withFrag s wid fid w f) wid fid g = withFrag s wid fid w (g f) := by
  simp [modFrag, modWarp, withFrag, Tbl.modify]

@[simp] theorem find_warps_withFrag (s : State) (wid fid : Nat) (w : Warp) (f : Frag) :
    Tbl.find (withFrag s wid fid w f).warps wid = some { w with frags := Tbl.put w.frags fid f } := by
  simp [withFrag]

/-! ## The shared checks -/

/-- What follows the checks of an instruction that may run: its own effect, or a step over it with no lane active (R14). -/
theorem Issue.run_clear {x : Issue} {s : State} (h : x.clear s) (full : Bool) (eff : State → Issue → State) :
    x.run s full eff = if x.act = 0 && !full then x.idle s else eff s x := by
  obtain ⟨h0, h1, h2, h3, h4, h5, h6, h8, h7⟩ := h
  unfold Issue.run
  have e1 : (isHandlerOpc x.i.opc && x.w.level == .u) = false := by
    cases e : isHandlerOpc x.i.opc
    · rfl
    · rw [h1 e]; rfl
  have e2 : (x.w.ctl && isMainOnly x.i.opc) = false := by
    cases e : isMainOnly x.i.opc
    · simp
    · rw [h2 e]; rfl
  simp [e1, e2, h0, h3, h4, h5, h6, h7, h8]

/-- An instruction that may run, with an active lane, has its own effect. -/
theorem issue_active {s : State} {i : Instr} {wid fid : Nat} {w : Warp} {f : Frag} (h : Executes s i wid fid w f) (a : Active i w f)
    (full : Bool) (eff : State → Issue → State) :
    issue i full eff s = .next (settleIfRetired w.alive (eff s (mkIssue i wid fid w f)) wid) := by
  obtain ⟨hf, hw, hc⟩ := h
  have ha : (mkIssue i wid fid w f).act ≠ 0 := a
  simp only [issue, hf, hw, Issue.run_clear hc, ha, decide_false, Bool.false_and, Bool.false_eq_true, if_false]

/-- An instruction of the eight that take their effect with no active lane too (R14). -/
theorem issue_full {s : State} {i : Instr} {wid fid : Nat} {w : Warp} {f : Frag} (h : Executes s i wid fid w f) (eff : State → Issue → State) :
    issue i true eff s = .next (settleIfRetired w.alive (eff s (mkIssue i wid fid w f)) wid) := by
  obtain ⟨hf, hw, hc⟩ := h
  simp [issue, hf, hw, Issue.run_clear hc]

/-- With no active lane any other instruction only goes on, a producing one with its latch (R14, R26). -/
theorem issue_inactive {s : State} {i : Instr} {wid fid : Nat} {w : Warp} {f : Frag} (h : Executes s i wid fid w f) (a : ¬ Active i w f)
    (eff : State → Issue → State) :
    issue i false eff s = .next (settleIfRetired w.alive ((mkIssue i wid fid w f).idle s) wid) := by
  obtain ⟨hf, hw, hc⟩ := h
  have ha : (mkIssue i wid fid w f).act = 0 := Classical.byContradiction a
  simp [issue, hf, hw, Issue.run_clear hc, ha]

/-! ## Settling -/

/-- Nothing settles while the warp keeps its alive mask. -/
theorem settleIfRetired_same {s : State} {wid : Nat} {w : Warp} (h : Tbl.find s.warps wid = some w) (was : LaneMask) (e : w.alive = was) :
    settleIfRetired was s wid = s := by
  simp [settleIfRetired, h, e]

theorem alive_of_sregs {w w' : Warp} (h : ∀ n, n < 3 → w'.sreg n = w.sreg n) : w'.alive = w.alive := by
  simp [Warp.alive, Warp.triple, h 0 (by omega), h 1 (by omega), h 2 (by omega)]

@[simp] theorem alive_frags (w : Warp) (t : Tbl Frag) : ({ w with frags := t } : Warp).alive = w.alive := rfl

/-! ## Completing -/

/-- Completing with a changed warp whose fragments are as they were. -/
theorem Issue.finish_eq {s : State} {i : Instr} {wid fid : Nat} {w : Warp} {f : Frag} (h : findFrag s wid fid = some (w, f)) (w' : Warp)
    (e : w'.frags = w.frags) : (mkIssue i wid fid w f).finish s w' = goesOn s i wid fid w' f := by
  have := findFrag_frag h
  rw [← e] at this
  simp only [Issue.finish, Issue.done, Issue.goto, mkIssue]
  rw [modFrag_putWarp s wid fid w' this]
  rfl

theorem Issue.done_eq {s : State} {i : Instr} {wid fid : Nat} {w : Warp} {f : Frag} (h : findFrag s wid fid = some (w, f)) :
    (mkIssue i wid fid w f).done s = goesOn s i wid fid w f := by
  simp [Issue.done, Issue.goto, mkIssue, modFrag_of h, goesOn, afterPc, Issue.nextPc]

/-- An instruction whose effect is to complete with a changed warp that is as alive as before. -/
theorem issue_finish {s : State} {i : Instr} {wid fid : Nat} {w : Warp} {f : Frag} (h : Executes s i wid fid w f) (a : Active i w f)
    (full : Bool) {eff : State → Issue → State} {w' : Warp} (e : w'.frags = w.frags) (al : w'.alive = w.alive)
    (he : eff s (mkIssue i wid fid w f) = (mkIssue i wid fid w f).finish s w') :
    issue i full eff s = .next (goesOn s i wid fid w' f) := by
  rw [issue_active h a, he, Issue.finish_eq h.2.1 w' e]
  rw [settleIfRetired_same (w := { w' with frags := Tbl.put w'.frags fid (f.retire i (afterPc i f) false) }) (by simp [goesOn]) w.alive (by simp [al])]

/-- An instruction whose effect is to complete with a changed warp, whatever becomes of the alive mask. -/
theorem completes_finish {s : State} {i : Instr} {wid fid : Nat} {w : Warp} {f : Frag} (h : Executes s i wid fid w f) (a : Active i w f)
    (full : Bool) {eff : State → Issue → State} {w' : Warp} (e : w'.frags = w.frags) (hi : Machine.exec i s = issue i full eff s)
    (he : eff s (mkIssue i wid fid w f) = (mkIssue i wid fid w f).finish s w') : Completes s i wid fid w f w' := by
  rw [Completes, hi, issue_active h a, he, Issue.finish_eq h.2.1 w' e]

/-- An instruction whose effect is only to complete. -/
theorem completes_done {s : State} {i : Instr} {wid fid : Nat} {w : Warp} {f : Frag} (h : Executes s i wid fid w f) (a : Active i w f)
    (full : Bool) {eff : State → Issue → State} (hi : Machine.exec i s = issue i full eff s)
    (he : eff s (mkIssue i wid fid w f) = (mkIssue i wid fid w f).done s) : Completes s i wid fid w f w := by
  rw [Completes, hi, issue_active h a, he, Issue.done_eq h.2.1]

/-- An instruction that takes an exception in place of its effect. -/
theorem faults_trap {s : State} {i : Instr} {wid fid : Nat} {w : Warp} {f : Frag} (h : Executes s i wid fid w f) (a : Active i w f)
    (full : Bool) {eff : State → Issue → State} {c : Cause} {sub : Nat} {info : Tbl Word} {fa : DWord}
    (hi : Machine.exec i s = issue i full eff s)
    (he : eff s (mkIssue i wid fid w f) = takeTrap s wid fid i c sub (w.act f i.guard) info fa false) :
    Faults s i wid fid w f c sub info fa := by
  rw [Faults, hi, issue_active h a, he]

/-- A transfer to a good target with a changed warp. -/
theorem transfers_to {s : State} {i : Instr} {wid fid : Nat} {w : Warp} {f : Frag} (h : Executes s i wid fid w f) (a : Active i w f)
    (full : Bool) {eff : State → Issue → State} {w' : Warp} {pc : DWord} (e : w'.frags = w.frags) (hi : Machine.exec i s = issue i full eff s)
    (he : eff s (mkIssue i wid fid w f) = (mkIssue i wid fid w f).goto (putWarp s wid w') pc true) :
    Transfers s i wid fid w f w' pc := by
  have := findFrag_frag h.2.1
  rw [← e] at this
  rw [Transfers, hi, issue_active h a, he, Issue.goto]
  simp only [mkIssue]
  rw [modFrag_putWarp s wid fid w' this]

/-- A transfer to a good target. -/
theorem transfers_goto {s : State} {i : Instr} {wid fid : Nat} {w : Warp} {f : Frag} (h : Executes s i wid fid w f) (a : Active i w f)
    (full : Bool) {eff : State → Issue → State} {pc : DWord} (hi : Machine.exec i s = issue i full eff s)
    (he : eff s (mkIssue i wid fid w f) = (mkIssue i wid fid w f).goto s pc true) :
    Transfers s i wid fid w f w pc := by
  rw [Transfers, hi, issue_active h a, he, Issue.goto, mkIssue, modFrag_of h.2.1]

/-! ## Registers -/

theorem Machine.Warp.sreg_setSreg (w : Warp) (lanes : LaneMask) (n k : Nat) (v : Word) :
    (w.setSreg lanes n v).sreg k = if k = n then (if n < 3 then w.sreg n &&& (v ||| ~~~(maskWord lanes n)) else v) else w.sreg k := by
  simp only [Warp.setSreg, Warp.sreg, Tbl.read_write]

@[simp] theorem Machine.Warp.setSreg_frags (w : Warp) (lanes : LaneMask) (n : Nat) (v : Word) : (w.setSreg lanes n v).frags = w.frags := rfl

@[simp] theorem Machine.Warp.setSpair_frags (w : Warp) (lanes : LaneMask) (n : Nat) (v : DWord) : (w.setSpair lanes n v).frags = w.frags := rfl

@[simp] theorem Machine.Warp.setSval_frags (w : Warp) (lanes : LaneMask) (b : Bool) (n : Nat) (v : DWord) :
    (w.setSval lanes b n v).frags = w.frags := by
  cases b <;> rfl

@[simp] theorem Machine.Warp.setTriple_frags (w : Warp) (lanes : LaneMask) (n : Nat) (v : LaneMask) : (w.setTriple lanes n v).frags = w.frags := rfl

theorem Machine.Warp.alive_setSreg (w : Warp) (lanes : LaneMask) (n : Nat) (v : Word) (h : 3 ≤ n) : (w.setSreg lanes n v).alive = w.alive := by
  refine alive_of_sregs fun k hk => ?_
  rw [Warp.sreg_setSreg, if_neg (by omega)]

theorem Machine.Warp.alive_setSval (w : Warp) (lanes : LaneMask) (b : Bool) (n : Nat) (v : DWord) (h : 3 ≤ n) :
    (w.setSval lanes b n v).alive = w.alive := by
  cases b
  · exact w.alive_setSreg lanes n _ h
  · exact ((w.setSreg lanes n _).alive_setSreg lanes (n + 1) _ (by omega)).trans (w.alive_setSreg lanes n _ h)

theorem Machine.Warp.alive_setTriple (w : Warp) (lanes : LaneMask) (k : Nat) (m : LaneMask) (h : 1 ≤ k) :
    (w.setTriple lanes k m).alive = w.alive := by
  unfold Warp.setTriple
  rw [Warp.alive_setSreg _ _ _ _ (by omega), Warp.alive_setSreg _ _ _ _ (by omega), Warp.alive_setSreg _ _ _ _ (by omega)]

@[simp] theorem Machine.Warp.setV_frags (w : Warp) (r l : Nat) (v : Word) : (w.setV r l v).frags = w.frags := rfl
@[simp] theorem Machine.Warp.setV_sregs (w : Warp) (r l : Nat) (v : Word) : (w.setV r l v).sregs = w.sregs := rfl
@[simp] theorem Machine.Warp.setVval_frags (w : Warp) (b : Bool) (r l : Nat) (v : DWord) : (w.setVval b r l v).frags = w.frags := by
  cases b <;> rfl
@[simp] theorem Machine.Warp.setVval_sregs (w : Warp) (b : Bool) (r l : Nat) (v : DWord) : (w.setVval b r l v).sregs = w.sregs := by
  cases b <;> rfl

@[simp] theorem Machine.Warp.setVlanes_frags (rs : List (Nat × DWord)) : ∀ (w : Warp) (b : Bool) (r : Nat), (w.setVlanes b r rs).frags = w.frags := by
  induction rs with
  | nil => intro w b r; rfl
  | cons p rs ih => intro w b r; simp [Warp.setVlanes, ih]

@[simp] theorem Machine.Warp.setVlanes_sregs (rs : List (Nat × DWord)) : ∀ (w : Warp) (b : Bool) (r : Nat), (w.setVlanes b r rs).sregs = w.sregs := by
  induction rs with
  | nil => intro w b r; rfl
  | cons p rs ih => intro w b r; simp [Warp.setVlanes, ih]

theorem alive_sregs {w w' : Warp} (h : w'.sregs = w.sregs) : w'.alive = w.alive := by
  simp [Warp.alive, Warp.triple, Warp.sreg, h]

end Sys2Proof
end

