-- ==== Sys2Proof/Laws/Memory.lean ====
section
/-! SUPPORT. The operations that write memory keep it in canonical form, and the other shared operations leave it as it was. -/

namespace Sys2Proof

open Machine

/-! ## States with the same memories -/

theorem Machine.State.MemOk.of_same {s t : State} (h : s.MemOk) (h1 : t.hbm = s.hbm) (h2 : t.wstore = s.wstore) (h3 : t.host = s.host)
    (h4 : t.sram = s.sram) (h5 : t.secMem = s.secMem) (h6 : t.wgs = s.wgs) : t.MemOk := by
  simpa only [State.MemOk, h1, h2, h3, h4, h5, h6] using h

/-- What every step of a fold keeps, the fold keeps. -/
theorem foldl_keeps {α β : Type} {p : α → Prop} {f : α → β → α} (k : ∀ a b, p a → p (f a b)) : ∀ (l : List β) (a : α), p a → p (l.foldl f a)
  | [], _, h => h
  | b :: l, a, h => foldl_keeps k l _ (k a b h)

/-! ## Workgroups -/

theorem Tbl.mem_put {α : Type} (k : Nat) (v : α) : ∀ {t : Tbl α} {p : Nat × α}, p ∈ Tbl.put t k v → p = (k, v) ∨ p ∈ t
  | [], p, h => by simp [Tbl.put] at h; exact .inl h
  | (j, a) :: t, p, h => by
    unfold Tbl.put at h
    split at h
    · rcases List.mem_cons.mp h with e | h
      · exact .inl e
      · exact .inr h
    · split at h
      · rcases List.mem_cons.mp h with e | h
        · exact .inl e
        · exact .inr (List.mem_cons_of_mem _ h)
      · rcases List.mem_cons.mp h with e | h
        · exact .inr (e ▸ List.mem_cons_self)
        · rcases Tbl.mem_put k v h with e | h
          · exact .inl e
          · exact .inr (List.mem_cons_of_mem _ h)

theorem Tbl.mem_of_find {α : Type} : ∀ {t : Tbl α} {k : Nat} {v : α}, Tbl.find t k = some v → (k, v) ∈ t
  | (j, a) :: t, k, v, h => by
    unfold Tbl.find at h
    split at h
    · next e => obtain rfl := Option.some.inj h; exact e ▸ List.mem_cons_self
    · exact List.mem_cons_of_mem _ (Tbl.mem_of_find h)

/-- A workgroup put back with a canonical scratchpad. -/
theorem Machine.State.MemOk.put_wg {s : State} (h : s.MemOk) (k : Nat) {g : Wg} (hg : Memory.wf g.scratch = true) :
    ({ s with wgs := Tbl.put s.wgs k g } : State).MemOk := by
  obtain ⟨h1, h2, h3, h4, h5, h6⟩ := h
  refine ⟨h1, h2, h3, h4, h5, fun p hp => ?_⟩
  rcases Tbl.mem_put k g hp with e | hp
  · exact e ▸ hg
  · exact h6 p hp

/-- A change of a workgroup that keeps its scratchpad canonical. -/
theorem Machine.State.MemOk.modWg {s : State} (h : s.MemOk) (k : Nat) {g : Wg → Wg} (hg : ∀ x, Memory.wf x.scratch = true → Memory.wf (g x).scratch = true) :
    (modWg s k g).MemOk := by
  unfold Sys2Proof.modWg Tbl.modify
  cases e : Tbl.find s.wgs k with
  | none => exact h
  | some x => exact h.put_wg k (hg x (h.2.2.2.2.2 _ (Tbl.mem_of_find e)))

/-- A change of a workgroup that leaves its scratchpad alone. -/
theorem Machine.State.MemOk.modWg_same {s : State} (h : s.MemOk) (k : Nat) {g : Wg → Wg} (hg : ∀ x, (g x).scratch = x.scratch) : (Sys2Proof.modWg s k g).MemOk :=
  h.modWg k fun x hx => (hg x).symm ▸ hx

/-! ## Operations that leave memory alone -/

section
variable {s : State} (h : s.MemOk)
include h

theorem Machine.State.MemOk.putWarp (k : Nat) (w : Warp) : (putWarp s k w).MemOk := h.of_same rfl rfl rfl rfl rfl rfl
theorem Machine.State.MemOk.modWarp (k : Nat) (g : Warp → Warp) : (modWarp s k g).MemOk := h.of_same rfl rfl rfl rfl rfl rfl
theorem Machine.State.MemOk.modFrag (k f : Nat) (g : Frag → Frag) : (modFrag s k f g).MemOk := h.of_same rfl rfl rfl rfl rfl rfl
theorem Machine.State.MemOk.modCtx (k : Nat) (g : Ctx → Ctx) : (modCtx s k g).MemOk := h.of_same rfl rfl rfl rfl rfl rfl
theorem Machine.State.MemOk.modLaunch (k : Nat) (g : Launch → Launch) : (modLaunch s k g).MemOk := h.of_same rfl rfl rfl rfl rfl rfl
theorem Machine.State.MemOk.modBoard (g : Machine.Board → Machine.Board) : (modBoard s g).MemOk := h.of_same rfl rfl rfl rfl rfl rfl
theorem Machine.State.MemOk.modNet (g : Net → Net) : (modNet s g).MemOk := h.of_same rfl rfl rfl rfl rfl rfl
theorem Machine.State.MemOk.fresh : (fresh s).2.MemOk := h.of_same rfl rfl rfl rfl rfl rfl
theorem Machine.State.MemOk.noteKeys (ks : List Nat) : (noteKeys s ks).MemOk := h.of_same rfl rfl rfl rfl rfl rfl
theorem Machine.State.MemOk.noteOld (l : Loc) (n : Nat) : (noteOld s l n).MemOk := h.noteKeys _
theorem Machine.State.MemOk.wakeTokens (k : Nat) : (wakeTokens s k).MemOk := h.of_same rfl rfl rfl rfl rfl rfl
theorem Machine.State.MemOk.setSig (b : Nat) : (setSig s b).MemOk := h.of_same rfl rfl rfl rfl rfl rfl
theorem Machine.State.MemOk.raiseVec (v : Nat) : (raiseVec s v).MemOk := h.of_same rfl rfl rfl rfl rfl rfl
theorem Machine.State.MemOk.wakeHcrr (c : Nat) : (wakeHcrr s c).MemOk := h.of_same rfl rfl rfl rfl rfl rfl

theorem Machine.State.MemOk.logVec (was now : EvLog) : (logVec s was now).MemOk := by
  unfold Sys2Proof.logVec
  split
  · exact h.raiseVec 16
  · exact h

theorem Machine.State.MemOk.devEvent (e : Event) : (devEvent s e).MemOk := (h.modBoard _).logVec _ _

theorem Machine.State.MemOk.ctxEvent (c : Nat) (e : Event) : (ctxEvent s c e).MemOk := by
  unfold Sys2Proof.ctxEvent
  cases Tbl.find s.ctxs c with
  | none => exact h
  | some x =>
    refine State.MemOk.logVec ?_ _ _
    exact h.of_same rfl rfl rfl rfl rfl rfl

theorem Machine.State.MemOk.holdLines (wg : Nat) (ls : List Nat) : (holdLines s wg ls).MemOk := h.modWg_same wg fun _ => rfl
theorem Machine.State.MemOk.freeLines (wg : Nat) (ls : List Nat) : (freeLines s wg ls).MemOk := h.modWg_same wg fun _ => rfl

theorem Machine.State.MemOk.dropHold (wid fid : Nat) : (dropHold s wid fid).MemOk := by
  unfold Sys2Proof.dropHold
  split
  · exact h.of_same rfl rfl rfl rfl rfl rfl
  · exact h

theorem Machine.State.MemOk.enqueue (w : Warp) (wid fid : Nat) (c : Cause) : (enqueue s w wid fid c).MemOk := by
  unfold Sys2Proof.enqueue
  cases Tbl.find s.ctxs w.ctx with
  | none => exact h
  | some x =>
    dsimp only
    split
    · exact (h.modCtx _ _).wakeHcrr _
    · split
      · exact h.ctxEvent _ _
      · exact h

theorem Machine.State.MemOk.deliver (w : Warp) (wid fid : Nat) (p : ParkRec) : (deliver s w wid fid p).MemOk := by
  unfold Sys2Proof.deliver
  dsimp only
  split
  · exact (h.modCtx _ _).setSig 2
  · exact h.enqueue w wid fid _

end

/-! ## Operations that write memory -/

theorem wf_clearSigs : ∀ (met : List (Nat × Nat × Word × List Nat)) {m : Memory}, Memory.wf m = true → Memory.wf (clearSigs m met) = true
  | [], _, h => h
  | (_, q, crc, _) :: t, m, h => by
    unfold clearSigs
    refine wf_clearSigs t ?_
    split
    · exact Memory.wf_store _ _ h
    · exact h

theorem Machine.State.MemOk.putHbm {s : State} (h : s.MemOk) (pa : Nat) (bs : List Byte) : (putHbm s pa bs).MemOk := by
  obtain ⟨h1, h2⟩ := h
  unfold Sys2Proof.putHbm
  dsimp only
  split
  · exact ⟨Memory.wf_stores bs pa h1, h2⟩
  · exact ⟨wf_clearSigs _ (Memory.wf_stores bs pa h1), h2⟩

theorem Machine.State.MemOk.storeHbm {s : State} (h : s.MemOk) (pa : Nat) (bs : List Byte) : (storeHbm s pa bs).MemOk :=
  (h.noteOld _ _).putHbm pa bs

theorem Machine.State.MemOk.putLoc {s : State} (h : s.MemOk) (l : Loc) (bs : List Byte) : (putLoc s l bs).MemOk := by
  cases l with
  | hbm pa => exact h.putHbm pa bs
  | scratch g o => exact h.modWg g fun x hx => Memory.wf_stores bs o hx
  | weights o => exact ⟨h.1, Memory.wf_stores bs o h.2.1, h.2.2⟩
  | host a => exact ⟨h.1, h.2.1, Memory.wf_stores bs a h.2.2.1, h.2.2.2⟩
  | peer d o => exact h

theorem Machine.State.MemOk.writeLoc {s : State} (h : s.MemOk) (l : Loc) (bs : List Byte) : (writeLoc s l bs).MemOk :=
  (h.noteOld l _).putLoc l bs

theorem Machine.State.MemOk.putLocs : ∀ (ls : List Loc) (bs : List Byte) {s : State}, s.MemOk → (putLocs s ls bs).MemOk
  | [], _, _, h => h
  | _ :: _, [], _, h => h
  | l :: ls, b :: bs, _, h => State.MemOk.putLocs ls bs (h.putLoc l [b])

theorem Machine.State.MemOk.writeLocs (ls : List Loc) (bs : List Byte) {s : State} (h : s.MemOk) : (writeLocs s ls bs).MemOk :=
  State.MemOk.putLocs ls bs (h.noteKeys _)

theorem Machine.State.MemOk.writeVirt {s t : State} (h : s.MemOk) {who : Who} {a : DWord} {bs : List Byte} (e : writeVirt s who a bs = .ok t) : t.MemOk := by
  unfold Sys2Proof.writeVirt at e
  cases r : storeLocs s who a bs.length with
  | error x => rw [r] at e; cases e
  | ok ls =>
    rw [r] at e
    obtain rfl := Except.ok.inj e
    exact State.MemOk.writeLocs ls bs h

theorem Machine.State.MemOk.writeFrames {s : State} (h : s.MemOk) (w : Warp) (fid : Nat) (f : Frag) (p : ParkRec) :
    ∀ (k : Nat) {t : State}, writeFrames s w fid f p k = .ok t → t.MemOk
  | 0, _, e => Except.ok.inj e ▸ h
  | k + 1, t, e => by
    unfold Sys2Proof.writeFrames at e
    cases r : Sys2Proof.writeFrames s w fid f p k with
    | error x => rw [r] at e; cases e
    | ok u => rw [r] at e; exact (State.MemOk.writeFrames h w fid f p k r).writeVirt e

theorem Machine.State.MemOk.parkWith {s : State} (h : s.MemOk) (wid fid : Nat) (p : ParkRec) (base : DWord) : (parkWith s wid fid p base).MemOk := by
  unfold Sys2Proof.parkWith
  dsimp only
  split
  · exact (h.dropHold _ _).modFrag _ _ _
  · split
    · next e => exact (((h.dropHold _ _).modFrag _ _ _).writeFrames _ _ _ _ _ e).deliver _ _ _ _
    · exact (((h.dropHold _ _).modFrag _ _ _).modCtx _ _).setSig 2

/-- Taking an exception keeps every memory canonical. -/
theorem Machine.State.MemOk.tryPark {s t : State} (h : s.MemOk) {wid fid : Nat} {p : ParkRec} (e : tryPark s wid fid p = some t) : t.MemOk := by
  unfold Sys2Proof.tryPark at e
  split at e
  · cases e
  · dsimp only at e
    split at e
    · cases e
    · split at e
      · cases e
      · obtain rfl := Option.some.inj e
        refine State.MemOk.parkWith ?_ _ _ _ _
        exact h.of_same rfl rfl rfl rfl rfl rfl

/-- The memories after reset are canonical: nothing is listed. -/
theorem reset_memories : State.reset.hbm = [] ∧ State.reset.wstore = [] ∧ State.reset.host = [] ∧ State.reset.sram = [] ∧
    State.reset.secMem = [] ∧ State.reset.wgs = [] :=
  ⟨rfl, rfl, rfl, rfl, rfl, rfl⟩

end Sys2Proof
end

