-- ==== Sys2Proof/Tests/Start.lean ====
section
/-! SUPPORT. Small states for the tests and witnesses, and what it takes to meet the premises that the statements share. -/

namespace Sys2Proof.Tests

set_option Elab.async false

open Machine

/-- After reset, one warp of level U with all 96 lanes active, its only fragment in focus; a context maps the first gigabyte onto itself. -/
def start : State := { placeCode State.reset 32 0 with focus := some (.frag 0 0), turns := [] }

/-- As `start`, with a handler warp. -/
def startH : State := { placeCode State.reset 32 (0xE0 * 2 ^ 21) with focus := some (.frag 0 0), turns := [] }

def withWarp (s : State) (g : Warp → Warp) : State := { s with warps := s.warps.map fun p => (p.1, g p.2) }

def withF (s : State) (g : Frag → Frag) : State := withWarp s fun w => { w with frags := w.frags.map fun p => (p.1, g p.2) }

/-- Scalar registers from number 3 on, in place of those there. -/
def withS (s : State) (rs : List (Nat × Word)) : State := withWarp s fun w => { w with sregs := (w.sregs.filter fun p => p.1 < 3) ++ rs }

/-- One vector register word of each lane. -/
def lanesWith (r : Nat) (g : Nat → Nat) : Tbl Word := (List.range 96).filterMap fun l =>
  if g l = 0 then none else some (vkey r l, BitVec.ofNat 32 (g l))

/-- The lanes that a short triple names. -/
def guardAt (k : Nat) (s : State) (m : Nat) : State := withWarp s fun w => { w with sregs := Tbl.write 0 w.sregs k (BitVec.ofNat 32 m) }

/-- Whether nothing that R13 to R36 check stands in the way of `i` at the fragment in focus, and `p` holds there. -/
def runs (i : Instr) (s : State) (p : Nat → Nat → Warp → Frag → Bool) : Bool :=
  match s.focus with
  | some (.frag wid fid) =>
    (match findFrag s wid fid with
     | some (w, f) =>
       let x := mkIssue i wid fid w f
       f.hidden.isEmpty && (!isHandlerOpc i.opc || decide (w.level = .h)) && (!isMainOnly i.opc || !w.ctl) && !x.badLatch && !x.badNw &&
       !x.regHigh && !x.pending && !x.behindWalks s && decide (x.rowError x.act (x.i.vSrc ++ x.vDst) = none) && p wid fid w f
     | none => false)
  | _ => false

/-- Some state and fragment meet the premises of a statement about `i`, and `p` there. -/
def Meets (i : Instr) (p : State → Nat → Nat → Warp → Frag → Prop) : Prop :=
  ∃ s wid fid w f, Executes s i wid fid w f ∧ p s wid fid w f

theorem Meets.at {i : Instr} {p : State → Nat → Nat → Warp → Frag → Prop} (s : State) (b : Nat → Nat → Warp → Frag → Bool)
    (h : runs i s b = true) (hp : ∀ wid fid w f, b wid fid w f = true → p s wid fid w f) : Meets i p := by
  unfold runs at h
  split at h
  next wid fid e =>
    split at h
    next w f e' =>
      simp only [Bool.and_eq_true, Bool.or_eq_true, Bool.not_eq_true', decide_eq_true_eq] at h
      obtain ⟨⟨⟨⟨⟨⟨⟨⟨⟨n, a⟩, b'⟩, c⟩, d⟩, g⟩, k⟩, o⟩, l⟩, m⟩ := h
      refine ⟨s, wid, fid, w, f, ⟨e, e', List.isEmpty_iff.mp n, ?_, ?_, c, d, g, k, o, l⟩, hp _ _ _ _ m⟩
      · intro q
        rcases a with a | a
        · exact absurd (show isHandlerOpc i.opc = true from q) (by rw [a]; decide)
        · exact a
      · intro q
        rcases b' with b' | b'
        · exact absurd (show isMainOnly i.opc = true from q) (by rw [b']; decide)
        · exact b'
    next => exact absurd h (by decide)
  next => exact absurd h (by decide)

/-- A decidable premise, met at a state that is evaluated. -/
theorem Meets.here {i : Instr} {p : State → Nat → Nat → Warp → Frag → Prop} (s : State) [∀ wid fid w f, Decidable (p s wid fid w f)]
    (h : runs i s (fun wid fid w f => decide (p s wid fid w f)) = true) : Meets i p :=
  Meets.at s _ h fun _ _ _ _ m => of_decide_eq_true m

/-- Some state has a fragment in focus, and `p` holds there. -/
def AtFocus (p : State → Nat → Nat → Warp → Frag → Prop) : Prop :=
  ∃ s wid fid w f, s.focus = some (.frag wid fid) ∧ findFrag s wid fid = some (w, f) ∧ p s wid fid w f

theorem AtFocus.here {p : State → Nat → Nat → Warp → Frag → Prop} (s : State) [∀ wid fid w f, Decidable (p s wid fid w f)]
    (h : (match s.focus with
      | some (.frag wid fid) => (match findFrag s wid fid with
        | some (w, f) => decide (p s wid fid w f)
        | none => false)
      | _ => false) = true) : AtFocus p := by
  split at h
  next wid fid e =>
    split at h
    next w f e' => exact ⟨s, wid, fid, w, f, e, e', of_decide_eq_true h⟩
    next => exact absurd h (by decide)
  next => exact absurd h (by decide)

/-- An instruction about to execute with some lane active. -/
def Starts (i : Instr) : Prop := Meets i fun _ _ _ w f => Active i w f

theorem Starts.all {is : List Instr} (s : State) (h : is.all (fun i => runs i s fun _ _ w f => decide (w.act f i.guard ≠ 0)) = true) :
    ∀ i ∈ is, Starts i := fun i m =>
  Meets.at s _ (List.all_eq_true.mp h i m) fun _ _ _ _ a => by simpa using a

/-- A fragment of a state, with what holds of it. -/
theorem found (s : State) (wid fid : Nat) (b : Warp → Frag → Bool)
    (h : (match findFrag s wid fid with | some (w, f) => b w f | none => false) = true) : ∃ w f, findFrag s wid fid = some (w, f) ∧ b w f = true := by
  split at h
  next w f e => exact ⟨w, f, e, h⟩
  next => exact absurd h (by decide)

/-- There is one, and `p` holds of it. -/
def has {α : Type} (o : Option α) (p : α → Bool) : Bool := match o with
  | some a => p a
  | none => false

/-- The state an instruction leaves. -/
def after (i : Instr) (s : State) : State := match Machine.exec i s with
  | .next t => t
  | _ => s

/-- The words of an instruction at its PC. -/
def coded (i : Instr) (s : State) : State :=
  { s with hbm := i.encode.zipIdx.foldl (fun m p => Memory.setLe m (0x10000 + 4 * p.2) 4 p.1.toNat) s.hbm }

/-- The operands of an event. -/
def event (a b : Nat) (s : State) : State := { s with ev := { s.ev with a := a, b := b } }

/-! Instructions of each format with plain operands. -/

def c0 : CFmt := { lk := false, imm := 0 }
def cx0 : CXFmt := { lk := false, imm := 0, cond := .mask 0, neg := false, lp := 10 }
/-- D = s20 (or s20:21), A = s10, B = s12. -/
def s0 : SFmt := { lk := false, ty := .s32, d := 20, z := 0, src := .regs 10 12 0 }
def v0 : VFmt :=
  { lk := false, ty := .s32, sat := false, rc := .mode, guard := none, nw := false, d := 8, a := .vreg 2, x := 0, b := .vreg 4, c := .vreg 6, y := 0 }
def vm0 : VMFmt :=
  { lk := false, ty := .s32, cpol := 0, guard := none, d := 8, a := .vreg 0, te := false, sc := 0, k := 0, sb := 10, c := .vreg 2, imm8 := 0 }

end Sys2Proof.Tests
end

