-- ==== Sys2Proof/Tests/Slice0.lean ====
section
/-! SUPPORT. Tests of the decoder, the field checks and single steps. Every expected value stands in the spec or is computed from its tables by
hand; the comment of a test names where. -/

namespace Sys2Proof.Tests

set_option Elab.async false

open Machine

/-! ## Words of every instruction

A word of each constructor, put together from the opcode map (Table 04.9), the formats (Tables 04.1 to 04.8) and the fields of the
instruction's own entry. Each operand has a value of its own. -/

/-- Operands of the formats, with LK, SAT, RC, GE and NW zero. -/
def cw (imm : BitVec 16) : CFmt := { lk := false, imm := imm }
def xw (imm : BitVec 16) (cond : Cond) (neg : Bool) (lp : BitVec 9) : CXFmt := { lk := false, imm := imm, cond := cond, neg := neg, lp := lp }
def sw (ty : STy) (d : BitVec 9) (z : BitVec 3) (src : SSrc) : SFmt := { lk := false, ty := ty, d := d, z := z, src := src }
def vw (ty : VTy) (d : BitVec 11) (a : Sel) (x : BitVec 8) (b c : Sel) (y : BitVec 8) : VFmt :=
  { lk := false, ty := ty, sat := false, rc := .mode, guard := none, nw := false, d := d, a := a, x := x, b := b, c := c, y := y }
def mw (ty : VTy) (cpol : BitVec 2) (d : BitVec 11) (a : Sel) (te : Bool) (sc : BitVec 3) (k : BitVec 4) (sb : BitVec 9) (c : Sel) (imm8 : BitVec 8) : VMFmt :=
  { lk := false, ty := ty, cpol := cpol, guard := none, d := d, a := a, te := te, sc := sc, k := k, sb := sb, c := c, imm8 := imm8 }
/-- The granules decode to the instruction, which encodes to them. -/
def reads (p : Word × Word × Word × Instr) : Bool := (match decodeGranules p.1 p.2.1 p.2.2.1 with
  | .ok i => decide (i = p.2.2.2)
  | .error _ => false) && decide (p.2.2.2.encode = [p.1, p.2.1, p.2.2.1].take (granulesOf p.1))

theorem test_words_control : ([
  (0x00000000, 0x00000000, 0x00000000, .nop (cw 0)), (0x00010000, 0x00000000, 0x00000000, .land (cw 0)),
  (0x00020000, 0x00000000, 0x00000000, .exit (cw 0)), (0x00030000, 0x00000000, 0x00000000, .yield (cw 0)),
  (0x00810000, 0x00000000, 0x00000000, .endif (cw 0)), (0x00C00000, 0x00000000, 0x00000000, .rejoin (cw 0)),
  (0x0004ABCD, 0x00000000, 0x00000000, .brk (cw 43981)), (0x00050007, 0x00000000, 0x00000000, .trap (cw 7)),
  (0x0020FFF0, 0x00000000, 0x00000000, .br (cw 65520)), (0x00800005, 0x00000000, 0x00000000, .els (cw 5)),
  (0x00A00009, 0x00000000, 0x00000000, .loop (cw 9)), (0x00A1FFF2, 0x00000000, 0x00000000, .endloop (cw 65522)),
  (0x00A20003, 0x00000000, 0x00000000, .brkLoop (cw 3)), (0x00A30002, 0x00000000, 0x00000000, .cont (cw 2)),
  (0x0120000E, 0x00000000, 0x00000000, .wait (cw 14)), (0x0E400003, 0x00000000, 0x00000000, .bar (cw 3)),
  (0x0E41000F, 0x00000000, 0x00000000, .barcl (cw 15)), (0x40400008, 0x80AC0000, 0x00000000, .brc (xw 8 (.scal 21) true 0)),
  (0x40410008, 0x00280000, 0x00000000, .brany (xw 8 (.mask 5) false 0)), (0x40420009, 0x403C0000, 0x00000000, .brall (xw 9 (.vec 7) true 0)),
  (0x4060000C, 0x002C0000, 0x00000000, .iff (xw 12 (.mask 5) true 0)), (0x41000000, 0x40480000, 0x00000000, .jtab (xw 0 (.vec 9) false 0)),
  (0x41010000, 0x40485000, 0x00000000, .ctab (xw 0 (.vec 9) false 40)), (0x40E00288, 0x007FFFF7, 0x00000000, .call (sw .s32 40 0 (.imm 0 (-9)))),
  (0x40E10000, 0x14000000, 0x00000000, .ret (sw .s32 0 0 (.regs 40 0 0))),
  (0x40E20008, 0x00000011, 0x00000000, .jmp (sw .s32 0 0 (.imm 0 17)))] : List (Word × Word × Word × Instr)).all reads = true := by decide +kernel
theorem test_words_scalar : ([
  (0x42000140, 0x05030000, 0x00000000, .sadd (sw .s32 20 0 (.regs 10 12 0))),
  (0x42010140, 0x05030000, 0x00000000, .ssub (sw .s32 20 0 (.regs 10 12 0))),
  (0x42020140, 0x05030000, 0x00000000, .smul (sw .s32 20 0 (.regs 10 12 0))),
  (0x42030140, 0x05030000, 0x00000000, .smulh (sw .s32 20 0 (.regs 10 12 0))),
  (0x42040140, 0x05030000, 0x00000000, .sand (sw .s32 20 0 (.regs 10 12 0))),
  (0x42050140, 0x05030000, 0x00000000, .sor (sw .s32 20 0 (.regs 10 12 0))),
  (0x42060140, 0x05030000, 0x00000000, .sxor (sw .s32 20 0 (.regs 10 12 0))),
  (0x42070140, 0x05030000, 0x00000000, .sandn (sw .s32 20 0 (.regs 10 12 0))),
  (0x42080140, 0x05030000, 0x00000000, .sshl (sw .s32 20 0 (.regs 10 12 0))),
  (0x42090140, 0x05030000, 0x00000000, .sshr (sw .s32 20 0 (.regs 10 12 0))),
  (0x420A0140, 0x05030000, 0x00000000, .ssar (sw .s32 20 0 (.regs 10 12 0))),
  (0x420B0140, 0x05030000, 0x00000000, .smin (sw .s32 20 0 (.regs 10 12 0))),
  (0x420C0140, 0x05030000, 0x00000000, .smax (sw .s32 20 0 (.regs 10 12 0))),
  (0x420D0140, 0x05000000, 0x00000000, .spopc (sw .s32 20 0 (.regs 10 0 0))),
  (0x420E0140, 0x05000000, 0x00000000, .sclz (sw .s32 20 0 (.regs 10 0 0))),
  (0x420F0140, 0x05000000, 0x00000000, .sctz (sw .s32 20 0 (.regs 10 0 0))),
  (0x42120140, 0x05000000, 0x00000000, .sbrev (sw .s32 20 0 (.regs 10 0 0))),
  (0x42100140, 0x050001C5, 0x00000000, .sbfe (sw .s32 20 0 (.regs 10 0 453))),
  (0x42110140, 0x050301C5, 0x00000000, .sbfi (sw .s32 20 0 (.regs 10 12 453))),
  (0x42130140, 0x00030000, 0x00000000, .smov (sw .s32 20 0 (.regs 0 12 0))),
  (0x42140140, 0x0503001E, 0x00000000, .ssel (sw .s32 20 0 (.regs 10 12 30))),
  (0x42006148, 0x057FFFFD, 0x00000000, .sadd (sw .n64 20 0 (.imm 10 (-3)))),
  (0x42200140, 0x05030000, 0x00000000, .scmp .eq (sw .s32 20 0 (.regs 10 12 0))),
  (0x42210140, 0x05030000, 0x00000000, .scmp .ne (sw .s32 20 0 (.regs 10 12 0))),
  (0x42220140, 0x05030000, 0x00000000, .scmp .lt (sw .s32 20 0 (.regs 10 12 0))),
  (0x42230140, 0x05030000, 0x00000000, .scmp .le (sw .s32 20 0 (.regs 10 12 0))),
  (0x42240140, 0x05030000, 0x00000000, .scmp .gt (sw .s32 20 0 (.regs 10 12 0))),
  (0x42250140, 0x05030000, 0x00000000, .scmp .ge (sw .s32 20 0 (.regs 10 12 0))),
  (0x42408140, 0x05030000, 0x00000000, .sfadd (sw .f32 20 0 (.regs 10 12 0))),
  (0x42418140, 0x05030000, 0x00000000, .sfsub (sw .f32 20 0 (.regs 10 12 0))),
  (0x42428140, 0x05030000, 0x00000000, .sfmul (sw .f32 20 0 (.regs 10 12 0))),
  (0x42438140, 0x05030000, 0x00000000, .sffma (sw .f32 20 0 (.regs 10 12 0))),
  (0x42448140, 0x05030000, 0x00000000, .sfmin (sw .f32 20 0 (.regs 10 12 0))),
  (0x42458140, 0x05030000, 0x00000000, .sfmax (sw .f32 20 0 (.regs 10 12 0))),
  (0x42468141, 0x05000000, 0x00000000, .scvt (sw .f32 20 1 (.regs 10 0 0))),
  (0x42600148, 0x00000064, 0x00000000, .ldlit (sw .s32 20 0 (.imm 0 100)))] : List (Word × Word × Word × Instr)).all reads = true := by decide +kernel
theorem test_words_masks_and_control_registers : ([
  (0x42800050, 0x0301C000, 0x00000000, .mand (sw .s32 5 0 (.regs 6 7 0))), (0x42810050, 0x0301C000, 0x00000000, .mor (sw .s32 5 0 (.regs 6 7 0))),
  (0x42820050, 0x0301C000, 0x00000000, .mxor (sw .s32 5 0 (.regs 6 7 0))), (0x42830050, 0x0301C000, 0x00000000, .mandn (sw .s32 5 0 (.regs 6 7 0))),
  (0x42840050, 0x03000000, 0x00000000, .mnot (sw .s32 5 0 (.regs 6 0 0))), (0x42870050, 0x03000000, 0x00000000, .mmov (sw .s32 5 0 (.regs 6 0 0))),
  (0x42850140, 0x03000000, 0x00000000, .mpopc (sw .s32 20 0 (.regs 6 0 0))), (0x42860140, 0x03000000, 0x00000000, .mffs (sw .s32 20 0 (.regs 6 0 0))),
  (0x42880050, 0x00000000, 0x00000000, .mact (sw .s32 5 0 (.regs 0 0 0))), (0x42A00140, 0x00000003, 0x00000000, .pcrr (sw .s32 20 0 (.regs 0 0 3))),
  (0x42A10000, 0x05000000, 0x00000000, .pcrw (sw .s32 0 0 (.regs 10 0 0))), (0x42C00008, 0x00000002, 0x00000000, .vacq (sw .s32 0 0 (.imm 0 2))),
  (0x42C10000, 0x05000000, 0x00000000, .vrel (sw .s32 0 0 (.regs 10 0 0)))] : List (Word × Word × Word × Instr)).all reads = true := by decide +kernel
theorem test_words_vector : ([
  (0x88000000, 0x00800200, 0x00400000, .vadd (vw .s32 8 (.vreg 2) 0 (.vreg 4) (.vreg 0) 0)),
  (0x88010000, 0x00800200, 0x00400000, .vsub (vw .s32 8 (.vreg 2) 0 (.vreg 4) (.vreg 0) 0)),
  (0x88020000, 0x00800200, 0x00400000, .vmul (vw .s32 8 (.vreg 2) 0 (.vreg 4) (.vreg 0) 0)),
  (0x88030000, 0x00800200, 0x00400000, .vmulh (vw .s32 8 (.vreg 2) 0 (.vreg 4) (.vreg 0) 0)),
  (0x88060000, 0x00800200, 0x00400000, .vmin (vw .s32 8 (.vreg 2) 0 (.vreg 4) (.vreg 0) 0)),
  (0x88070000, 0x00800200, 0x00400000, .vmax (vw .s32 8 (.vreg 2) 0 (.vreg 4) (.vreg 0) 0)),
  (0x88040000, 0x00800200, 0x00400600, .vmad (vw .s32 8 (.vreg 2) 0 (.vreg 4) (.vreg 6) 0)),
  (0x88056000, 0x00800200, 0x802A1400, .vfma (vw .f32 8 (.vreg 2) 0 (.latch 2) (.sreg 20) 0)),
  (0x88080000, 0x00800200, 0x00000000, .vabs (vw .s32 8 (.vreg 2) 0 (.vreg 0) (.vreg 0) 0)),
  (0x88090000, 0x00800200, 0x00000000, .vneg (vw .s32 8 (.vreg 2) 0 (.vreg 0) (.vreg 0) 0)),
  (0x8820C000, 0x00800200, 0x00400000, .vand (vw .b32 8 (.vreg 2) 0 (.vreg 4) (.vreg 0) 0)),
  (0x8821C000, 0x00800200, 0x00400000, .vor (vw .b32 8 (.vreg 2) 0 (.vreg 4) (.vreg 0) 0)),
  (0x8822C000, 0x00800200, 0x00400000, .vxor (vw .b32 8 (.vreg 2) 0 (.vreg 4) (.vreg 0) 0)),
  (0x8823C000, 0x00800200, 0x00400000, .vandn (vw .b32 8 (.vreg 2) 0 (.vreg 4) (.vreg 0) 0)),
  (0x88251000, 0x00800200, 0x00400000, .vshl (vw .n32 8 (.vreg 2) 0 (.vreg 4) (.vreg 0) 0)),
  (0x88261000, 0x00800200, 0x00400000, .vshr (vw .n32 8 (.vreg 2) 0 (.vreg 4) (.vreg 0) 0)),
  (0x88271000, 0x00800200, 0x00400000, .vsar (vw .n32 8 (.vreg 2) 0 (.vreg 4) (.vreg 0) 0)),
  (0x8824C000, 0x00800200, 0x00000000, .vnot (vw .b32 8 (.vreg 2) 0 (.vreg 0) (.vreg 0) 0)),
  (0x8828C000, 0x008002CA, 0x00400600, .vlut3 (vw .b32 8 (.vreg 2) 202 (.vreg 4) (.vreg 6) 0)),
  (0x8829C000, 0x00800200, 0x00400600, .vfshl (vw .b32 8 (.vreg 2) 0 (.vreg 4) (.vreg 6) 0)),
  (0x882AC000, 0x00800200, 0x00400600, .vfshr (vw .b32 8 (.vreg 2) 0 (.vreg 4) (.vreg 6) 0)),
  (0x882B1000, 0x00800200, 0x00000000, .vpopc (vw .n32 8 (.vreg 2) 0 (.vreg 0) (.vreg 0) 0)),
  (0x882C1000, 0x00800200, 0x00000000, .vclz (vw .n32 8 (.vreg 2) 0 (.vreg 0) (.vreg 0) 0)),
  (0x882D1000, 0x00800200, 0x00000000, .vctz (vw .n32 8 (.vreg 2) 0 (.vreg 0) (.vreg 0) 0)),
  (0x88301000, 0x00800200, 0x00000000, .vbrev (vw .n32 8 (.vreg 2) 0 (.vreg 0) (.vreg 0) 0)),
  (0x882E1000, 0x00800200, 0x00400000, .vbfe (vw .n32 8 (.vreg 2) 0 (.vreg 4) (.vreg 0) 0)),
  (0x882F1000, 0x00800200, 0x00400600, .vbfi (vw .n32 8 (.vreg 2) 0 (.vreg 4) (.vreg 6) 0)),
  (0x88310000, 0x00800200, 0x00000000, .vmov (vw .s32 8 (.vreg 2) 0 (.vreg 0) (.vreg 0) 0)),
  (0x8832C000, 0x0080020C, 0x00400000, .vsel (vw .b32 8 (.vreg 2) 12 (.vreg 4) (.vreg 0) 0)),
  (0x88406000, 0x00500200, 0x00400000, .vcmp .eq (vw .f32 5 (.vreg 2) 0 (.vreg 4) (.vreg 0) 0)),
  (0x88416000, 0x00500200, 0x00400000, .vcmp .ne (vw .f32 5 (.vreg 2) 0 (.vreg 4) (.vreg 0) 0)),
  (0x88426000, 0x00500200, 0x00400000, .vcmp .lt (vw .f32 5 (.vreg 2) 0 (.vreg 4) (.vreg 0) 0)),
  (0x88436000, 0x00500200, 0x00400000, .vcmp .le (vw .f32 5 (.vreg 2) 0 (.vreg 4) (.vreg 0) 0)),
  (0x88446000, 0x00500200, 0x00400000, .vcmp .gt (vw .f32 5 (.vreg 2) 0 (.vreg 4) (.vreg 0) 0)),
  (0x88456000, 0x00500200, 0x00400000, .vcmp .ge (vw .f32 5 (.vreg 2) 0 (.vreg 4) (.vreg 0) 0)),
  (0x88466000, 0x00500200, 0x00400000, .vcmp .unord (vw .f32 5 (.vreg 2) 0 (.vreg 4) (.vreg 0) 0)),
  (0x88476000, 0x00500200, 0x00400000, .vcmp .ord (vw .f32 5 (.vreg 2) 0 (.vreg 4) (.vreg 0) 0)),
  (0x88606000, 0x00800200, 0x00000000, .vrcp (vw .f32 8 (.vreg 2) 0 (.vreg 0) (.vreg 0) 0)),
  (0x88616000, 0x00800200, 0x00000000, .vrsq (vw .f32 8 (.vreg 2) 0 (.vreg 0) (.vreg 0) 0)),
  (0x88626000, 0x00800200, 0x00000000, .vsqrt (vw .f32 8 (.vreg 2) 0 (.vreg 0) (.vreg 0) 0)),
  (0x88636000, 0x00800200, 0x00000000, .vfloor (vw .f32 8 (.vreg 2) 0 (.vreg 0) (.vreg 0) 0)),
  (0x88646000, 0x00800200, 0x00000000, .vceil (vw .f32 8 (.vreg 2) 0 (.vreg 0) (.vreg 0) 0)),
  (0x88656000, 0x00800200, 0x00000000, .vtrunc (vw .f32 8 (.vreg 2) 0 (.vreg 0) (.vreg 0) 0)),
  (0x88666000, 0x00800200, 0x00000000, .vrint (vw .f32 8 (.vreg 2) 0 (.vreg 0) (.vreg 0) 0)),
  (0x88676000, 0x00800200, 0x00000000, .vfract (vw .f32 8 (.vreg 2) 0 (.vreg 0) (.vreg 0) 0)),
  (0x88686000, 0x00800200, 0x00000000, .vclass (vw .f32 8 (.vreg 2) 0 (.vreg 0) (.vreg 0) 0)),
  (0x886A6000, 0x00800200, 0x00000000, .vgetexp (vw .f32 8 (.vreg 2) 0 (.vreg 0) (.vreg 0) 0)),
  (0x886B6000, 0x00800200, 0x00000000, .vgetman (vw .f32 8 (.vreg 2) 0 (.vreg 0) (.vreg 0) 0)),
  (0x88696000, 0x00800200, 0x00400000, .vldexp (vw .f32 8 (.vreg 2) 0 (.vreg 4) (.vreg 0) 0)),
  (0x88A00000, 0x00800206, 0x00000000, .vcvt (vw .s32 8 (.vreg 2) 6 (.vreg 0) (.vreg 0) 0)),
  (0x88A1B000, 0x01400A00, 0x00000000, .vmxs (vw .e2m1x8 20 (.vreg 10) 0 (.vreg 0) (.vreg 0) 0)),
  (0x88A27000, 0x00800200, 0x00400000, .vpack (vw .f16x2 8 (.vreg 2) 0 (.vreg 4) (.vreg 0) 0)),
  (0x88A30000, 0x00800212, 0x00000000, .vunpack (vw .s32 8 (.vreg 2) 18 (.vreg 0) (.vreg 0) 0)),
  (0x88C02000, 0x00800200, 0x00400600, .vdot2 (vw .s16x2 8 (.vreg 2) 0 (.vreg 4) (.vreg 6) 0)),
  (0x88C14000, 0x00800200, 0x00400600, .vdot4 (vw .s8x4 8 (.vreg 2) 0 (.vreg 4) (.vreg 6) 0)),
  (0x88E00000, 0x000A0A00, 0x00000000, .pload (vw .s32 0 (.sreg 10) 0 (.vreg 0) (.vreg 0) 0)),
  (0x89000000, 0x00800200, 0x00400600, .vshfl (vw .s32 8 (.vreg 2) 0 (.vreg 4) (.vreg 6) 0)),
  (0x89010000, 0x00800200, 0xA0C00600, .vbcast (vw .s32 8 (.vreg 2) 0 (.sreg 12) (.vreg 6) 0)),
  (0x89020000, 0x00800200, 0xE0500000, .vrot (vw .s32 8 (.vreg 2) 0 (.imm 5) (.vreg 0) 0)),
  (0x8903C000, 0x00C00200, 0x00000000, .vballot (vw .b32 12 (.vreg 2) 0 (.vreg 0) (.vreg 0) 0)),
  (0x89040000, 0x00800200, 0x00000000, .vred (vw .s32 8 (.vreg 2) 0 (.vreg 0) (.vreg 0) 0)),
  (0x89050000, 0x00800950, 0x00000000, .vscan (vw .s32 8 (.vreg 9) 80 (.vreg 0) (.vreg 0) 0)),
  (0x8906C000, 0x00800200, 0x00000000, .vnzs (vw .b32 8 (.vreg 2) 0 (.vreg 0) (.vreg 0) 0)),
  (0x8907C000, 0x00800200, 0x00000000, .vmatch (vw .b32 8 (.vreg 2) 0 (.vreg 0) (.vreg 0) 0)),
  (0x89200000, 0x00800201, 0x00400688, .vedge (vw .s32 8 (.vreg 2) 1 (.vreg 4) (.vreg 6) 136)),
  (0x8B800000, 0x00800200, 0x00400600, .vmad24 (vw .s32 8 (.vreg 2) 0 (.vreg 4) (.vreg 6) 0)),
  (0x8BA00000, 0x00800200, 0xE0100000, .vbfly (vw .s32 8 (.vreg 2) 0 (.imm 1) (.vreg 0) 0)),
  (0x8BC05000, 0x00800200, 0x00400600, .vsad4 (vw .n8x4 8 (.vreg 2) 0 (.vreg 4) (.vreg 6) 0)),
  (0x88836000, 0x00800200, 0x00000000, .vprof 3 (vw .f32 8 (.vreg 2) 0 (.vreg 0) (.vreg 0) 0))] : List (Word × Word × Word × Instr)).all reads = true := by decide +kernel
theorem test_words_memory : ([
  (0x8C000000, 0x00800320, 0x05000001, .vld .b8z (mw .s32 0 8 (.vreg 3) false 2 0 10 (.vreg 0) 1)),
  (0x8C010000, 0x00800320, 0x05000001, .vld .b8s (mw .s32 0 8 (.vreg 3) false 2 0 10 (.vreg 0) 1)),
  (0x8C020000, 0x00800320, 0x05000001, .vld .b16z (mw .s32 0 8 (.vreg 3) false 2 0 10 (.vreg 0) 1)),
  (0x8C030000, 0x00800320, 0x05000001, .vld .b16s (mw .s32 0 8 (.vreg 3) false 2 0 10 (.vreg 0) 1)),
  (0x8C040000, 0x00800320, 0x05000001, .vld .b32 (mw .s32 0 8 (.vreg 3) false 2 0 10 (.vreg 0) 1)),
  (0x8C050000, 0x00800320, 0x05000001, .vld .b64 (mw .s32 0 8 (.vreg 3) false 2 0 10 (.vreg 0) 1)),
  (0x8C060000, 0x00800320, 0x05000001, .vld .b128 (mw .s32 0 8 (.vreg 3) false 2 0 10 (.vreg 0) 1)),
  (0x8C200000, 0x00000320, 0x05000801, .vst .b8 (mw .s32 0 0 (.vreg 3) false 2 0 10 (.vreg 8) 1)),
  (0x8C210000, 0x00000320, 0x05000801, .vst .b16 (mw .s32 0 0 (.vreg 3) false 2 0 10 (.vreg 8) 1)),
  (0x8C220000, 0x00000320, 0x05000801, .vst .b32 (mw .s32 0 0 (.vreg 3) false 2 0 10 (.vreg 8) 1)),
  (0x8C230000, 0x00000320, 0x05000801, .vst .b64 (mw .s32 0 0 (.vreg 3) false 2 0 10 (.vreg 8) 1)),
  (0x8C240000, 0x00000320, 0x05000801, .vst .b128 (mw .s32 0 0 (.vreg 3) false 2 0 10 (.vreg 8) 1)),
  (0x8C440000, 0x00800385, 0x05000003, .vgld .b32 (mw .s32 0 8 (.vreg 3) true 0 5 10 (.vreg 0) 3)),
  (0x8C640000, 0x008A1485, 0x050A1500, .vgldl .b32 (mw .s32 0 8 (.sreg 20) true 0 5 10 (.sreg 21) 0)),
  (0x8C820000, 0x00000300, 0x05000803, .vgst .b32 (mw .s32 0 0 (.vreg 3) false 0 0 10 (.vreg 8) 3)),
  (0x8CA00000, 0x00800300, 0x05000400, .vatom .add (mw .s32 0 8 (.vreg 3) false 0 0 10 (.vreg 4) 0)),
  (0x8CA10000, 0x00800300, 0x05000400, .vatom .sub (mw .s32 0 8 (.vreg 3) false 0 0 10 (.vreg 4) 0)),
  (0x8CA20000, 0x00800300, 0x05000400, .vatom .min (mw .s32 0 8 (.vreg 3) false 0 0 10 (.vreg 4) 0)),
  (0x8CA30000, 0x00800300, 0x05000400, .vatom .max (mw .s32 0 8 (.vreg 3) false 0 0 10 (.vreg 4) 0)),
  (0x8CA4C000, 0x00800300, 0x05000400, .vatom .and (mw .b32 0 8 (.vreg 3) false 0 0 10 (.vreg 4) 0)),
  (0x8CA5C000, 0x00800300, 0x05000400, .vatom .or (mw .b32 0 8 (.vreg 3) false 0 0 10 (.vreg 4) 0)),
  (0x8CA6C000, 0x00800300, 0x05000400, .vatom .xor (mw .b32 0 8 (.vreg 3) false 0 0 10 (.vreg 4) 0)),
  (0x8CA7C000, 0x00800300, 0x05000400, .vatom .xchg (mw .b32 0 8 (.vreg 3) false 0 0 10 (.vreg 4) 0)),
  (0x8CA8C000, 0x00800300, 0x05000400, .vatom .cas (mw .b32 0 8 (.vreg 3) false 0 0 10 (.vreg 4) 0)),
  (0x8CA96000, 0x00800300, 0x05000400, .vatom .fadd (mw .f32 0 8 (.vreg 3) false 0 0 10 (.vreg 4) 0)),
  (0x8CAA6000, 0x00800300, 0x05000400, .vatom .fmin (mw .f32 0 8 (.vreg 3) false 0 0 10 (.vreg 4) 0)),
  (0x8CAB6000, 0x00800300, 0x05000400, .vatom .fmax (mw .f32 0 8 (.vreg 3) false 0 0 10 (.vreg 4) 0)),
  (0x8CC00000, 0x00000300, 0x05000000, .vpref .l1 (mw .s32 0 0 (.vreg 3) false 0 0 10 (.vreg 0) 0)),
  (0x8CC10000, 0x00000300, 0x05000000, .vpref .l2 (mw .s32 0 0 (.vreg 3) false 0 0 10 (.vreg 0) 0)),
  (0x8CC20000, 0x00000300, 0x05000000, .vpref .evf (mw .s32 0 0 (.vreg 3) false 0 0 10 (.vreg 0) 0)),
  (0x4D000140, 0x05000004, 0x00000000, .sld (sw .s32 20 0 (.regs 10 0 4))), (0x4D200000, 0x05030004, 0x00000000, .sst (sw .s32 0 0 (.regs 10 12 4))),
  (0x4D400140, 0x05030000, 0x00000000, .satom .add (sw .s32 20 0 (.regs 10 12 0))),
  (0x4D410140, 0x05030000, 0x00000000, .satom .sub (sw .s32 20 0 (.regs 10 12 0))),
  (0x4D420140, 0x05030000, 0x00000000, .satom .min (sw .s32 20 0 (.regs 10 12 0))),
  (0x4D430140, 0x05030000, 0x00000000, .satom .max (sw .s32 20 0 (.regs 10 12 0))),
  (0x4D44A140, 0x05030000, 0x00000000, .satom .and (sw .b32 20 0 (.regs 10 12 0))),
  (0x4D45A140, 0x05030000, 0x00000000, .satom .or (sw .b32 20 0 (.regs 10 12 0))),
  (0x4D46A140, 0x05030000, 0x00000000, .satom .xor (sw .b32 20 0 (.regs 10 12 0))),
  (0x4D47A140, 0x05030000, 0x00000000, .satom .xchg (sw .b32 20 0 (.regs 10 12 0))),
  (0x4D48A140, 0x05030000, 0x00000000, .satom .cas (sw .b32 20 0 (.regs 10 12 0))),
  (0x4D498140, 0x05030000, 0x00000000, .satom .fadd (sw .f32 20 0 (.regs 10 12 0))),
  (0x4D4A8140, 0x05030000, 0x00000000, .satom .fmin (sw .f32 20 0 (.regs 10 12 0))),
  (0x4D4B8140, 0x05030000, 0x00000000, .satom .fmax (sw .f32 20 0 (.regs 10 12 0))),
  (0x4D600000, 0x00000003, 0x00000000, .fence .acq (sw .s32 0 0 (.regs 0 0 3))),
  (0x4D610000, 0x00000003, 0x00000000, .fence .rel (sw .s32 0 0 (.regs 0 0 3))),
  (0x4D620000, 0x00000003, 0x00000000, .fence .acqrel (sw .s32 0 0 (.regs 0 0 3))),
  (0x4D800140, 0x05030064, 0x00000000, .swait .eq (sw .s32 20 0 (.regs 10 12 100))),
  (0x4D810140, 0x05030064, 0x00000000, .swait .ne (sw .s32 20 0 (.regs 10 12 100))),
  (0x4D820140, 0x05030064, 0x00000000, .swait .ge (sw .s32 20 0 (.regs 10 12 100))),
  (0x4D830140, 0x05030064, 0x00000000, .swait .lt (sw .s32 20 0 (.regs 10 12 100))),
  (0x4D840140, 0x05030064, 0x00000000, .swait .andnz (sw .s32 20 0 (.regs 10 12 100))),
  (0x4DA00140, 0x05030000, 0x00000000, .tlock (sw .s32 20 0 (.regs 10 12 0))),
  (0x4DA10000, 0x05030000, 0x00000000, .tunlock (sw .s32 0 0 (.regs 10 12 0))),
  (0x8E000000, 0x000E4002, 0x00000000, .xcopy (vw .s32 0 (.imm 64) 2 (.vreg 0) (.vreg 0) 0)),
  (0x8E200000, 0x000E4000, 0xE03E0400, .binit (vw .s32 0 (.imm 64) 0 (.imm 3) (.imm 4) 0)),
  (0x8E210000, 0x000E4000, 0xE0100000, .barr (vw .s32 0 (.imm 64) 0 (.imm 1) (.vreg 0) 0)),
  (0x8E220000, 0x000ED000, 0xA2E00000, .bexp (vw .s32 0 (.imm 208) 0 (.sreg 46) (.vreg 0) 0)),
  (0x8E230000, 0x000E4000, 0xE0000000, .bwait (vw .s32 0 (.imm 64) 0 (.imm 0) (.vreg 0) 0)),
  (0x8E240000, 0x014E4000, 0x00000000, .btest (vw .s32 20 (.imm 64) 0 (.vreg 0) (.vreg 0) 0))] : List (Word × Word × Word × Instr)).all reads = true := by decide +kernel
theorem test_words_matrix_and_neural : ([
  (0x50000028, 0x003F8080, 0x00000000, .tcfg (sw .s32 2 0 (.imm 0 4161664))),
  (0x90200000, 0x000A0A03, 0xE4000005, .tld (vw .s32 0 (.sreg 10) 3 (.imm 64) (.vreg 0) 5)),
  (0x90210000, 0x000A0A03, 0xA0C00005, .tst (vw .s32 0 (.sreg 10) 3 (.sreg 12) (.vreg 0) 5)),
  (0x90220000, 0x00000003, 0x00000000, .tzero (vw .s32 0 (.vreg 0) 3 (.vreg 0) (.vreg 0) 0)),
  (0x90230000, 0x00000203, 0xE0100007, .vtot (vw .s32 0 (.vreg 2) 3 (.imm 1) (.vreg 0) 7)),
  (0x90240000, 0x00800003, 0xE0100007, .ttov (vw .s32 8 (.vreg 0) 3 (.imm 1) (.vreg 0) 7)),
  (0x90250000, 0x00000043, 0x00000000, .ttr (vw .s32 0 (.vreg 0) 67 (.vreg 0) (.vreg 0) 0)),
  (0x90409000, 0x00000003, 0x00000010, .mma (vw .e4m3x4 0 (.vreg 0) 3 (.vreg 0) (.vreg 0) 16)),
  (0x90419000, 0x00000003, 0x00000010, .mmaz (vw .e4m3x4 0 (.vreg 0) 3 (.vreg 0) (.vreg 0) 16)),
  (0x9042B000, 0x00000005, 0x05400032, .mmax (vw .e2m1x8 0 (.vreg 0) 5 (.vreg 84) (.vreg 0) 50)),
  (0x9043B000, 0x00000005, 0x05400032, .mmaxz (vw .e2m1x8 0 (.vreg 0) 5 (.vreg 84) (.vreg 0) 50)),
  (0x90600000, 0x00000003, 0x00000000, .czero (vw .s32 0 (.vreg 0) 3 (.vreg 0) (.vreg 0) 0)),
  (0x90616000, 0x000E4003, 0xA0C00005, .cst (vw .f32 0 (.imm 64) 3 (.sreg 12) (.vreg 0) 5)),
  (0x9062C000, 0x000E4003, 0xA0C00005, .cld (vw .b32 0 (.imm 64) 3 (.sreg 12) (.vreg 0) 5)),
  (0x9063C000, 0x00800003, 0xE0100007, .ctov (vw .b32 8 (.vreg 0) 3 (.imm 1) (.vreg 0) 7)),
  (0x90640000, 0x00000003, 0x00000000, .crel (vw .s32 0 (.vreg 0) 3 (.vreg 0) (.vreg 0) 0)),
  (0x90807000, 0x02800803, 0xA1400000, .ncall (vw .f16x2 40 (.vreg 8) 3 (.sreg 20) (.vreg 0) 0)),
  (0x50A00148, 0x00000005, 0x00000000, .wpin (sw .s32 20 0 (.imm 0 5))), (0x50A10140, 0x05000000, 0x00000000, .wunpin (sw .s32 20 0 (.regs 10 0 0))),
  (0x50A20000, 0x05000000, 0x00000000, .wpref (sw .s32 0 0 (.regs 10 0 0)))] : List (Word × Word × Word × Instr)).all reads = true := by decide +kernel
theorem test_words_rays_graphs_and_pixels : ([
  (0x92000000, 0x02800802, 0xA14C0203, .rtrace (vw .s32 40 (.vreg 8) 2 (.sreg 20) (.special 2) 3)),
  (0x92200000, 0x02800003, 0x000A1500, .rresume (vw .s32 40 (.vreg 0) 3 (.vreg 0) (.sreg 21) 0)),
  (0x92400000, 0x000A0A05, 0x00000000, .xbuild (vw .s32 0 (.sreg 10) 5 (.vreg 0) (.vreg 0) 0)),
  (0x92800000, 0x00A00000, 0xE0200000, .ralloc (vw .s32 10 (.vreg 0) 0 (.imm 2) (.vreg 0) 0)),
  (0x92810000, 0x00000A00, 0x00000000, .rcommit (vw .s32 0 (.vreg 10) 0 (.vreg 0) (.vreg 0) 0)),
  (0x92820000, 0x00000A00, 0x00000000, .rfree (vw .s32 0 (.vreg 10) 0 (.vreg 0) (.vreg 0) 0)),
  (0x92A06000, 0x008A1F01, 0xA1400000, .pzt (vw .f32 8 (.sreg 31) 1 (.sreg 20) (.vreg 0) 0)),
  (0x92A1C000, 0x000A2102, 0xA1400000, .pwr (vw .b32 0 (.sreg 33) 2 (.sreg 20) (.vreg 0) 0)),
  (0x92A20000, 0x00000000, 0xA1400000, .pdone (vw .s32 0 (.vreg 0) 0 (.sreg 20) (.vreg 0) 0))] : List (Word × Word × Word × Instr)).all reads = true := by decide +kernel
theorem test_words_handlers : ([
  (0x5C0000A0, 0x0A000000, 0x00000000, .fmask (sw .s32 10 0 (.regs 20 0 0))),
  (0x5C0101F0, 0x0A000002, 0x00000000, .fstate (sw .s32 31 0 (.regs 20 0 2))),
  (0x5C020000, 0x0A000000, 0x00000000, .fresReplay (sw .s32 0 0 (.regs 20 0 0))),
  (0x5C020002, 0x0A01C000, 0x00000000, .fresReplay (sw .s32 0 2 (.regs 20 7 0))),
  (0x5C020001, 0x0A000000, 0x00000000, .fresComplete (sw .s32 0 1 (.regs 20 0 0))),
  (0x5C030000, 0x0A000000, 0x00000000, .fkill (sw .s32 0 0 (.regs 20 0 0))),
  (0x5C040000, 0x0A000009, 0x00000000, .fpark (sw .s32 0 0 (.regs 20 0 9))), (0x5C4001E1, 0x00000000, 0x00000000, .hcrr (sw .s32 30 1 (.regs 0 0 0))),
  (0x5C410000, 0x0A000006, 0x00000000, .hcrw (sw .s32 0 0 (.regs 20 0 6)))] : List (Word × Word × Word × Instr)).all reads = true := by decide +kernel

/-! ### Worked encodings of the spec, with what the rows above leave zero -/

/-- Tables 04.10, 06.9, 07.10, 08.8, 10.9, 11.8, 12.6 and 15.7 (guards, rounding, saturation, LK, tokens). -/
theorem test_worked_words : ([
  (0x88056200, 0x00C00400, 0x800A1400, .vfma { vw .f32 12 (.vreg 4) 0 (.latch 0) (.sreg 20) 0 with rc := .rtz }),
  (0x88002800, 0x01401500, 0xFFD00000, .vadd { vw .s16x2 20 (.vreg 21) 0 (.imm (-3)) (.vreg 0) 0 with sat := true }),
  (0x89050000, 0x00800950, 0, .vscan (vw .s32 8 (.vreg 9) 0x50 (.vreg 0) (.vreg 0) 0)),
  (0x8C040000, 0x00200020, 0x0A000000, .vld .b32 (mw .s32 0 2 (.vreg 0) false 2 0 20 (.vreg 0) 0)),
  (0x8E000000, 0x000E4002, 0, .xcopy (vw .s32 0 (.imm 64) 2 (.vreg 0) (.vreg 0) 0)), (0x2E400003, 0, 0, .bar { cw 3 with lk := true }),
  (0x9042B000, 0x00000005, 0x05400032, .mmax (vw .e2m1x8 0 (.vreg 0) 5 (.vreg 0x54) (.vreg 0) 0x32)),
  (0x90807000, 0x02800803, 0xA1400000, .ncall (vw .f16x2 40 (.vreg 8) 3 (.sreg 20) (.vreg 0) 0)),
  (0x90807085, 0x00A00102, 0xA1E00000, .ncall { vw .f16x2 10 (.vreg 1) 2 (.sreg 30) (.vreg 0) 0 with guard := some 5 }),
  (0x92000000, 0x02800802, 0xA14C0203, .rtrace (vw .s32 40 (.vreg 8) 2 (.sreg 20) (.special 2) 3)),
  (0x92200000, 0x02800003, 0x000A1500, .rresume (vw .s32 40 (.vreg 0) 3 (.vreg 0) (.sreg 21) 0)),
  (0xB2800000, 0x00A00000, 0xE0200000, .ralloc { vw .s32 10 (.vreg 0) 0 (.imm 2) (.vreg 0) 0 with lk := true }),
  (0x8E220000, 0x000ED000, 0xA2E00000, .bexp (vw .s32 0 (.imm 208) 0 (.sreg 46) (.vreg 0) 0)),
  (0x5C020001, 0x0A000000, 0, .fresComplete (sw .s32 0 1 (.regs 20 0 0))), (0x5C020002, 0x0A01C000, 0, .fresReplay (sw .s32 0 2 (.regs 20 7 0))),
  (0x5C0101F0, 0x0A000002, 0, .fstate (sw .s32 31 0 (.regs 20 0 2))), (0x5C0000A0, 0x0A000000, 0, .fmask (sw .s32 10 0 (.regs 20 0 0))),
  (0x5C040000, 0x0A000009, 0, .fpark (sw .s32 0 0 (.regs 20 0 9))), (0x5C4001E1, 0, 0, .hcrr (sw .s32 30 1 (.regs 0 0 0))),
  (0x2120000E, 0, 0, .wait { cw 14 with lk := true }), (0x60420009, 0x403C0000, 0, .brall { xw 9 (.vec 7) true 0 with lk := true }),
  (0x00010000, 0, 0, .land (cw 0)), (0x20010000, 0, 0, .land { cw 0 with lk := true })] :
  List (Word × Word × Word × Instr)).all reads = true := by decide +kernel

/-- Table 04.12, and the step of R98 that refuses each. -/
theorem test_refused_words : ([(0x40000000, .early), (0x01400000, .early), (0x5C050000, .lateHandler), (0x880A6000, .late), (0xC0000000, .early)] :
    List (Word × DecodeFail)).all (fun p => match decodeGranules p.1 0 0 with
      | .ok _ => false
      | .error e => decide (e = p.2)) = true := by decide +kernel

/-- A word of each walk micro-operation, from the layout of R241 and Table 10.5, and those of Table 10.8. -/
theorem test_walk_words : ([(0x02000000, .wld 2), (0x0A000000, .wchild 2), (0x13600000, .wbox8 3 3 false), (0x13610000, .wbox8 3 3 true),
  (0x18C00000, .wpush 6), (0x2000000E, .wpop 14), (0x28940000, .wtri 4 5), (0x30000000, .wleaf), (0x38400000, .winst 2), (0x38010000, .winstN),
  (0x40000000, .wexit), (0x48A80000, .whit 5 2), (0x50000009, .wany 9), (0x5800000C, .wbr 12), (0x60600007, .wbz 3 7), (0x6860000A, .wbnz 3 10),
  (0x71480000, .wadd 1 2 2), (0x7141FFFF, .waddImm 1 2 0xFFFF), (0x7B2C0000, .wsub 3 1 3), (0x7B210001, .wsubImm 3 1 1), (0x81480000, .wand 1 2 2),
  (0x81410003, .wandImm 1 2 3), (0x89480000, .wshr 1 2 2), (0x89410005, .wshrImm 1 2 5), (0x91E00000, .wmov 1 7), (0x91010002, .wmovSpecial 1 2),
  (0x9C001234, .wldi 4 0x1234), (0x9C011234, .wldiHi 4 0x1234), (0xA50001FC, .wld32 5 508), (0xAD4B0000, .wcmp 5 2 2 3), (0xB6000021, .wcall 6 33),
  (0xB8C00000, .wret 6), (0xC0000000, .wdone), (0xC8E00000, .wfail 7)] : List (Word × Instr)).all (fun p =>
    decide (decodeWalk p.1 = some p.2) && decide (p.2.encode = [p.1])) = true := by decide +kernel
theorem test_walk_refused : [0xD0000000, 0x30000001, 0x18E00000, 0x48C00000, 0x91010008, 0xA4000002, 0xA4000200, 0x20000100].all
    (fun w => (decodeWalk w).isNone) = true := by decide +kernel

/-- Words of Table 17.1 in the R-type layout; `phring`, `phbfx.s` and `phunseal` stand in the spec. -/
theorem test_ph_words : ([(0x00C5850B, .phring 10 11 12), (0x0205850B, .phretire 10 11), (0x00C5950B, .phbfx 10 11 12), (0x02C5950B, .phbfxS 10 11 12),
  (0x00C5A50B, .phwait 10 11 12), (0x00C5852B, .phdisp 10 11 12), (0x0005952B, .phunseal 10 11), (0x0205952B, .phseal 10 11)] : List (Word × Instr)).all
    (fun p => decide (decodePh p.1 = some p.2) && decide (p.2.encode = [p.1])) = true := by decide +kernel
theorem test_ph_refused : [0x0215850B, 0x04C5850B, 0x00C5B50B, 0x0015952B, 0x00000013].all (fun w => (decodePh w).isNone) = true := by decide +kernel

/-! ## Field checks: an ill-formed term for each -/

def v1 : VFmt := vw .s32 8 (.vreg 2) 0 (.vreg 4) (.vreg 0) 0
def m1 : VMFmt := mw .s32 0 8 (.vreg 3) false 0 0 10 (.vreg 0) 0
/-- R6, R39, R40, R87 to R97 and the entries' own fields. -/
theorem test_ill_formed : ([.nop (cw 1), .brkLoop (cw 0), .brkLoop (cw 255), .cont (cw 0), .cont (cw 256), .bar (cw 16), .brc (xw 0 (.mask 5) false 0),
  .brany (xw 0 (.scal 5) false 0), .brany (xw 0 (.mask 128) false 0), .iff (xw 0 (.scal 384) false 0), .iff (xw 0 (.vec 0) false 4),
  .jtab (xw 1 (.vec 9) false 0), .jtab (xw 0 (.vec 9) true 0), .jtab (xw 0 (.mask 9) false 0), .ctab (xw 0 (.vec 9) false 2), .ctab (xw 0 (.vec 9) false 41),
  .ctab (xw 0 (.vec 9) false 384), .sadd (sw .s32 384 0 (.regs 0 0 0)), .sadd (sw .s64 21 0 (.regs 0 0 0)), .sadd (sw .s64 20 0 (.regs 11 0 0)),
  .sadd (sw .b32 20 0 (.regs 0 0 0)), .sadd (sw .s32 20 1 (.regs 0 0 0)), .sadd (sw .s32 20 0 (.regs 0 0 1)), .spopc (sw .s32 20 0 (.imm 0 0)),
  .spopc (sw .s32 20 0 (.regs 0 1 0)), .sbfe (sw .s32 20 0 (.regs 0 0 (64 * 28 + 4))), .smov (sw .f32 20 0 (.imm 0 1)), .ssel (sw .s32 20 0 (.regs 0 0 384)),
  .scvt (sw .f32 20 5 (.regs 10 0 0)), .ldlit (sw .s32 20 0 (.regs 0 0 0)), .mand (sw .s32 128 0 (.regs 6 7 0)), .mpopc (sw .s32 384 0 (.regs 6 0 0)),
  .pcrr (sw .s32 20 0 (.regs 0 0 64)), .pcrw (sw .s32 0 0 (.regs 10 0 15)), .vacq (sw .s32 1 0 (.imm 0 2)), .call (sw .s32 2 0 (.imm 0 4)),
  .ret (sw .s32 0 0 (.imm 40 0))] : List Instr).all (fun i => !i.wellFormed) = true := by decide +kernel
theorem test_ill_formed_vector : ([.vadd { v1 with ty := .b32 }, .vadd { v1 with rc := .rne }, .vadd { v1 with ty := .f32, rc := .sr }, .vadd { v1 with x := 1 },
  .vadd { v1 with y := 1 }, .vadd { v1 with c := .vreg 1 }, .vadd { v1 with ty := .s64, d := 9 }, .vadd { v1 with ty := .s64, a := .vreg 3 },
  .vadd { v1 with a := .sreg 384 }, .vadd { v1 with a := .special 10 }, .vadd { v1 with a := .special 7 }, .vmulh { v1 with sat := true },
  .vmad { v1 with ty := .f32 }, .vfma { v1 with ty := .s32 }, .vabs { v1 with ty := .n32, b := .vreg 0 }, .vlut3 { v1 with ty := .n32 },
  .vsel { v1 with x := 128 }, .vcmp .ord v1, .vcmp .eq { v1 with d := 128 }, .vcmp .eq { v1 with x := 1 }, .vrcp { v1 with ty := .s32, b := .vreg 0 },
  .vcvt { v1 with b := .vreg 0, x := 15 }, .vcvt { v1 with b := .vreg 0, x := 0x80 }, .vpack { v1 with ty := .f32, x := 6 }, .vunpack { v1 with x := 6, b := .vreg 0 },
  .vmxs { v1 with ty := .e2m1x8, b := .vreg 0, d := 9 }, .vdot2 v1, .vdot4 { v1 with ty := .f16x2 }, .pload { v1 with d := 0, a := .sreg 11, b := .vreg 0 },
  .vshfl { v1 with a := .latch 0 }, .vbcast v1, .vrot { v1 with b := .imm 1, x := 1 }, .vballot { v1 with ty := .s32, b := .vreg 0 }, .vred { v1 with b := .vreg 0, x := 6 },
  .vscan { v1 with b := .vreg 0, x := 0x80 }, .vnzs { v1 with b := .vreg 0 }, .vmatch { v1 with ty := .b32, b := .vreg 0, x := 1 }, .vedge { v1 with x := 2 },
  .vmad24 { v1 with nw := true }, .vbfly v1, .vsad4 v1] : List Instr).all (fun i => !i.wellFormed) = true := by decide +kernel
theorem test_ill_formed_memory : ([.vld .b32 { m1 with sc := 5 }, .vld .b32 { m1 with k := 3 }, .vld .b32 { m1 with sb := 11 }, .vld .b32 { m1 with sb := 384 },
  .vld .b32 { m1 with sb := 0 }, .vld .b64 { m1 with d := 9 }, .vld .b128 { m1 with d := 10 }, .vld .b32 { m1 with ty := .f32 }, .vld .b32 { m1 with c := .vreg 1 },
  .vst .b32 m1, .vst .b64 { m1 with d := 0, c := .vreg 9 }, .vst .b128 { m1 with d := 0, c := .sreg 8 }, .vgld .b32 { m1 with imm8 := 8 }, .vgld .b32 { m1 with a := .imm 1 },
  .vgst .b32 { m1 with d := 0, c := .sreg 8 }, .vgldl .b128 { m1 with a := .imm 0, c := .imm 1 }, .vgldl .b32 m1, .vatom .add { m1 with ty := .f32 },
  .vatom .cas { m1 with ty := .s32 }, .vpref .l1 m1, .vpref .l1 { m1 with d := 0, cpol := 1 }, .sld (sw .s32 20 6 (.regs 10 0 0)), .sld (sw .s32 21 5 (.regs 10 0 0)),
  .sst (sw .s32 20 4 (.regs 10 0 0)), .satom .add (sw .f32 20 0 (.regs 10 12 0)), .fence .acq (sw .s32 0 0 (.regs 0 0 5)), .swait .ge (sw .b32 20 0 (.regs 10 12 0)),
  .tlock (sw .s32 20 0 (.regs 11 12 0)), .xcopy { v1 with d := 0, b := .vreg 0 }, .binit { v1 with d := 0, a := .imm 0 }, .btest { v1 with d := 384, a := .imm 0, b := .vreg 0 }] :
  List Instr).all (fun i => !i.wellFormed) = true := by decide +kernel
theorem test_ill_formed_engines : ([.tcfg (sw .s32 16 0 (.imm 0 0)), .tcfg (sw .s32 2 0 (.imm 1 0)), .tld { v1 with d := 0, a := .sreg 10, b := .imm 4, y := 16 },
  .tld { v1 with d := 0, a := .sreg 11, b := .imm 4 }, .tzero { v1 with d := 0, a := .vreg 0, b := .vreg 0, x := 16 }, .vtot { v1 with d := 0, a := .sreg 2, b := .imm 0 },
  .ttov v1, .ttr { v1 with d := 0, a := .vreg 0, b := .vreg 0, y := 1 }, .mma { v1 with ty := .e2m1x8, d := 0, a := .vreg 0, b := .vreg 0 },
  .mma { v1 with ty := .e4m3x4, d := 0, a := .vreg 0 }, .mma { v1 with ty := .e4m3x4, d := 0, a := .vreg 0, b := .vreg 0, x := 48 },
  .mmax { v1 with ty := .f16x2, d := 0, a := .vreg 0 }, .mmax { v1 with ty := .e2m1x8, d := 0, a := .vreg 0, b := .vreg 256 },
  .czero { v1 with d := 0, a := .vreg 0, b := .vreg 0, y := 1 }, .cst { v1 with ty := .f32, d := 0, a := .imm 0, b := .sreg 4, y := 0x80 },
  .cst { v1 with ty := .f32, d := 0, a := .imm 0, b := .imm 4 },
  .cld { v1 with d := 0, a := .imm 0, b := .sreg 4 }, .ctov { v1 with ty := .b32, a := .vreg 0 }, .ctov { v1 with ty := .b32, a := .vreg 0, b := .vreg 0, c := .imm 1 },
  .ncall { v1 with b := .sreg 4 }, .ncall { v1 with ty := .f16x2 }, .wpref (sw .s32 1 0 (.imm 0 2)), .rtrace { v1 with b := .sreg 4, x := 16 },
  .rtrace { v1 with b := .sreg 4, y := 4 }, .rresume { v1 with a := .vreg 0, b := .vreg 0, y := 2 }, .wpush 1, .winst 3, .wtri 1 0, .whit 6 0, .wmovSpecial 0 8,
  .wld32 0 2, .wld32 0 512, .xbuild { v1 with d := 0, a := .sreg 11, b := .vreg 0 }, .ralloc { v1 with a := .vreg 0, d := 9, b := .imm 1 },
  .rcommit { v1 with d := 0, a := .vreg 3, b := .vreg 0 }, .pzt { v1 with b := .sreg 4 }, .pwr { v1 with ty := .b32, b := .sreg 4 },
  .pdone { v1 with d := 0, a := .vreg 0, b := .sreg 5 }, .fmask (sw .s32 10 2 (.regs 20 0 0)), .fstate (sw .s32 31 0 (.regs 20 0 12)),
  .fresReplay (sw .s32 0 1 (.regs 20 0 0)), .fresComplete (sw .s32 0 0 (.regs 20 0 0)), .fkill (sw .s32 1 0 (.regs 20 0 0)), .fpark (sw .s32 0 1 (.regs 20 0 9)),
  .hcrr (sw .s32 30 1 (.regs 0 0 6)), .hcrw (sw .s32 0 0 (.regs 20 0 7))] : List Instr).all (fun i => !i.wellFormed) = true := by decide +kernel

/-! ## Single steps -/

/-- The only warp and fragment of a state. -/
def its (s : State) (p : Warp → Frag → Bool) : Bool := has (findFrag s 0 0) fun q => p q.1 q.2
/-- What an instruction leaves in the only warp. -/
def meetsAfter (i : Instr) (s : State) (p : Warp → Frag → Bool) : Bool := its (after i s) p

/-- R22: two reaches that each add 1 leave 2 (worked example, chapter 5). R111: sums wrap. -/
theorem test_sadd : meetsAfter (.sadd (sw .s32 15 0 (.imm 15 1))) (after (.sadd (sw .s32 15 0 (.imm 15 1))) start) (fun w f =>
    decide (w.sreg 15 = 2 ∧ f.pc = 0x10010)) = true ∧
    meetsAfter (.sadd (sw .s32 20 0 (.imm 10 1))) (withS start [(10, 0xFFFFFFFF)]) (fun w _ => decide (w.sreg 20 = 0)) = true := by decide +kernel
/-- Table 05.1: the high half of a product, signed and unsigned. -/
theorem test_smulh : meetsAfter (.smulh (sw .s32 20 0 (.regs 10 12 0))) (withS start [(10, 0xFFFFFFFF), (12, 2)]) (fun w _ => decide (w.sreg 20 = 0xFFFFFFFF)) = true ∧
    meetsAfter (.smulh (sw .n32 20 0 (.regs 10 12 0))) (withS start [(10, 0xFFFFFFFF), (12, 2)]) (fun w _ => decide (w.sreg 20 = 1)) = true := by decide +kernel
/-- Table 05.1: a shift count is taken modulo 32, and `ssar` copies the sign. -/
theorem test_ssar : meetsAfter (.ssar (sw .n32 20 0 (.imm 10 33))) (withS start [(10, 0x80000000)]) (fun w _ => decide (w.sreg 20 = 0xC0000000)) = true := by decide +kernel
/-- Table 05.1: `sctz` of zero is the width. R112: the field of 8 bits at 4, of signed type. -/
theorem test_bits : meetsAfter (.sctz (sw .s64 20 0 (.regs 10 0 0))) start (fun w _ => decide (w.sreg 20 = 64 ∧ w.sreg 21 = 0)) = true ∧
    meetsAfter (.sbfe (sw .s32 20 0 (.regs 10 0 (64 * 7 + 4)))) (withS start [(10, 0xF80)]) (fun w _ => decide (w.sreg 20 = 0xFFFFFFF8)) = true := by decide +kernel
/-- R117, Table 05.3: AND NOT on triples, and the first set bit of an empty one. -/
theorem test_masks : meetsAfter (.mandn (sw .s32 5 0 (.regs 6 7 0))) (withS start [(18, 0xF0), (21, 0x30)]) (fun w _ => decide (w.sreg 15 = 0xC0)) = true ∧
    meetsAfter (.mffs (sw .s32 20 0 (.regs 6 0 0))) start (fun w _ => decide (w.sreg 20 = 0xFFFFFFFF)) = true := by decide +kernel
/-- Table 06.1: `vadd.sat.s16x2` clamps each half; there is a latch (R26). -/
theorem test_vadd : meetsAfter (.vadd { vw .s16x2 20 (.vreg 21) 0 (.imm (-3)) (.vreg 0) 0 with sat := true }) (withWarp start fun w => { w with vregs := [(vkey 21 0, 0x80010004)] })
    (fun w f => decide (w.vreg 20 0 = 0x80000001 ∧ w.vreg 20 1 = 0xFFFDFFFD ∧ f.latches.length = 1)) = true := by
  decide +kernel
/-- R155: a float sum rounds once (worked example, chapter 6). -/
theorem test_vred_once : meetsAfter (.vred { vw .f32 7 (.vreg 2) 0 (.vreg 0) (.vreg 0) 0 with rc := .rne, guard := some 9 }) (withWarp (withS start [(27, 7)]) fun w =>
    { w with vregs := [(vkey 2 0, 0x4B800000), (vkey 2 1, 0x3F800000), (vkey 2 2, 0x3F800000)] }) (fun w _ =>
    decide (w.vreg 7 0 = 0x4B800001 ∧ w.vreg 7 2 = 0x4B800001 ∧ w.vreg 7 3 = 0)) = true := by decide +kernel
/-- R153: only the fragment's own lanes contribute (worked example, chapter 6): 0 + 1 + … + 47 is 1128. -/
theorem test_vred_split : meetsAfter (.vred (vw .s32 4 (.vreg 3) 0 (.vreg 0) (.vreg 0) 0)) (withF (withWarp start fun w => { w with vregs := lanesWith 3 id }) fun f =>
    { f with lanes := BitVec.ofNat 96 (2 ^ 48 - 1) }) (fun w _ => decide (w.vreg 4 0 = 1128 ∧ w.vreg 4 47 = 1128 ∧ w.vreg 4 48 = 0)) = true := by decide +kernel
/-- R151: the blocks of `vmxs` (worked example, chapter 6). -/
theorem test_vmxs : meetsAfter (.vmxs { vw .e2m1x8 20 (.vreg 10) 0 (.vreg 0) (.vreg 0) 0 with rc := .rne }) (withWarp start fun w =>
    { w with vregs := [(vkey 10 0, 0x42200000), (vkey 10 1, 0x41A00000), (vkey 10 2, 0x41500000), (vkey 10 3, 0xBF800000), (vkey 10 64, 0x40F00000), (vkey 10 65, 0x3F800000)] })
    (fun w _ => decide ([0, 1, 2, 3, 64, 65, 4].map (w.vreg 20) = [6, 4, 3, 8, 7, 2, 0] ∧ [0, 31, 32, 64, 95].map (w.vreg 21) = [0x82, 0x82, 0, 0x7F, 0x7F])) = true := by
  decide +kernel
/-- R80, R81: the order of k-blocks shows in the rounding, and one block of eight has none of it (worked example, chapter 3). -/
theorem test_blocks : accBlock (accBlock 0 FF.bf16 FF.bf16 [0x4B80, 0x3F80, 0, 0] [0x3F80, 0x3F80, 0, 0] (some 0)) FF.bf16 FF.bf16 [0x3F80, 0xCB80, 0, 0] [0x3F80, 0x3F80, 0, 0]
      (some 0) = 0x3F800000 ∧
    accBlock 0 FF.bf16 FF.bf16 [0x4B80, 0x3F80, 0, 0, 0x3F80, 0xCB80, 0, 0] (List.replicate 8 0x3F80) (some 0) = 0x40000000 := by decide +kernel
/-- The worked walk of chapter 16 ends in a 2-MiB leaf: a store succeeds, a path-0x6 access does not. -/
theorem test_translation :
    let s := { start with hbm := Memory.setLe (Memory.setLe (Memory.setLe [] 0x1018 8 0x3001) 0x3028 8 0x4001) 0x4038 8 0x2460000F }
    (match translate s 0 0x18140E21234 .st false false with | .ok a => decide (a = 0x24621234) | .error _ => false) = true ∧
    (match translate s 0 0x18140E21234 .ld true false with | .ok _ => false | .error c => decide (c = .prot)) = true := by decide +kernel
/-- The SHA-256 of nothing begins e3 b0 c4 42 (FIPS 180-4). -/
theorem test_sha256 : (sha256 []).take 4 = [0xE3, 0xB0, 0xC4, 0x42] := by decide +kernel
/-- CRC-32C of the nine digits is E3069283 (the polynomial's check value). -/
theorem test_crc : crc32c [0x31, 0x32, 0x33, 0x34, 0x35, 0x36, 0x37, 0x38, 0x39] = 0xE3069283 := by decide +kernel

/-- Words of the RISC-V standard's encodings: immediates of every shape, M, A, Zicsr and C. -/
theorem test_riscv_words : [0x00A58593, 0x123452B7, 0x008000EF, 0xFE208EE3, 0x0085B503, 0x00A5B823, 0x02C58533, 0x40C5853B].map (rvDecode true) =
      [some (.alu .add false 11 11 (.imm 10)), some (.upper false 5 0x12345000), some (.jump 1 8), some (.branch .eq 1 2 (-4)),
       some (.load 8 true 10 11 8), some (.store 8 11 10 16), some (.alu .mul false 10 11 (.reg 12)), some (.alu .sub true 10 11 (.reg 12))] ∧
    [0x1005B52F, 0x18C5B52F, 0x00C5A52F, 0x305110F3, 0x8082, 0x41C8].map (rvDecode true) =
      [some (.lr 8 10 11), some (.sc 8 10 11 12), some (.amo .add 4 10 11 12), some (.csr .write 1 (.reg 2) 0x305), some (.jumpReg 0 1 0),
       some (.load 4 true 10 11 4)] ∧
    rvDecode false 0x0085B503 = none := by decide +kernel
/-- RISC-V privileged architecture: `ecall` in user mode is cause 8, and MIE moves to MPIE. -/
theorem test_riscv_ecall :
    (match rvExec start (.service 0) { PhCore.reset with machine := false } 0x73 4 .ecall with
     | .trap 8 _ => true
     | _ => false) = true ∧
    (let c := PhCore.trap { PhCore.reset with machine := false, pc := 0x100, mtvec := 0x400, mstatus := 8 } 8 0
     decide (c.pc = 0x400 ∧ c.mepc = 0x100 ∧ c.mcause = 8 ∧ c.mstatus = 0x80 ∧ c.machine = true)) = true := by decide +kernel

/-! ## The host's two questions, on one word -/

theorem test_table_word : decodeTableWord 32 0x00040007 = some (.brk (cw 7)) ∧ decodeTableWord 32 0x0A000000 = some (.wchild 2) := by decide +kernel
/-- Tables 05.1 and 04.5: `sadd.s32 s20, s21, 100` is the first instruction that a state runs it in. -/
theorem test_fetch : (match Machine.step (State.reset.withFetchWord 64 0x0A80006442000148) with
    | .next t => its t fun w f => decide (w.sreg 20 = 100 ∧ f.pc = 0x10008)
    | _ => false) = true := by decide +kernel

end Sys2Proof.Tests
end

