-- ==== Sys2Proof/Tests/Witness1.lean ====
section
/-! SUPPORT. Witnesses for the statements on scalar instructions, masks, control registers and control flow: states and operands that meet
the premises of each clause. -/

namespace Sys2Proof.Tests

set_option Elab.async false

open Machine

theorem executes_scalar : ∀ i ∈ ([.sadd, .ssub, .smul, .smulh, .sand, .sor, .sxor, .sandn, .sshl, .sshr, .ssar, .smin, .smax, .spopc, .sclz,
    .sctz, .sbfe, .sbfi, .sbrev, .smov, .ssel, .scmp .eq, .scmp .ne, .scmp .lt, .scmp .le, .scmp .gt, .scmp .ge] : List (SFmt → Instr)).flatMap
    (fun c => [c s0, c { s0 with ty := .n64 }, c { s0 with d := 0 }]), Starts i := Starts.all start (by decide +kernel)

/-- A field that ends at the top bit. -/
theorem witness_field : ({ s0 with src := .regs 10 12 (64 * 26 + 5) } : SFmt).fieldPos + ({ s0 with src := .regs 10 12 (64 * 26 + 5) } : SFmt).fieldWidth ≤
    ({ s0 with src := .regs 10 12 (64 * 26 + 5) } : SFmt).ty.bits ∧ Starts (.sbfe { s0 with src := .regs 10 12 (64 * 26 + 5) }) :=
  ⟨by decide, Starts.all start (is := [_]) (by decide +kernel) _ (List.mem_singleton.mpr rfl)⟩

theorem executes_scalar_float : ∀ i ∈ ([.sfadd, .sfsub, .sfmul, .sffma, .sfmin, .sfmax] : List (SFmt → Instr)).map (· { s0 with ty := .f32 }) ++
    [.scvt { s0 with ty := .f32, z := 0 }, .scvt { s0 with ty := .s64, z := 4 }], Starts i := Starts.all start (by decide +kernel)
theorem witness_scvt : ({ s0 with ty := .f32, z := 0 } : SFmt).zTy = some .s32 := by decide

/-- 1, 2 and 3 as f32, whose sums and products are not zero; and a NaN on either side. -/
theorem witness_float_arithmetic : (FF.f32.isNan 0x3F800000 = false ∧ FF.f32.isInf 0x3F800000 = false ∧ FF.f32.isNan 0x40000000 = false ∧
    FF.f32.isInf 0x40000000 = false ∧ FF.f32.isNan 0x40400000 = false ∧ FF.f32.isInf 0x40400000 = false ∧
    (FF.f32.dec 0x3F800000).rat = 1 ∧ (FF.f32.dec 0x40000000).rat = 2 ∧ (FF.f32.dec 0x40400000).rat = 3) ∧
    FF.f32.isNan 0x7F800001 = true := by decide +kernel

theorem witness_ldlit :
    Meets (.ldlit { s0 with src := .imm 0 2 }) (fun s _ _ w f => Active (.ldlit { s0 with src := .imm 0 2 }) w f ∧
      (f.pc + 8).toNat < 2 ^ 57 ∧ (f.pc + 8).toNat % 4 = 0 ∧ (readCode s w (f.pc + 8) 4).isOk = true) ∧
    Meets (.ldlit { s0 with ty := .s64, src := .imm 0 1 }) (fun _ _ _ _ f => (f.pc + 4).toNat < 2 ^ 57 ∧ (f.pc + 4).toNat % 8 ≠ 0) ∧
    Meets (.ldlit { s0 with src := .imm 0 (-0x4001) }) (fun _ _ _ _ f => 2 ^ 57 ≤ (f.pc + 4 * ((-0x4001 : BitVec 23).signExtend 64)).toNat) ∧
    Meets (.ldlit { s0 with src := .imm 0 2 }) (fun s _ _ w f => (readCode s w (f.pc + 8) 4).isOk = false) :=
  ⟨.here start (by decide +kernel), .here start (by decide +kernel), .here start (by decide +kernel),
   .here (withF start fun f => { f with pc := 0x4000000000 }) (by decide +kernel)⟩

theorem witness_pload : Meets (.pload { v0 with a := .sreg 10 }) fun s wid fid w f => Active (.pload { v0 with a := .sreg 10 }) w f ∧
    (mkIssue (.pload { v0 with a := .sreg 10 }) wid fid w f).earlyWords s (w.sreg 11 ++ w.sreg 10) 1312 = none ∧
    (resolve s { ctx := w.ctx, wg := some w.wg } (w.sreg 11 ++ w.sreg 10) 4 .ld).toOption = some (.hbm 0x200000) ∧
    (readVirt s { ctx := w.ctx, wg := some w.wg } (w.sreg 11 ++ w.sreg 10) 1312).isOk = true :=
  .here (withS start [(10, 0x200000)]) (by decide +kernel)

theorem executes_masks : ∀ i ∈ ([.mand, .mor, .mxor, .mandn, .mnot, .mmov, .mact, .mpopc, .mffs] : List (SFmt → Instr)).flatMap
    (fun c => [c { s0 with ty := .b32, d := 9, src := .regs 0 3 0 }, c { s0 with ty := .b32, d := 0, src := .regs 3 6 0 }]), Starts i :=
  Starts.all start (by decide +kernel)

theorem executes_control_registers : ∀ i ∈ [0, 1, 2, 3, 4, 5, 6, 7, 8, 9, 10, 11, 12, 13, 14, 15, 16, 31, 32].flatMap
    (fun k => [.pcrr { s0 with src := .regs 0 0 (BitVec.ofNat 14 k) }, .pcrw { s0 with src := .regs 10 0 (BitVec.ofNat 14 k) }]),
    Starts i := Starts.all start (by decide +kernel)

/-- A workgroup with a pool of two blocks, both free, and as it is when its warp holds one. -/
def pooled : State :=
  { withWarp start (fun w => { w with base := 1920, top := 1920 }) with wgs := start.wgs.map fun (p : Nat × Wg) => (p.1, { p.2 with pool := 2, free := 2 }) }
def grown : State :=
  withWarp { pooled with wgs := pooled.wgs.map fun (p : Nat × Wg) => (p.1, { p.2 with free := 1 }) } fun w => { w with top := w.top + 64 }

/-- `vacq` of no block, of more than the pool gives, and of two blocks that are free; `vrel` likewise. -/
theorem witness_blocks :
    let n (k : Nat) : SFmt := { s0 with src := .imm 0 (BitVec.ofNat 23 k) }
    Meets (.vacq (n 0)) (fun s _ _ w f => Active (.vacq (n 0)) w f ∧ (Tbl.find s.wgs w.wg).isSome ∧ (n 0).count w = 0) ∧
    Meets (.vacq (n 3)) (fun s _ _ w _ => (n 3).count w = 3 ∧ w.top = w.base ∧ (Tbl.find s.wgs w.wg).map (·.pool) = some 2) ∧
    Meets (.vacq (n 2)) (fun s _ _ w _ => (n 2).count w = 2 ∧ w.top + 128 ≤ 2048 ∧
      (Tbl.find s.wgs w.wg).map (·.free) = some 2 ∧ (Tbl.find s.wgs w.wg).map (fun g => (vacqWaiters s g).length) = some 0) ∧
    Meets (.vrel (n 0)) (fun s _ _ w _ => (Tbl.find s.wgs w.wg).isSome ∧ (n 0).count w = 0) ∧
    Meets (.vrel (n 2)) (fun _ _ _ w _ => (n 2).count w = 2 ∧ (w.top - w.base) / 64 = 1) ∧
    Meets (.vrel (n 1)) (fun s _ _ w _ => (n 1).count w = 1 ∧ (w.top - w.base) / 64 = 1 ∧ w.access = [] ∧ (Tbl.find s.wgs w.wg).isSome) :=
  ⟨.here pooled (by decide +kernel), .here pooled (by decide +kernel), .here pooled (by decide +kernel), .here pooled (by decide +kernel),
   .here grown (by decide +kernel), .here grown (by decide +kernel)⟩

theorem executes_control : ∀ i ∈ [.nop c0, .land c0, .exit c0, .yield c0, .brk c0, .trap { c0 with imm := 0xFFFF }, .br c0, .brkLoop { c0 with imm := 254 },
    .cont { c0 with imm := 1 }, .wait { c0 with imm := 0xFFFF }, .brc { cx0 with cond := .scal 10 }, .brc { cx0 with cond := .scal 10, neg := true },
    .brany cx0, .brall cx0, .jmp s0, .ret s0, .call s0, .jmp { s0 with src := .imm 0 4 }, .call { s0 with src := .imm 0 4 }, .iff cx0, .els c0, .loop c0, .vpref .l2 vm0,
    .fence .acq { s0 with z := 1 }], Starts i := Starts.all start (by decide +kernel)

/-- A token of a `wait` that is busy, and none. -/
theorem witness_wait :
    Meets (.wait { c0 with imm := 0x8000 }) (fun s _ _ w f => Active (.wait c0) w f ∧ w.tokBusy 15 = true ∧ s.bins = []) ∧
    Meets (.wait { c0 with imm := 0x8000 }) (fun _ _ _ w f => Active (.wait c0) w f ∧ (∀ k, k < 16 → w.tokBusy k = false) ∧ w.errs = []) :=
  ⟨.here (withWarp start fun w => { w with tokens := [(15, 1)] }) (by decide +kernel), .here start (by decide +kernel)⟩

/-- `brc` whose scalar is zero falls through, and one that is not jumps; a branch beyond path 0x0 and one to a multiple of 2. -/
theorem witness_branches :
    Meets (.brc { cx0 with cond := .scal 10 }) (fun _ _ _ w f => Active (.brc cx0) w f ∧ (w.sreg 10 != 0) = false) ∧
    Meets (.brc { cx0 with cond := .scal 10 }) (fun _ _ _ w f => (w.sreg 10 != 0) = true ∧ CodeTarget f.pc) ∧
    Meets (.br { c0 with imm := 0xBFFF }) (fun _ _ _ w f => Active (.br c0) w f ∧ ¬ CodeTarget (f.pc + 4 * (0xBFFF : BitVec 16).signExtend 64)) ∧
    Meets (.jmp s0) (fun _ _ _ w f => Active (.jmp s0) w f ∧ ¬ CodeTarget (w.sreg 11 ++ w.sreg 10) ∧ (w.sreg 11 ++ w.sreg 10).toNat < 2 ^ 57) :=
  ⟨.here start (by decide +kernel), .here (withS start [(10, 5)]) (by decide +kernel), .here (withF start fun f => { f with pc := 0x8000 }) (by decide +kernel),
   .here (withS start [(10, 2)]) (by decide +kernel)⟩

/-- Lanes that meet a condition, all of them, some and none. -/
theorem witness_lane_conditions :
    let c : CXFmt := { cx0 with cond := .mask 4 }
    Meets (.brany c) (fun _ _ _ w f => Active (.brany c) w f ∧ (w.act f none).getLsbD 95 = true ∧ condIn w c 95 = true ∧ condIn w c 0 = false) ∧
    Meets (.brany c) (fun _ _ _ w f => Active (.brany c) w f ∧ ∀ l, l < 96 → condIn w c l = false) ∧
    Meets (.brall { c with neg := true }) (fun _ _ _ w f => Active (.brall c) w f ∧ ∀ l, l < 96 → condIn w { c with neg := true } l = true) ∧
    Meets (.brall c) (fun _ _ _ w f => Active (.brall c) w f ∧ (w.act f none).getLsbD 0 = true ∧ condIn w c 0 = false) :=
  ⟨.here (withS start [(14, 0x80000000)]) (by decide +kernel), .here start (by decide +kernel), .here start (by decide +kernel),
   .here (withS start [(14, 0x80000000)]) (by decide +kernel)⟩

def atDepth (d : Nat) : State := withWarp start fun w => { w with depth := (List.range 96).map fun l => (l, BitVec.ofNat 8 d) }
def atLevel (n : Nat) : State := withF start fun f => { f with s := BitVec.ofNat 8 n }
/-- The lanes in two fragments. -/
def halves : State := withWarp start fun w => { w with frags := w.frags.flatMap fun (p : Nat × Frag) =>
  [(0, { p.2 with lanes := 0xFFFFFFFFFFFF }), (1, { p.2 with lanes := 0xFFFFFFFFFFFF000000000000, st := .ready })] }

/-- `if`, `else` and `loop`: with a lane left at depth 0, with none, and at a full counter or level. -/
theorem witness_structure :
    let step (w : Warp) (f : Frag) (g : Nat → Nat) : List Nat := (newDepths w (w.alv f) fun _ d => g d).map (·.2)
    let entered (w : Warp) (f : Frag) (c : CXFmt) : List Nat :=
      (newDepths w (w.alv f) fun l d => if d = 0 then (if condIn w c l then 0 else 1) else d + 1).map (·.2)
    let turned (d : Nat) := if d = 0 then 1 else if d = 1 then 0 else d
    let looped (d : Nat) := if d = 0 then 0 else d + 2
    Meets (.iff cx0) (fun _ _ _ w f => f.s ≠ 255 ∧ ∀ d ∈ entered w f cx0, d = 0) ∧
    Meets (.iff { cx0 with neg := true }) (fun _ _ _ w f => f.s ≠ 255 ∧ CodeTarget f.pc ∧ ∀ d ∈ entered w f { cx0 with neg := true }, d = 1) ∧
    Meets (.iff cx0) (fun _ _ _ w f => ∃ d ∈ step w f (· + 1), 255 < d) ∧ Meets (.iff cx0) (fun _ _ _ _ f => f.s = 255) ∧
    Meets (.els c0) (fun _ _ _ w f => ∀ d ∈ step w f turned, d = 0) ∧
    Meets (.els c0) (fun _ _ _ w f => CodeTarget f.pc ∧ ∀ d ∈ step w f turned, d = 1) ∧
    Meets (.loop c0) (fun _ _ _ w f => f.s ≠ 255 ∧ ∀ d ∈ step w f looped, d = 0) ∧
    Meets (.loop c0) (fun _ _ _ w f => f.s ≠ 255 ∧ CodeTarget f.pc ∧ ∀ d ∈ step w f looped, d = 3) ∧
    Meets (.loop c0) (fun _ _ _ w f => ∃ d ∈ step w f looped, 255 < d) ∧ Meets (.loop c0) (fun _ _ _ _ f => f.s = 255) :=
  ⟨.here start (by decide +kernel), .here start (by decide +kernel), .here (atDepth 255) (by decide +kernel), .here (atLevel 255) (by decide +kernel),
   .here (atDepth 1) (by decide +kernel), .here start (by decide +kernel), .here start (by decide +kernel), .here (atDepth 1) (by decide +kernel),
   .here (atDepth 254) (by decide +kernel), .here (atLevel 255) (by decide +kernel)⟩

/-- `endif` and `endloop` at level 0 and above it, with lanes that go back and with none; `rejoin` in a warp of one fragment and of two. -/
theorem witness_ends :
    Meets (.endif c0) (fun _ _ _ w f => w.frags.length = 1 ∧ f.s = 0) ∧ Meets (.endif c0) (fun _ _ _ w f => w.frags.length = 1 ∧ f.s = 1) ∧
    Meets (.endloop c0) (fun _ _ _ w f => w.frags.length = 1 ∧ f.s = 0) ∧
    Meets (.endloop c0) (fun _ _ _ w f => w.frags.length = 1 ∧ f.s = 1 ∧ CodeTarget f.pc ∧ (w.alv f).getLsbD 0 = true ∧ w.depthOf 0 ≤ 1) ∧
    Meets (.endloop c0) (fun _ _ _ w f => w.frags.length = 1 ∧ f.s = 1 ∧ ∀ l, l < 96 → ¬ w.depthOf l ≤ 1) ∧
    Meets (.rejoin c0) (fun _ _ _ w _ => w.frags.length = 1) ∧ Meets (.rejoin c0) (fun _ _ _ w f => 1 < w.frags.length ∧ f.skip = false) :=
  ⟨.here start (by decide +kernel), .here (atLevel 1) (by decide +kernel), .here start (by decide +kernel), .here (atLevel 1) (by decide +kernel),
   .here (withF (atDepth 2) fun f => { f with s := 1 }) (by decide +kernel), .here start (by decide +kernel), .here halves (by decide +kernel)⟩

/-- A pending TIMER; the frame area is not mapped, which keeps the park small. -/
def timed : State := { withF start fun f => { f with due := true } with
  launches := start.launches.map fun (p : Nat × Launch) => (p.1, { p.2 with lrec := { p.2.lrec with frame := 0x80000000 } }) }

/-- Words that are no instruction, in a warp of either level; and a pending TIMER whose park finds a frame. -/
theorem witness_traps :
    (∃ w f, findFrag start 0 0 = some (w, f) ∧ (decide (w.level = .u)) = true) ∧
    (∃ w f, findFrag startH 0 0 = some (w, f) ∧ (decide (w.level = .h)) = true) ∧
    (∃ w f, findFrag timed 0 0 = some (w, f) ∧ (f.due && decide (f.st = .running ∧ f.hidden = []) &&
      (match findFrag (takeTrap timed 0 0 (fetchAt timed w f.pc) .timer 0 (w.act f (fetchAt timed w f.pc).guard) [] 0 false) 0 0 with
       | some (_, f') => decide (f'.st = .parked)
       | none => false)) = true) ∧ start.focus = some (.frag 0 0) ∧ startH.focus = some (.frag 0 0) ∧ timed.focus = some (.frag 0 0) :=
  ⟨found _ _ _ _ (by decide +kernel), found _ _ _ _ (by decide +kernel), found _ _ _ _ (by decide +kernel), rfl, rfl, rfl⟩

end Sys2Proof.Tests
end

