-- ==== Sys2Proof/Tests/Witness2.lean ====
section
/-! SUPPORT. Witnesses for the statements on vector instructions, cross-lane instructions, memory, barrier objects and copies. -/

namespace Sys2Proof.Tests

set_option Elab.async false

open Machine

/-! ## Vector instructions -/

theorem executes_vector_integer : ∀ i ∈ ([.vadd, .vsub, .vmul, .vmad, .vabs, .vneg, .vmulh, .vmin, .vmax] : List (VFmt → Instr)).flatMap
    (fun c => [c v0, c { v0 with ty := .n8x4, sat := true }, c { v0 with nw := true, ty := .s64 }]), Starts i := Starts.all start (by decide +kernel)

theorem executes_vector_float : ∀ i ∈ ([.vadd, .vsub, .vmul, .vfma, .vmin, .vmax, .vabs, .vneg, .vrcp, .vrsq, .vsqrt, .vfloor, .vceil, .vtrunc,
    .vrint, .vfract, .vclass, .vgetexp, .vgetman, .vldexp, .vprof 7] : List (VFmt → Instr)).map (· { v0 with ty := .f16x2 }), Starts i :=
  Starts.all start (by decide +kernel)

theorem executes_vector_logic : ∀ i ∈ ([.vand, .vor, .vxor, .vandn, .vnot, .vshl, .vshr, .vsar, .vfshl, .vfshr, .vpopc, .vclz, .vctz, .vlut3, .vbrev,
    .vbfe, .vbfi, .vmov, .vsel, .vcmp .lt, .vcmp .unord, .vedge] : List (VFmt → Instr)).map (· v0), Starts i := Starts.all start (by decide +kernel)

/-- Conversions from and to the types that X names, with and without stochastic rounding. -/
theorem executes_conversions : (({ v0 with ty := .f16x2, x := 6 } : VFmt).srcTy.isSome ∧ ({ v0 with ty := .s16x2, x := 0 } : VFmt).srcTy.isSome) ∧
    ∀ i ∈ ([.vcvt, .vpack, .vunpack, .vdot2, .vmxs] : List (VFmt → Instr)).flatMap
      (fun c => [c { v0 with ty := .f16x2, x := 6 }, c { v0 with ty := .s16x2, x := 0 }, c { v0 with ty := .f16x2, x := 6, rc := .sr }]) ++
      [.vmxs { v0 with ty := .e4m3x4 }, .vdot4 { v0 with ty := .s8x4 }, .vdot4 { v0 with ty := .e4m3x4 }], Starts i :=
  ⟨by decide, Starts.all start (by decide +kernel)⟩

theorem executes_cross_lane : ∀ i ∈ ([.vshfl, .vbcast, .vrot, .vballot, .vred, .vscan, .vnzs, .vmatch] : List (VFmt → Instr)).map (· v0), Starts i :=
  Starts.all start (by decide +kernel)

def atStep (n : Nat) : State := withF start fun f => { f with pidx := BitVec.ofNat 32 n, hidden := [[(0, 7)]], hidAct := 1 }

/-- The deprecated forms at their first, a middle and their last step. -/
theorem witness_deprecated :
    (∀ i ∈ [.vmad24 v0, .vbfly v0, .vsad4 v0], Starts i) ∧ start.warps.all (fun p => p.2.frags.all fun q => q.2.pidx == 0) = true ∧
    AtFocus (fun _ _ _ _ f => f.pidx.toNat + 1 = 2 ∧ f.hidden.length = 1) ∧
    AtFocus (fun _ _ _ _ f => f.pidx ≠ 0 ∧ f.pidx.toNat + 1 < 3 ∧ f.hidden.length = 1) ∧
    AtFocus (fun _ _ _ _ f => f.pidx ≠ 0 ∧ f.pidx.toNat + 1 < 4 ∧ f.hidden.length = 1) ∧
    AtFocus (fun _ _ _ _ f => f.pidx.toNat + 1 = 4 ∧ f.hidden.length = 1) :=
  ⟨Starts.all start (by decide +kernel), by decide +kernel, .here (atStep 1) (by decide +kernel), .here (atStep 1) (by decide +kernel),
   .here (atStep 1) (by decide +kernel), .here (atStep 3) (by decide +kernel)⟩

/-! ## Memory -/

/-- Lanes 0 and 95 alone, by the triple m1; the pair s10:11 is 0x200000, and v0 holds offsets 16 apart. -/
def memory : State := withWarp (withS start [(3, 1), (5, 0x80000000), (10, 0x200000), (12, 8)]) fun w =>
  { w with vregs := [(15, 240), (95, 1520), (vkey 2 0, 77), (vkey 2 95, 78)] }
def vm1 : VMFmt := { vm0 with guard := some 1 }

/-- Where each lane's access lands, as the translation has it. -/
def at' (s : State) (w : Warp) (k : Kind) (n : Nat) (a : DWord) : Loc :=
  (resolve s { ctx := w.ctx, wg := some w.wg } a n k).toOption.getD (.hbm 0)

/-- `Lands`, with the place the translation has. -/
def lands (s : State) (w : Warp) (k : Kind) (n : Nat) (a : DWord) : Bool :=
  decide (pathCheck a k = none ∧ a.toNat % n = 0 ∧ absentLines s w.wg [(a, n)] = [] ∧ inRefresh s a = false ∧ lockMiss s w.wg a = false) &&
  (match resolve s { ctx := w.ctx, wg := some w.wg } a n k with
   | .ok l => !l.remote
   | .error _ => false)

theorem lands_spec {s : State} {w : Warp} {k : Kind} {n : Nat} {a : DWord} (h : lands s w k n a = true) : Lands s w k n a (at' s w k n a) := by
  unfold lands at h
  rw [Bool.and_eq_true, decide_eq_true_eq] at h
  obtain ⟨⟨h1, h2, h3, h4, h5⟩, h6⟩ := h
  refine ⟨h1, h2, h3, h4, h5, ?_⟩
  unfold at'
  split at h6
  next l e =>
    rw [e]
    exact ⟨rfl, by simpa [Except.toOption] using h6⟩
  next => exact absurd h6 (by decide)

/-- The lanes of `memory` reach memory with `vld`, `vst`, `vgld`, `vgst` and `vatom` (see `lands_spec`). -/
theorem witness_vector_memory :
    Meets (.vld .b32 vm1) (fun s wid fid w f => Active (.vld .b32 vm1) w f ∧ (Instr.vld .b32 vm1).token = none ∧
      (lanesOf (w.act f vm1.guard)).all fun l => lands s w .ld 4 ((mkIssue (.vld .b32 vm1) wid fid w f).ea vm1 4 l)) ∧
    Meets (.vst .b32 vm1) (fun s wid fid w f => Active (.vst .b32 vm1) w f ∧ (Instr.vst .b32 vm1).token = none ∧
      (lanesOf (w.act f vm1.guard)).all fun l => lands s w .st 4 ((mkIssue (.vst .b32 vm1) wid fid w f).ea vm1 4 l)) ∧
    Meets (.vgld .b32 vm1) (fun s wid fid w f => Active (.vgld .b32 vm1) w f ∧ vm1.n = 1 ∧
      (lanesOf (w.act f vm1.guard)).all fun l => lands s w .ld 4 ((mkIssue (.vgld .b32 vm1) wid fid w f).eaList vm1 0 l)) ∧
    Meets (.vgst .b32 vm1) (fun s wid fid w f => Active (.vgst .b32 vm1) w f ∧ vm1.n = 1 ∧
      (lanesOf (w.act f vm1.guard)).all fun l => lands s w .st 4 ((mkIssue (.vgst .b32 vm1) wid fid w f).eaList vm1 0 l)) ∧
    Meets (.vatom .add vm1) (fun s wid fid w f => Active (.vatom .add vm1) w f ∧
      lanesOf (w.act f vm1.guard) = [0, 95] ∧ ((lanesOf (w.act f vm1.guard)).all fun l => lands s w .at 4 ((mkIssue (.vatom .add vm1) wid fid w f).ea vm1 4 l)) ∧
      at' s w .at 4 ((mkIssue (.vatom .add vm1) wid fid w f).ea vm1 4 0) ≠ at' s w .at 4 ((mkIssue (.vatom .add vm1) wid fid w f).ea vm1 4 95)) :=
  ⟨.here memory (by decide +kernel), .here memory (by decide +kernel), .here memory (by decide +kernel), .here memory (by decide +kernel),
   .here memory (by decide +kernel)⟩

/-- `vgldl` with no entry, and with 97 entries at its second and last step, whose one entry holds offset 0. -/
def vml : VMFmt := { vm0 with guard := some 1, a := .sreg 20, c := .sreg 21, sb := 10 }
theorem witness_list_loads :
    Meets (.vgldl .b32 vml) (fun _ _ fid w f => Active (.vgldl .b32 vml) w f ∧ (selInt w fid f 2 vml.c 0).toNat = 0 ∧
      (selInt w fid f 0 vml.a 0).toNat % 4 = 0 ∧ vml.d.toNat ≤ w.top) ∧
    Meets (.vgldl .b32 vml) (fun s wid fid w f => Active (.vgldl .b32 vml) w f ∧ (selInt w fid f 2 vml.c 0).toNat = 97 ∧ f.pidx.toNat = 1 ∧
      (mkIssue (.vgldl .b32 vml) wid fid w f).stepEntries 97 1 ≠ [] ∧ vml.d.toNat + 2 ≤ w.top ∧
      lands s w .ld 4 (BitVec.ofNat 64 (2 * 2 ^ 60 + 4 * 96)) ∧ lands s w .ld 4 (w.spair 10)) :=
  ⟨.here memory (by decide +kernel), .here (withF (withS memory [(3, 1), (10, 0x200000), (21, 97)]) fun f => { f with pidx := 1 }) (by decide +kernel)⟩

theorem witness_scalar_memory :
    Meets (.sld { s0 with z := 4 }) (fun s wid fid w f => Active (.sld s0) w f ∧
      lands s w .ld (sldFn 4).bytes ((mkIssue (.sld { s0 with z := 4 }) wid fid w f).sea { s0 with z := 4 })) ∧
    Meets (.sst { s0 with z := 3 }) (fun s wid fid w f => Active (.sst s0) w f ∧
      lands s w .st 8 ((mkIssue (.sst { s0 with z := 3 }) wid fid w f).sea { s0 with z := 3 })) ∧
    Meets (.satom .cas { s0 with ty := .n64 }) (fun s wid fid w f => Active (.satom .cas s0) w f ∧
      lands s w .at 8 ((mkIssue (.satom .cas { s0 with ty := .n64 }) wid fid w f).sea { s0 with ty := .n64 })) :=
  ⟨.here memory (by decide +kernel), .here memory (by decide +kernel), .here memory (by decide +kernel)⟩

/-- `swait` on a word that meets its condition and on one that does not. -/
theorem witness_swait :
    Meets (.swait .eq s0) (fun s _ _ w f => Active (.swait .eq s0) w f ∧ lands s w .ld 4 (w.spair 10) ∧ waitPath (w.spair 10) = true ∧
      waitHolds .eq .s32 (BitVec.ofNat 64 (leNat (readLoc s (at' s w .ld 4 (w.spair 10)) 4))) (w.sval false 12) = false ∧ f.wait.again = 0) ∧
    Meets (.swait .ne s0) (fun s _ _ w f => Active (.swait .ne s0) w f ∧ lands s w .ld 4 (w.spair 10) ∧ waitPath (w.spair 10) = true ∧
      waitHolds .ne .s32 (BitVec.ofNat 64 (leNat (readLoc s (at' s w .ld 4 (w.spair 10)) 4))) (w.sval false 12) = true) :=
  ⟨.here memory (by decide +kernel), .here memory (by decide +kernel)⟩

/-- A fragment that waits in `swait`, whose timeout has run out. -/
def swaiting : State := withF (event 0 0 (coded (.swait .eq s0) memory)) fun f =>
  { f with st := .waiting, wkind := .swait, wait := { f.wait with arg := 0x200000, last := some 5, left := some 0 } }
theorem witness_swait_events : (match waiterOf swaiting .swait with
    | some x => decide (x.i = .swait .eq s0 ∧ x.f.wait.ids = [] ∧ x.f.wait.left = some 0 ∧ x.f.wait.last = some 5)
    | none => false) = true ∧ swaiting.net.reqs = [] ∧
    has (waiterOf (withF swaiting fun f => { f with wkind := .line }) .line) (fun x => decide (x.i = .swait .eq s0 ∧ x.f.wait.left = some 0)) = true :=
  ⟨by decide +kernel, by decide +kernel, by decide +kernel⟩

/-! ## Locked translations -/

/-- A range of `n` bytes at 0x200000 in a context that may lock `cap` entries, and a workgroup that holds `k` regions. -/
def range (n cap k : Nat) : State := { withS memory [(10, 0x200000), (12, BitVec.ofNat 32 n)] with
  ctxs := memory.ctxs.map fun (p : Nat × Ctx) => (p.1, { p.2 with desc := { p.2.desc with lockcap := cap } }),
  wgs := memory.wgs.map fun (p : Nat × Wg) => (p.1, { p.2 with locks := List.replicate k { base := 0x200000, len := 8, pages := [(0, 30, .locked)] } }) }
/-- The premises of every clause. -/
def lockable (s : State) (w : Warp) : Bool := (Tbl.find s.wgs w.wg).isSome && (Tbl.find s.ctxs w.ctx).isSome &&
  decide (pathCheck (w.spair 10) .ld = none ∧ pathOf (w.spair 10) = 0)
def pagesAt (s : State) (w : Warp) : List (Nat × Nat × LockSt) := (pagesOf s w.ctx 257 0x200000 0x200008).1

/-- `tlock` of no byte, of a page with room, beyond the context's cap and beyond eight regions; `tunlock` of a region and of none. -/
theorem witness_locks :
    Meets (.tlock s0) (fun s _ _ w f => Active (.tlock s0) w f ∧ lockable s w ∧ w.spair 12 = 0) ∧
    Meets (.tlock s0) (fun s _ _ w _ => lockable s w ∧ w.spair 12 = 8 ∧ (pagesOf s w.ctx 257 0x200000 0x200008).2 = none ∧
      (Tbl.find s.wgs w.wg).map (·.locks.length) = some 7 ∧
      lockedIn s (tlbOf w.ctl w.core) none + (pagesAt s w).length ≤ 256 ∧ lockedIn s (tlbOf w.ctl w.core) (some w.ctx) + (pagesAt s w).length ≤ 8) ∧
    Meets (.tlock s0) (fun s _ _ w _ => lockable s w ∧ w.spair 12 = 8 ∧ (Tbl.find s.wgs w.wg).map (·.locks.length) = some 0 ∧
      0 < lockedIn s (tlbOf w.ctl w.core) (some w.ctx) + (pagesAt s w).length) ∧
    Meets (.tlock s0) (fun s _ _ w _ => lockable s w ∧ w.spair 12 = 8 ∧ (Tbl.find s.wgs w.wg).map (·.locks.length) = some 8) ∧
    Meets (.tunlock s0) (fun s _ _ w f => Active (.tunlock s0) w f ∧ lockable s w ∧ (Tbl.find s.wgs w.wg).map (·.locks) = some []) ∧
    Meets (.tunlock s0) (fun s _ _ w _ => lockable s w ∧
      has ((Tbl.find s.wgs w.wg).bind fun g => g.locks.find? fun r => r.base == w.spair 10 && r.len == (w.spair 12).toNat)
        (fun r => r.pages.any fun p => p.2.2 != .lost)) ∧
    Meets (.tunlock s0) (fun s _ _ w _ => lockable s w ∧
      has ((Tbl.find s.wgs w.wg).bind fun g => g.locks.find? fun r => r.base == w.spair 10 && r.len == (w.spair 12).toNat)
        (fun r => r.pages.all fun p => p.2.2 == .lost)) :=
  ⟨.here (range 0 1 0) (by decide +kernel), .here (range 8 8 7) (by decide +kernel), .here (range 8 0 0) (by decide +kernel),
   .here (range 8 8 8) (by decide +kernel), .here (range 8 1 0) (by decide +kernel), .here (range 8 1 1) (by decide +kernel),
   .here { range 8 1 1 with wgs := (range 8 1 1).wgs.map fun (p : Nat × Wg) =>
     (p.1, { p.2 with locks := [{ base := 0x200000, len := 8, pages := [(0, 30, .lost)] }] }) } (by decide +kernel)⟩

/-! ## Barrier objects, barriers and copies -/

/-- The object or descriptor at offset `o`, that s20 holds; s30 is the other operand, and scratchpad words as given. -/
def object (o : Nat) (c : Word) (ws : List (Nat × Nat)) : State := { withS start [(20, BitVec.ofNat 32 o), (30, c)] with
  wgs := start.wgs.map fun (p : Nat × Wg) => (p.1, { p.2 with scratch := ws.foldl (fun m q => Memory.setLe m q.1 4 q.2) p.2.scratch }) }
def vo : VFmt := { v0 with d := 9, a := .sreg 20, b := .sreg 30, c := .vreg 0 }

/-- Objects at the last place of the scratchpad, off a multiple of 16, and beyond the end. -/
theorem witness_objects : ∀ c ∈ ([.binit, .barr, .bexp, .bwait, .btest] : List (VFmt → Instr)),
    Meets (c vo) (fun _ _ fid w f => Active (c vo) w f ∧ (selInt w fid f 0 vo.a 0).toNat % 16 = 8) ∧
    Meets (c vo) (fun s _ fid w f => Active (c vo) w f ∧ (selInt w fid f 0 vo.a 0).toNat % 16 = 0 ∧
      scratchBytes s (some w.wg) < (selInt w fid f 0 vo.a 0).toNat + 16) ∧
    Meets (c vo) (fun s _ fid w f => Active (c vo) w f ∧ (selInt w fid f 0 vo.a 0).toNat % 16 = 0 ∧
      (selInt w fid f 0 vo.a 0).toNat + 16 = scratchBytes s (some w.wg) ∧ bwaiters s w.wg (selInt w fid f 0 vo.a 0).toNat = [] ∧ w.errs = [] ∧
      wordAt s w.wg ((selInt w fid f 0 vo.a 0).toNat + 8) = (selInt w fid f 1 vo.b (lowLane (w.act f vo.guard))).toNat) ∧
    Meets (c vo) (fun s _ fid w f => Active (c vo) w f ∧ (selInt w fid f 0 vo.a 0).toNat % 16 = 0 ∧
      wordAt s w.wg ((selInt w fid f 0 vo.a 0).toNat + 8) ≠ (selInt w fid f 1 vo.b (lowLane (w.act f vo.guard))).toNat) := by
  intro c h
  simp only [List.mem_cons, List.not_mem_nil, or_false] at h
  rcases h with h | h | h | h | h <;> subst h <;>
    exact ⟨.here (object 8 0 []) (by decide +kernel), .here (object 8192 0 []) (by decide +kernel), .here (object 8176 0 []) (by decide +kernel),
      .here (object 8176 1 []) (by decide +kernel)⟩

/-- A fragment that waits in `bwait` on the object at 16, whose phase is `p` and which it waits for to leave 0. -/
def bwaiting (p : Nat) : State := withF (coded (.bwait { vo with d := 0 }) (object 16 0 [(24, p)])) fun f =>
  { f with st := .waiting, wkind := .bwait, warg := 16, wait := { f.wait with arg := 0 } }

theorem witness_waiter : ∀ p ∈ [0, 1], bwaiters (bwaiting p) 0 16 = [(0, 0)] ∧ wordAt (bwaiting p) 0 24 = p ∧
    (match issueAt (bwaiting p) 0 0 with
     | some x => decide (x.w.wg = 0 ∧ x.i = .bwait { vo with d := 0 } ∧ (selInt x.w x.fid x.f 0 vo.a 0).toNat = 16 ∧
        16 + 16 ≤ scratchBytes (bwaiting p) (some x.w.wg) ∧ (selInt x.w x.fid x.f 1 vo.b (lowLane x.act)).setWidth 64 = x.f.wait.arg ∧ x.w.errs = [])
     | none => false) = true := by decide +kernel

/-- Barrier slots at the launch's count and below it; in a workgroup of one warp, and of two of which one has not arrived. -/
def twoWarps : State := { start with
  warps := start.warps ++ start.warps.map fun (p : Nat × Warp) => (1, { p.2 with warpId := 1, index := 1 }),
  wgs := start.wgs.map fun (p : Nat × Wg) => (p.1, { p.2 with warps := [0, 1] }) }
theorem witness_slots : ∀ c ∈ ([.bar, .barcl] : List (CFmt → Instr)),
    Meets (c { c0 with imm := 16 }) (fun s _ _ w _ => (Tbl.find s.wgs w.wg).map (·.slots) = some 16) ∧
    Meets (c { c0 with imm := 15 }) (fun s _ fid w f => (has (Tbl.find s.wgs w.wg) fun g => decide (g.slots = 16 ∧ g.warps = [0] ∧ cgWarps s g.cg = [0])) ∧
      w.frags = [(fid, f)] ∧ w.ended = false ∧ (graphOf s w).isNone ∧ f.lanes &&& w.alive = f.lanes ∧ f.lanes ≠ 0) ∧
    Meets (c { c0 with imm := 15 }) (fun s wid fid w f =>
      (has (Tbl.find s.wgs w.wg) fun g => decide (g.slots = 16 ∧ g.warps = [0, 1] ∧ cgWarps s g.cg = [0, 1]) && (vacqWaiters s g).isEmpty) ∧ wid = 0 ∧
      (has (Tbl.find s.warps 1) fun v => !v.ended && v.frags.any fun p => p.2.st != .waiting) ∧
      w.frags = [(fid, f)] ∧ w.ended = false ∧ (graphOf s w).isNone ∧ f.lanes &&& w.alive = f.lanes ∧ f.lanes ≠ 0) := by
  intro c h
  simp only [List.mem_cons, List.not_mem_nil, or_false] at h
  rcases h with h | h <;> subst h <;>
    exact ⟨.here start (by decide +kernel), .here start (by decide +kernel), .here twoWarps (by decide +kernel)⟩

/-- A descriptor at 64 that fills 40 bytes from 256 on. -/
def filling (words : List (Nat × Nat)) : State := object 64 0 ([(64, 3), (64 + 16, 256), (64 + 20, 0x20000000), (64 + 24, 40)] ++ words)
def vx : VFmt := { v0 with d := 0, a := .sreg 20, b := .vreg 0, c := .vreg 0, x := 5 }
def copyAt (s : State) (w : Warp) (wid : Nat) : Copy := parseCopy w wid 5 (scratchAddr 64) (readLoc s (.scratch w.wg 64) 64)

theorem witness_xcopy :
    Meets (.xcopy vx) (fun _ _ fid w f => Active (.xcopy vx) w f ∧ (selInt w fid f 0 vx.a 0).toNat % 16 = 8) ∧
    Meets (.xcopy vx) (fun s _ fid w f => (selInt w fid f 0 vx.a 0).toNat % 16 = 0 ∧ scratchBytes s (some w.wg) < (selInt w fid f 0 vx.a 0).toNat + 64) ∧
    Meets (.xcopy vx) (fun s wid fid w f => Active (.xcopy vx) w f ∧ (selInt w fid f 0 vx.a 0).toNat = 64 ∧
      absentLines s w.wg [(scratchAddr 64, 64)] = [] ∧ copyFault s (mkIssue (.xcopy vx) wid fid w f) (copyAt s w wid) (readLoc s (.scratch w.wg 64) 64) = none ∧
      leNat (((readLoc s (.scratch w.wg 64) 64).drop 56).take 8) = 0 ∧ w.tokBusy 5 = false ∧ copiesOn s w.ctl w.core = 0) ∧
    Meets (.xcopy vx) (fun s wid fid w f => absentLines s w.wg [(scratchAddr 64, 64)] = [] ∧
      (copyFault s (mkIssue (.xcopy vx) wid fid w f) (copyAt s w wid) (readLoc s (.scratch w.wg 64) 64)).isSome) ∧
    Meets (.xcopy vx) (fun s _ _ w _ => w.tokBusy 5 = false ∧ copiesOn s w.ctl w.core = 48) :=
  ⟨.here (object 8 0 []) (by decide +kernel), .here (object 8144 0 []) (by decide +kernel), .here (filling []) (by decide +kernel),
   .here (filling [(64, 4)]) (by decide +kernel),
   .here { filling [] with copies := (after (.xcopy vx) (filling [])).copies.flatMap fun (p : Nat × Copy) => (List.range 48).map fun k => (k, p.2) } (by decide +kernel)⟩

/-- The copy that `xcopy` starts, moving its first 16 bytes. -/
def copying : State := let s := after (.xcopy vx) (filling []); event ((s.copies.map (·.1)).headD 0) 16 s
theorem witness_chunks : (has (Tbl.find copying.copies copying.ev.a) fun c =>
    decide (c.active = true ∧ ctxHalted copying c.ctx 4200 = false ∧ copySpent copying c = false ∧ c.kind = 3 ∧ c.barv = false ∧ c.chain = none ∧
      c.done = 0 ∧ c.total = 40) && (List.range 40).all fun k =>
        decide (pathOf (c.dstAt k) = 2 ∧ pathCheck (c.dstAt k) .st = none ∧ offOf (c.dstAt k) = 256 + k)) = true := by decide +kernel

end Sys2Proof.Tests
end

