-- ==== Sys2Proof/Tests/Witness7.lean ====
section
/-! SUPPORT. Witnesses for the statements on pump-house instructions, queues and commands. -/

namespace Sys2Proof.Tests

set_option Elab.async false

open Machine

/-! ## A running device with one context, one partition and one queue -/

def queue0 : Queue :=
  { used := true, epoch := 0, owner := 0, cls := .l, base := 0xA00000, slots := 16, head := 0, tail := 1, st := .running, err := 0, esub := 0,
    done := 0, tdone := 0, run := none, vec := false, ages := [(1, 0)] }
def part0 : Part := { clmask := 0xFFF, lkmask := 0x3FFFF, chmask := 0xFFFFFFFFFFFFFFFF, intake := [], tables := 0 }
/-- In BOOT 4, with a context that may use a host window, both halves' weight store, and links. -/
def device : State :=
  let c := Machine.Ctx.plain
  { State.reset with
    board := { State.reset.board with boot := 4, devnum := 3 },
    net := { State.reset.net with linksUp := 0xFFFFF, routes := [(7, 1)] },
    hbm := plainTables [], ctxs := [(0, { c with desc := { c.desc with hostlen := 0x100000, wslen0 := 8192, wslen1 := 8192 } })],
    parts := [(0, part0)], queues := [(0, queue0)], freshId := 1 }
/-- Bytes put at an address: offset, length and value of each field. -/
def fieldsAt (m : Memory) (a : Nat) (fs : List (Nat × Nat × Nat)) : Memory := fs.foldl (fun m p => Memory.setLe m (a + p.1) p.2.1 p.2.2) m
/-- A launch record of one workgroup of a warp. -/
def record : List (Nat × Nat × Nat) := [(0, 8, 0x10000), (16, 4, 1), (20, 4, 0x00010001), (24, 4, 95), (32, 4, 64), (36, 4, 64), (136, 8, 0x100000), (144, 4, 1)]

/-! ## Pump-house instructions (R338 to R340) -/

/-- Core 0 in focus with x1 and x2, in machine mode. -/
def coreAt (a b : Nat) (g : PhCore → PhCore) (s : State) : State :=
  { s with focus := some (.ph 0), ph := [(0, g { PhCore.reset with x := [(1, BitVec.ofNat 64 a), (2, BitVec.ofNat 64 b)], pc := 0x100, mtvec := 0x200 })] }
def onCore (s : State) (p : PhCore → Bool) : Bool := decide (s.focus = some (.ph 0)) && has (Tbl.find s.ph 0) p
def sramOk (a : DWord) (n : Nat) : Bool := decide (a.toNat % n = 0 ∧ a.toNat + n ≤ 0x400000)
def inQueue (s : State) (v : DWord) (p : Queue → Bool) : Bool := decide (v.toNat < 4096) && has (Tbl.find s.queues v.toNat) fun q => q.used && p q

theorem witness_ph :
    onCore (coreAt 0 0 (fun c => { c with machine := false }) device) (fun c => !c.machine) = true ∧
    onCore (coreAt 1 0x1000 id device) (fun c => c.machine && !inQueue device (c.reg 1) fun _ => true) = true ∧
    onCore (coreAt 0 0x1020 id device) (fun c => c.machine && (inQueue device (c.reg 1) fun _ => true) && !sramOk (c.reg 2) 64) = true ∧
    onCore (coreAt 0 0x3FFFC0 id device) (fun c => (inQueue device (c.reg 1) fun q => decide (q.head ≠ q.tail) &&
      (tableRead device q.owner (q.base + BitVec.ofNat 64 (64 * (q.head.toNat % q.slots))) 64).isSome) && sramOk (c.reg 2) 64) = true ∧
    (let s := { device with queues := [(0, { queue0 with tail := 0 })] }
     onCore (coreAt 0 0x1000 id s) (fun c => (inQueue s (c.reg 1) fun q => decide (q.head = q.tail)) && sramOk (c.reg 2) 64)) = true ∧
    (let s := { device with queues := [(0, { queue0 with base := 0x80000000 })] }
     onCore (coreAt 0 0x1000 id s) (fun c => inQueue s (c.reg 1) fun q => decide (q.head ≠ q.tail ∧
      tableRead s q.owner (q.base + BitVec.ofNat 64 (64 * (q.head.toNat % q.slots))) 64 = none))) = true := by decide +kernel

/-- Fields at both ends of their range: the whole word, the top bit, and one bit too far. -/
theorem witness_ph_fields : (onCore (coreAt 5 0x3F00 id device) fun c => decide ((c.reg 2).toNat = 0 + 256 * (64 - 1))) = true ∧
    (onCore (coreAt 5 0x003F id device) fun c => decide ((c.reg 2).toNat = 63 + 256 * (1 - 1) ∧ 63 + 1 ≤ 64)) = true ∧
    (onCore (coreAt 5 0x013F id device) fun c => decide ((c.reg 2).toNat = 63 + 256 * (2 - 1) ∧ 64 < 63 + 2)) = true ∧
    (onCore (coreAt 5 0x0040 id device) fun c => decide ((c.reg 2).toNat / 2 ^ 6 % 4 ≠ 0)) = true ∧
    (onCore (coreAt 5 0x4000 id device) fun c => decide ((c.reg 2).toNat / 2 ^ 14 ≠ 0)) = true := by decide +kernel

/-- `phwait x0, x1, x2` at the PC. -/
def waiting (clk : Nat) : State :=
  let s := coreAt 1 5 (fun c => { c with wait := some (0, 5, 10) }) device
  { s with clock := { s.clock with clk := BitVec.ofNat 64 clk }, sram := Memory.setLe [] 0x100 4 ((Instr.phwait 0 1 2).encode.headD 0).toNat }
theorem witness_phwait : onCore (coreAt 1 0 (fun c => { c with sig := 3 }) device) (fun c => c.machine && decide (c.sig &&& c.reg 1 ≠ 0)) = true ∧
    onCore (coreAt 1 0 (fun c => { c with sig := 2 }) device) (fun c => decide (c.sig &&& c.reg 1 = 0 ∧ c.wait = none)) = true ∧
    (∀ p ∈ [(16, false), (17, true)], has (Tbl.find (waiting p.1).ph (waiting p.1).ev.a) (fun c => decide (c.wait = some ((0 : BitVec 5).toNat, 5, 10) ∧
      (phWord (waiting p.1) (waiting p.1).ev.a).bind decodePh = some (.phwait 0 1 2) ∧ c.sig &&& c.reg 1 = 0 ∧
      decide (5 * 10 + 7 * (5 : DWord).toNat ≤ 5 * clkNat (waiting p.1)) = p.2)) = true) := by decide +kernel

/-- A record in the buffer at 0x1000 that passes its checks, a bad one, and a full intake. -/
def dispatched (fs : List (Nat × Nat × Nat)) (n : Nat) : State :=
  coreAt 0x1000 0 id { device with sram := fieldsAt [] 0x1000 fs, parts := [(0, { part0 with intake := List.range n })] }
def dispChecks (s : State) (p : Except Nat Checked → Part → Bool) : Bool := onCore s fun c => c.machine && sramOk (c.reg 1) 256 && inQueue s (c.reg 2) fun q =>
  has (Tbl.find s.ctxs q.owner) fun x => has (Tbl.find s.parts x.desc.part) fun y => p (handedRecord s q.owner (Memory.bytes s.sram (c.reg 1).toNat 256)) y
theorem witness_phdisp :
    dispChecks (dispatched record 0) (fun r p => decide (p.intake.length < 64) && match r with | .ok y => y.nodes.isEmpty | .error _ => false) = true ∧
    dispChecks (dispatched record 64) (fun r p => decide (64 ≤ p.intake.length) && match r with | .ok _ => true | .error _ => false) = true ∧
    dispChecks (dispatched [] 0) (fun r _ => match r with | .ok _ => false | .error _ => true) = true ∧
    onCore (coreAt 0x3FFF80 0 id device) (fun c => !sramOk (c.reg 1) 256) = true := by decide +kernel

/-! ## Capabilities (R287, R288) -/

/-- The capability of queue 0 with the rights given, sealed. -/
def cap (rights : Nat) : List Byte := sealCap (zeros 32) (leBytes 8 0xA00000 ++ leBytes 8 (16 + 2 ^ 48 * rights) ++ List.replicate 16 0)
theorem cap_sealed (rights : Nat) : sealCap device.board.capKey (cap rights) = cap rights := sealCap_sealCap _ _ (by simp)
theorem witness_cap : ∀ r ∈ [0, 1, 2, 3, 4, 5, 6, 7], capQueue device (cap r) = some queue0 ∧ natAt (cap r) 8 8 / 2 ^ 51 % 2 = 0 ∧
    natAt (cap r) 8 8 / 2 ^ 42 % 64 = 0 ∧ natAt (cap r) 8 8 / 2 ^ 48 % 8 = r ∧ capQid (cap r) = 0 := by decide +kernel
/-- In SRAM at 0x1000, for `phunseal` and `phseal`; and bytes that are no sealed capability, since the seal of 32 zero bytes is none of zeros. -/
def withCap (cap : List Byte) : State := coreAt 0x1000 0 id { device with sram := Memory.stores [] 0x1000 cap }
theorem witness_unseal (c : List Byte) (h : c.length = 32) : (withCap c).focus = some (.ph 0) ∧ (∃ k, Tbl.find (withCap c).ph 0 = some k ∧
    k.machine = true ∧ k.reg 1 = 0x1000 ∧ (k.reg 1).toNat % 32 = 0 ∧ (k.reg 1).toNat + 32 ≤ 0x400000) ∧ Memory.bytes (withCap c).sram 0x1000 32 = c := by
  refine ⟨rfl, ⟨_, rfl, rfl, rfl, by decide, by decide⟩, ?_⟩
  have := Memory.bytes_stores c [] 0x1000
  rw [h] at this
  exact this

/-- Of two capabilities that differ in their seals alone, one is not sealed. -/
theorem witness_unsealed (key : List Byte) : ∃ c : List Byte, c.length = 32 ∧ sealCap key c ≠ c := by
  have e : sealCap key (zeros 32) = sealCap key (zeros 24 ++ List.replicate 8 255) := rfl
  rcases Decidable.em (sealCap key (zeros 32) = zeros 32) with h | h
  · exact ⟨zeros 24 ++ List.replicate 8 255, rfl, by rw [← e, h]; decide⟩
  · exact ⟨zeros 32, rfl, h⟩

/-! ## Wake writes (R288) -/

def woken (cap : List Byte) (tail : Nat) (q : Queue) : State :=
  { device with queues := [(0, q)], ev := { State.reset.ev with data := cap ++ leBytes 4 tail ++ List.replicate 28 0 } }
theorem witness_wake_sealed (r tail : Nat) (q : Queue) : sealCap (woken (cap r) tail q).board.capKey ((woken (cap r) tail q).ev.data.take 32) =
    (woken (cap r) tail q).ev.data.take 32 := by
  have e : (cap r ++ leBytes 4 tail ++ List.replicate 28 0).take 32 = cap r := by
    simp [cap, sealCap_length, List.append_assoc]
  show sealCap _ ((cap r ++ leBytes 4 tail ++ List.replicate 28 0).take 32) = (cap r ++ leBytes 4 tail ++ List.replicate 28 0).take 32
  rw [e]
  exact cap_sealed r
def wakes (s : State) (p : List Byte → Word → Bool) : Bool := decide (s.ev.data.length = 64 ∧ s.ev.a % 64 = 0) &&
  p (s.ev.data.take 32) (BitVec.ofNat 32 (natAt s.ev.data 32 4))

/-- An idle queue that takes a new tail, up to a full ring; tails past it; a capability without WAKE, one of no queue; and a device that is
not in BOOT 4. -/
theorem witness_wakes :
    (∀ t ∈ [1, 16], wakes (woken (cap 1) t { queue0 with tail := 0, st := .idle }) (fun c tail => (let s := woken (cap 1) t { queue0 with tail := 0, st := .idle }
      decide (s.board.boot = 4) && (s.ev.data.drop 36).all (· == 0) && decide (natAt c 8 8 / 2 ^ 51 % 2 = 0 ∧ natAt c 8 8 / 2 ^ 42 % 64 = 0 ∧
      natAt c 8 8 / 2 ^ 48 % 2 = 1 ∧ capQueue s c = some { queue0 with tail := 0, st := .idle } ∧ (tail - 0).toNat ≤ 16))) = true) ∧
    wakes (woken (cap 1) 17 { queue0 with tail := 0 }) (fun c tail => decide (capQueue (woken (cap 1) 17 { queue0 with tail := 0 }) c =
      some { queue0 with tail := 0 } ∧ 16 < (tail - 0).toNat)) = true ∧
    wakes (woken (cap 6) 1 queue0) (fun c _ => decide (natAt c 8 8 / 2 ^ 48 % 2 = 0)) = true ∧
    wakes (woken (cap 1) 1 { queue0 with epoch := 1 }) (fun c _ => decide (capQueue (woken (cap 1) 1 { queue0 with epoch := 1 }) c = none)) = true ∧
    wakes { woken (cap 1) 1 queue0 with board := State.reset.board } (fun _ _ => true) = true ∧ State.reset.board.boot ≠ 4 := by decide +kernel

/-! ## Commands (R341, R342) -/

/-- The command at the head of queue 0. -/
def commanded (fs : List (Nat × Nat × Nat)) : State := { device with hbm := fieldsAt device.hbm 0xA00000 fs }
def picked (s : State) (p : Queue → List Byte → Ctx → Bool) : Bool := decide (s.board.boot = 4 ∧ picks s s.ev.a = true) &&
  has (Tbl.find s.queues s.ev.a) fun q => q.run.isNone && has (headSlot s q) fun b => has (Tbl.find s.ctxs q.owner) fun c => p q b c
def op (n : Nat) (b : List Byte) : Bool := decide (natAt b 0 1 = n ∧ natAt b 1 1 ≤ 1 ∧ natAt b 2 6 = 0)
def word0 (n : Nat) : Nat × Nat × Nat := (0, 1, n)

theorem witness_commands :
    picked (commanded [word0 5]) (fun _ b _ => op 5 b) = true ∧ picked (commanded [word0 5, (1, 1, 1)]) (fun _ b _ => op 5 b) = true ∧
    (∀ fs ∈ [[], [word0 7], [word0 5, (1, 1, 2)], [word0 5, (7, 1, 1)]], picked (commanded fs) (fun _ b _ =>
      decide (natAt b 0 1 = 0 ∨ 6 < natAt b 0 1 ∨ 1 < natAt b 1 1 ∨ natAt b 2 6 ≠ 0)) = true) ∧
    (let s := { device with queues := [(0, { queue0 with base := 0x80000000 })] }
     picks s s.ev.a = true ∧ headSlot s { queue0 with base := 0x80000000 } = none) := by decide +kernel

def hostPath (o : Nat) : Nat := 2 ^ 57 * 40 + o
theorem witness_signal :
    picked (commanded [word0 3, (8, 8, 4)]) (fun _ b c => op 3 b && !syncAddr c.desc (dwordAt b 8)) = true ∧
    picked (commanded [word0 3, (8, 8, hostPath 0xFFFF8)]) (fun _ b c => op 3 b && syncAddr c.desc (dwordAt b 8) && decide (pathOf (dwordAt b 8) = 5)) = true ∧
    picked (commanded [word0 3, (8, 8, hostPath 0x100000)]) (fun _ b c => op 3 b && !syncAddr c.desc (dwordAt b 8)) = true ∧
    picked (commanded [word0 3, (8, 8, 0x500008), (16, 8, 9)]) (fun q b c => op 3 b && syncAddr c.desc (dwordAt b 8) && decide (pathOf (dwordAt b 8) = 0) &&
      match writeVirt (commanded [word0 3, (8, 8, 0x500008), (16, 8, 9)]) { ctx := q.owner, wg := none } (dwordAt b 8) ((b.drop 16).take 8) with
      | .ok t => decide (t.queues = device.queues ∧ t.board = device.board ∧ t.clock = device.clock)
      | .error _ => false) = true := by decide +kernel
theorem witness_wait_command :
    picked (commanded [word0 4, (8, 8, 4)]) (fun _ b c => op 4 b && !syncAddr c.desc (dwordAt b 8)) = true ∧
    (∀ v ∈ [0, 1], picked (commanded [word0 4, (8, 8, 0x500008), (16, 8, v)]) (fun q b c => op 4 b && syncAddr c.desc (dwordAt b 8) &&
      has (waitWord (commanded [word0 4, (8, 8, 0x500008), (16, 8, v)]) q.owner (dwordAt b 8)) fun x => decide ((natAt b 16 8 ≤ x) ↔ v = 0)) = true) ∧
    (∀ v ∈ [0, 1], waitWord device 0 0x500008 = some 0 ∧ decide ((BitVec.ofNat 64 v).toNat ≤ 0) = decide (v = 0)) ∧
    (∀ p ∈ [(2099, false), (2100, true)], let s := { device with clock := { device.clock with clk := BitVec.ofNat 64 p.1 },
                                                                 queues := [(0, { queue0 with run := some (.wait 0 0x500008 1 1) })] }
      has (Tbl.find s.queues s.ev.a) (fun q => decide (q.run = some (.wait 0 0x500008 1 1))) = true ∧ decide (0 + 2100 * 1 ≤ clkNat s) = p.2) := by decide +kernel

/-- A FILL that runs, one whose half is busy, and one across the halves. -/
def busyHalf (s : State) : State := { s with launches := [(0, Machine.Launch.plain .u false [])] }
theorem witness_fill :
    picked (commanded [word0 2, (8, 8, 0x500000), (16, 8, 0), (24, 8, 128)]) (fun q b c => op 2 b && fillOk c.desc (dwordAt b 8) (natAt b 16 8) (natAt b 24 8) &&
      !grantBusy (commanded []) (natAt b 16 8 / 2 ^ 29) && (tableRead (commanded []) q.owner (dwordAt b 8) (natAt b 24 8)).isSome) = true ∧
    picked (busyHalf (commanded [word0 2, (8, 8, 0x500000), (16, 8, 0), (24, 8, 128)])) (fun _ b c => op 2 b &&
      fillOk c.desc (dwordAt b 8) (natAt b 16 8) (natAt b 24 8) && grantBusy (busyHalf (commanded [])) (natAt b 16 8 / 2 ^ 29)) = true ∧
    picked (commanded [word0 2, (8, 8, 0x500000), (16, 8, 2 ^ 29 - 64), (24, 8, 128)]) (fun _ b c => op 2 b &&
      !fillOk c.desc (dwordAt b 8) (natAt b 16 8) (natAt b 24 8)) = true := by decide +kernel

theorem witness_wake_command :
    (∀ p ∈ [(144, 0x500000), (7, 2 ^ 57), (7, 0x500020)], picked (commanded [word0 6, (8, 4, p.1), (16, 8, p.2)]) (fun _ b _ => op 6 b &&
      decide (143 < natAt b 8 4 ∨ 2 ^ 57 ≤ (dwordAt b 16).toNat ∨ (dwordAt b 16).toNat % 64 ≠ 0)) = true) ∧
    picked (commanded [word0 6, (8, 4, 7), (16, 8, 0x500000)]) (fun q b _ => op 6 b && decide (natAt b 8 4 ≤ 143 ∧ (dwordAt b 16).toNat < 2 ^ 57 ∧
      (dwordAt b 16).toNat % 64 = 0 ∧ (tableRead (commanded []) q.owner (dwordAt b 16) 64).isSome ∧ peerWay (commanded []) q.owner (natAt b 8 4) = .links)) = true := by
  decide +kernel

/-- LAUNCH of a good record at 0x600000, of a bad one, with a deadline, and in a class that the context does not have. -/
def launching (fs : List (Nat × Nat × Nat)) (deadline : Nat) (classes : BitVec 5) : State :=
  let s := commanded [word0 1, (8, 8, 0x600000), (16, 8, deadline)]
  { s with hbm := fieldsAt s.hbm 0x600000 fs, ctxs := s.ctxs.map fun (p : Nat × Ctx) => (p.1, { p.2 with desc := { p.2.desc with classes := classes } }) }
def launches (s : State) (p : List Byte → Ctx → Bool) : Bool := picked s fun q b c => op 1 b && decide (q.cls ≠ .d ∧ q.cls ≠ .v ∧
  (dwordAt b 8).toNat % 256 = 0) && (has (Tbl.find s.parts c.desc.part) fun p => decide (p.intake.length < 64)) &&
  decide (q.owner = 0 ∧ dwordAt b 8 = 0x600000) && p b c
def good (s : State) (rec : List Byte) : Bool := match checkRecord s 0 rec with
  | .ok y => y.nodes.isEmpty
  | .error _ => false
def launchBytes : List Byte :=
  leBytes 16 0x10000 ++ leBytes 4 1 ++ leBytes 4 0x00010001 ++ leBytes 8 95 ++ leBytes 4 64 ++ leBytes 4 64 ++ zeros 96 ++ leBytes 8 0x100000 ++ leBytes 4 1 ++
    zeros 108
/-- The record that LAUNCH reads; class and deadline stand elsewhere. -/
theorem witness_launch_record : tableRead (launching record 0 31) 0 0x600000 256 = some launchBytes ∧
    tableRead (launching [] 0 31) 0 0x600000 256 = some (zeros 256) := by decide +kernel
theorem witness_launch :
    launches (launching record 0 29) (fun b c => decide (dwordAt b 16 = 0) && !classAllowed c.desc .l) = true ∧
    launches (launching record 0 31) (fun b c => decide (dwordAt b 16 = 0) && classAllowed c.desc .l) = true ∧
    (let s := launching record 0 31
     let t := { s with parts := s.parts.map fun (p : Nat × Part) => (p.1, { p.2 with intake := List.range 64 }) }
     picked t (fun q b c => op 1 b && decide (q.cls ≠ .d ∧ q.cls ≠ .v ∧ dwordAt b 16 = 0) && classAllowed c.desc q.cls &&
       (has (Tbl.find t.parts c.desc.part) fun p => decide (64 ≤ p.intake.length)))) = true ∧
    launches (launching [] 0 31) (fun b _ => decide (dwordAt b 16 = 0)) = true ∧
    launches (launching record 9 31) (fun b _ => decide (dwordAt b 16 ≠ 0)) = true ∧
    good (launching record 0 31) launchBytes = true ∧ good (launching record 0 29) launchBytes = true ∧
    good (launching [] 0 31) (zeros 256) = false := by decide +kernel

end Sys2Proof.Tests
end

