-- ==== Sys2Proof/Tests/Witness10.lean ====
section
/-! SUPPORT. Witnesses for the statements on the scheduler, landings and halts, and on operands, encodings and steps. -/

namespace Sys2Proof.Tests

set_option Elab.async false

open Machine

/-! ## The scheduler (R32, R289, R292, R297 to R302, R310) -/

def rec0 : LaunchRec := Machine.LaunchRec.plain
def partOn (s : State) : State := { s with parts := [(0, part0)], board := device.board }
/-- The dispatcher would take core `k`. -/
def bestIs (s : State) (L : Launch) (p : Part) (need : Room) (k : Nat) : Bool :=
  let ok (j : Nat) : Bool := p.clmask.getLsbD (j / 8) && (fits s false j need fun _ => false) &&
    waysFit s (j / 48) L.ctx L.lrec.ways fun _ => false
  decide (k < 96) && ok k && (List.range 96).all fun j => !ok j || decide (warpsOn s false k < warpsOn s false j) ||
    (warpsOn s false k == warpsOn s false j && decide (k ≤ j))
def aloneIs (s : State) (lid : Nat) (p : Launch → Ctx → Part → Bool) : Bool := match s.launches with
  | [(k, L)] => k == lid && !L.ctl && L.cluster.isNone && L.graph.isNone && decide (L.lrec.cgwg = 0 ∧ L.lrec.nnodes = 0) &&
    (has (Tbl.find s.ctxs L.ctx) fun c => c.halted.isNone && decide (c.desc.part = s.ev.a) && has (Tbl.find s.parts s.ev.a) fun q => p L c q)
  | _ => false
/-- A grid of two workgroups of 100 lanes, neither placed. -/
def grid : State := { device with launches := [(0, { Machine.Launch.plain .u false [] with nextWg := 0, lrec := { rec0 with gx := 2, wx := 10, wy := 10, accs := 24 } })] }
theorem witness_dispatch : aloneIs grid 0 (fun L _ p => decide (L.nextWg < L.lrec.gx * L.lrec.gy * L.lrec.gz ∧ fillHalves grid = []) &&
    grid.cgs.all (fun q => q.2.launch != 0) && bestIs grid L p (L.lrec.room ((100 + 95) / 96)) 0) = true := by decide +kernel

/-- The workgroup of `start`, saved. -/
def away : State := partOn { withWarp start fun w => { w with resid := .saved } with
  wgs := start.wgs.map fun (p : Nat × Wg) => (p.1, { p.2 with resid := .saved }) }
theorem witness_restore : aloneIs away 0 (fun L _ p => bestIs away L p { L.lrec.room 1 with ents := 1 } 0 && !handlerSaved away L.ctx) = true ∧
    away.cgs.map (fun p => (p.1, p.2.launch, p.2.wgs)) = [(0, 0, [0])] ∧ away.walks = [] ∧
    has (Tbl.find away.wgs 0) (fun g => g.resid == .saved && decide (g.warps = [0] ∧ g.locks = [] ∧ g.launch = 0)) = true ∧
    has (Tbl.find away.warps 0) (fun w => !w.restart && !w.ctl && decide (w.frags.length + w.kept = 1) && w.frags.all fun q => q.2.st != .waiting) = true := by decide +kernel

def withTrapQueue (tq : List (Nat × Nat)) (h : Option LaunchRec) (ls : Tbl Launch) : State :=
  { device with ctxs := device.ctxs.map (fun (p : Nat × Ctx) => (p.1, { p.2 with tq := tq, handler := h })), launches := ls }
def handlers (s : State) : Bool := s.launches.any fun q => q.2.ctx == s.ev.a && q.2.level == .h
theorem witness_handler_launch :
    (∀ s ∈ [withTrapQueue [] (some rec0) [], withTrapQueue [(0, 1)] none [], withTrapQueue [(0, 1)] (some rec0) [(0, Machine.Launch.plain .h true [])]],
      has (Tbl.find s.ctxs s.ev.a) (fun c => c.tq.isEmpty || c.handler.isNone || handlers s) = true) ∧
    (let s := withTrapQueue [(0, 1)] (some rec0) []
     has (Tbl.find s.ctxs s.ev.a) (fun c => !c.tq.isEmpty && c.halted.isNone && decide (c.handler = some rec0) && !handlers s) = true) := by decide +kernel

def atClk (n : Nat) (s : State) : State := { s with clock := { s.clock with clk := BitVec.ofNat 64 n } }
theorem witness_budgets : (atClk 2099999 device).clock.clk.toNat / 2100000 ≤ device.period ∧ device.period < (atClk 2100000 device).clock.clk.toNat / 2100000 ∧
    (has (Tbl.find device.ctxs 0) fun c => decide ((({ c with charged := [(8, 5), (16, 7)] } : Ctx).charged.map (·.1)).Nodup)) = true := by decide +kernel

/-- Workgroup 0 stands descheduled since CLK 0, and its launch has `n` workgroups, of which eight take the one cluster whole. -/
def idled (clk n : Nat) : State := atClk clk { partOn (withF start fun f => { f with st := .waiting, wkind := .swait }) with
  parts := [(0, { part0 with clmask := 1 })],
  wgs := start.wgs.map (fun (p : Nat × Wg) => (p.1, { p.2 with idle := some 0 })),
  launches := start.launches.map fun (p : Nat × Launch) => (p.1, { p.2 with lrec := { p.2.lrec with gx := n, cgwg := 8, scrl := 4096 } }) }
theorem witness_eviction : (has (Tbl.find (idled 20999 16).cgs (idled 20999 16).ev.a) fun c => !cgIdle (idled 20999 16) c) = true ∧
    (has (Tbl.find (idled 21000 1).cgs (idled 21000 1).ev.a) fun c => cgIdle (idled 21000 1) c && !waitsForRoom (idled 21000 1) c.launch) = true ∧
    (has (Tbl.find (idled 21000 16).cgs (idled 21000 16).ev.a) fun c => cgIdle (idled 21000 16) c && waitsForRoom (idled 21000 16) c.launch) = true ∧
    (idled 21000 16).pix = [] ∧ (idled 21000 16).walks = [] := by decide +kernel

/-- Beside the workgroup of `start`, of class B on core 0, a launch waits that takes the scratchpads of a whole cluster. -/
def wanting (cls : Cls) (clmask : BitVec 12) (r : Resid) : State :=
  let rec1 : LaunchRec := { rec0 with gx := 8, cgwg := 8, wx := 1, scrl := 4096 }
  { partOn start with
    ev := { start.ev with a := 7 },
    parts := [(0, { part0 with clmask := clmask })],
    wgs := start.wgs.map (fun (p : Nat × Wg) => (p.1, { p.2 with resid := r })),
    launches := start.launches ++ [(7, { Machine.Launch.plain .u false [] with cls := cls, nextWg := 0, lrec := rec1 })] }
def wants (s : State) (p : Nat → Waiter → Item → Bool) : Bool := has (Tbl.find s.launches s.ev.a) fun L => has (partOf s L.ctx) fun part =>
  has ((Sys2Proof.waiting s part).find? fun q => q.1.id == s.ev.a) fun x => p part x.1 x.2
def roomSoon (s : State) (part : Nat) (x : Waiter) (i : Item) : Bool := (place s part x.id x.L i Machine.Wg.leaves).isSome
theorem witness_preemption :
    wants (wanting .g 3 .resident) (fun part x i => roomSoon (wanting .g 3 .resident) part x i) = true ∧
    wants (wanting .g 1 .leaving) (fun part x i => roomSoon (wanting .g 1 .leaving) part x i) = true ∧
    wants (wanting .b 1 .resident) (fun part x i => (victimChoices (wanting .b 1 .resident) part x.id x.L i).isEmpty) = true ∧
    wants (wanting .g 1 .resident) (fun part x i => !roomSoon (wanting .g 1 .resident) part x i &&
      !(victimChoices (wanting .g 1 .resident) part x.id x.L i).isEmpty) = true ∧
    (wanting .g 1 .resident).pix = [] ∧ (wanting .g 1 .resident).walks = [] ∧ ((wanting .g 1 .resident).wgs.map (·.1)).Nodup := by decide +kernel

/-- Workgroup 0 is leaving. -/
def leaving (restart peer : Bool) : State := partOn { withF (withWarp start fun w => { w with resid := .leaving, restart := restart }) fun f =>
    { f with st := if peer then .running else .ready, wkind := if peer then .peer else .none } with
  wgs := start.wgs.map fun (p : Nat × Wg) => (p.1, { p.2 with resid := .leaving }) }
def savesOne (s : State) (p : Warp → Bool) : Bool :=
  decide ((s.wgs.filter fun p => p.2.ctl == decide (s.ev.a ≠ 0) && p.2.core == s.ev.b && p.2.ctx == s.ev.c && p.2.resid == .leaving).map (·.1) = [0]) &&
  (has (Tbl.find s.wgs 0) fun g => decide (g.warps = [0])) && has (Tbl.find s.warps 0) p && (Tbl.find s.ctxs s.ev.c).isSome
def quiet (s : State) (w : Warp) : Bool := !hasRows s 0 && w.frags.all fun p => p.2.st != .running || p.2.wkind != .peer
theorem witness_saves :
    savesOne (leaving false true) (fun w => w.frags.any fun p => p.2.st == .running && p.2.wkind == .peer) = true ∧
    savesOne (leaving false false) (fun w => quiet (leaving false false) w && !w.restart) = true ∧
    (let s := leaving false false
     (∀ p ∈ s.wgs, p.2.ctl = false → p.2.core = 0 → p.2.ctx ≠ s.ev.c → p.2.resid ≠ .leaving) ∧
     let t := { s with wgs := s.wgs ++ (s.wgs.map fun (p : Nat × Wg) => (9, { p.2 with ctx := 1, warps := [] })) }
     savesOne t (fun w => quiet t w && !w.restart && decide (t.mops = [])) = true ∧
     ∃ p ∈ t.wgs, p.2.ctl = false ∧ p.2.core = 0 ∧ p.2.ctx ≠ t.ev.c ∧ p.2.resid = .leaving) ∧
    (let s := withWarp (leaving true false) fun w => { w with pcr := { w.pcr with rlab := 2 } }
     let t := { s with launches := s.launches.map fun (p : Nat × Launch) => (p.1, { p.2 with lrec := { p.2.lrec with rdisc := true } }) }
     savesOne t (fun w => quiet t w && w.restart && w.restartable t && decide (w.frags.length = 1)) = true) ∧
    savesOne (leaving true false) (fun w => quiet (leaving true false) w && w.restart && decide (w.frags.length = 1) &&
      w.frags.all (fun p => p.2.st != .parked) && (Tbl.find (leaving true false).launches w.launch).isSome) = true ∧
    (leaving false false).sigs = [] := by decide +kernel

def ending (n : Nat) (wgs : Tbl Wg) (run : Option Running) : State := { device with
  launches := [(0, { Machine.Launch.plain .u false [] with queue := some 0, nextWg := n })], wgs := wgs, queues := [(0, { queue0 with run := run })] }
def free (s : State) : Bool := !(s.wgs.any (fun p => p.2.launch == s.ev.a) || s.pix.any (fun p => p.2.launch == s.ev.a || p.2.graph == some s.ev.a) ||
  s.walks.any fun p => p.2.launch == s.ev.a)
theorem witness_launch_ends :
    (has (Tbl.find (ending 1 start.wgs none).launches 0) fun L => decide (L.lrec.nnodes = 0) && !free (ending 1 start.wgs none)) = true ∧
    (has (Tbl.find (ending 0 [] none).launches 0) fun L => decide (L.lrec.nnodes = 0 ∧ L.nextWg < L.lrec.gx * L.lrec.gy * L.lrec.gz)) = true ∧
    (let s := ending 1 [] (some (.launch 0 queue0.head))
     (has (Tbl.find s.launches 0) fun L => decide (L.lrec.nnodes = 0 ∧ L.lrec.gx * L.lrec.gy * L.lrec.gz ≤ L.nextWg ∧ L.queue = some 0) && free s) = true ∧
     has (Tbl.find s.queues 0) (fun q => decide (q.run = some (.launch 0 q.head))) = true) ∧
    (let s := ending 1 [] (some (.handed 0))
     (has (Tbl.find s.launches 0) fun L => decide (L.lrec.gx * L.lrec.gy * L.lrec.gz ≤ L.nextWg ∧ L.queue = some 0) && free s) = true ∧
     has (Tbl.find s.queues 0) (fun q => decide (q.run = some (.handed s.ev.a))) = true) := by decide +kernel

/-! ## The quarter's choice, landings, windows and halts (R25, R53, R161, R317 to R320) -/

def fitIn (s : State) : List Choice := let r := readyIn s (decide (s.ev.a ≠ 0)) s.ev.b s.ev.c; r.filter (choosable s r)
def resting : State := withF start fun f => { f with st := .ready }
theorem witness_choice : slotHeld start (decide (start.ev.a ≠ 0)) start.ev.b start.ev.c = true ∧ fitIn (withF start fun f => { f with st := .parked }) = [] ∧
    heldWarp (withF start fun f => { f with st := .parked }) (decide (start.ev.a ≠ 0)) start.ev.b start.ev.c = none ∧
    heldWarp (withF start fun f => { f with st := .held }) (decide (start.ev.a ≠ 0)) start.ev.b start.ev.c = some 0 ∧
    slotHeld (withF start fun f => { f with st := .held }) (decide (start.ev.a ≠ 0)) start.ev.b start.ev.c = false ∧
    heldWarp resting (decide (resting.ev.a ≠ 0)) resting.ev.b resting.ev.c = none ∧
    slotHeld resting (decide (resting.ev.a ≠ 0)) resting.ev.b resting.ev.c = false ∧ (fitIn resting).length = 1 ∧
    (resting.warps.map (·.1)).Nodup ∧ (∀ p ∈ resting.warps, (p.2.frags.map (·.1)).Nodup) := by decide +kernel

def flight : Access :=
  { tok := some 5, frag := 0, vdst := [(vkey 8 0, 7)], sdst := [(20, 9)], lanes := 1, tiles := [1], accs := [2], tilesR := [], accsR := [],
    tdst := [(16384, 3)], adst := [(8192, 4)], lines := [] }
def flying : State := withWarp start fun w => { w with access := [(0, flight)] }
theorem witness_landing : flying.ev.c = 0 ∧ (has (Tbl.find flying.warps flying.ev.a) fun w => !w.ended && !ctxHalted flying w.ctx 400 &&
    (has (Tbl.find w.access flying.ev.b) fun a => decide ((a.vdst.map (·.1)).Nodup ∧ (a.sdst.map (·.1)).Nodup ∧ (a.tdst.map (·.1)).Nodup ∧
      (a.adst.map (·.1)).Nodup ∧ (∀ p ∈ a.sdst, 3 ≤ p.1)))) = true ∧ ownedAccess flying flying.ev.a flying.ev.b = false ∧
    ctxHalted (atClk 400 { flying with ctxs := flying.ctxs.map fun (p : Nat × Ctx) => (p.1, { p.2 with halted := some (0x14, 0, 0, 0) }) }) 0 400 = false ∧
    ctxHalted (atClk 401 { flying with ctxs := flying.ctxs.map fun (p : Nat × Ctx) => (p.1, { p.2 with halted := some (0x14, 0, 0, 0) }) }) 0 400 = true := by
  decide +kernel
def outside (host : Bool) (kind c : Nat) : State :=
  let r : Req := { host := host, warp := 0, frag := 0, lane := none, copy := none, ctx := 0, tag := 9, addr := 0x300000, bytes := 4,
                   kind := kind, elem := 0, data := [1, 2, 3, 4], tok := none, sent := 0 }
  { start with ev := { start.ev with a := 9, c := c }, net := { start.net with reqs := [(9, r)] } }
theorem witness_requests : ∀ p ∈ [(false, 1, 1), (true, 1, 1), (true, 2, 1), (true, 1, 2)],
    (has (Tbl.find (outside p.1 p.2.1 p.2.2).net.reqs (outside p.1 p.2.1 p.2.2).ev.a) fun r => decide (r.host = p.1 ∧ r.kind = p.2.1)) = true := by decide +kernel
/-- Stack 0 is closed for refresh from CLK 0 on, stack 1 from 67,200 on. -/
theorem witness_windows : let opens (clk k : Nat) : Bool := decide (((atClk clk device).clock.clk.toNat + 67200 * k) % 134400 < 8400)
    opens 8399 0 = true ∧ opens 8400 0 = false ∧ opens 67199 1 = false ∧ opens 67200 1 = true := by decide +kernel
theorem witness_errors : Tbl.find { device with ctxs := [] }.ctxs device.ev.a = none ∧
    (has (Tbl.find device.ctxs device.ev.a) fun c => c.halted.isNone) = true := by decide +kernel

/-- Slot 3 of workgroup 0 has a round of `n` cycles, and `k` trap frames of its launch are taken. -/
def timedOut (n k : Nat) (desc : CtxDesc → CtxDesc) : State := { start with
  ev := { start.ev with c := 3 },
  ctxs := start.ctxs.map (fun (p : Nat × Ctx) => (p.1, { p.2 with desc := desc p.2.desc })),
  wgs := start.wgs.map (fun (p : Nat × Wg) => (p.1, { p.2 with rounds := [(3, { count := n, pc := 0x10004 })] })),
  launches := start.launches.map fun (p : Nat × Launch) => (p.1, { p.2 with taken := (List.range k).map fun i => (i, none) }) }
def watched (s : State) (p : Ctx → Round → Launch → Bool) : Bool := has (Tbl.find s.wgs s.ev.b) fun g => has (Tbl.find s.ctxs g.ctx) fun c =>
  has (roundOf s g (decide (s.ev.a ≠ 0)) s.ev.c) fun r => has (Tbl.find s.launches g.launch) fun L => L.graph.isNone && c.halted.isNone && p c r L
theorem witness_watchdog :
    watched (timedOut 16777215 0 id) (fun c r _ => decide (c.desc.wdog = 0 ∧ r.count < 16777216)) = true ∧
    watched (timedOut 1024 7 fun d => { d with wdog := 1 }) (fun c r L => decide (1024 * c.desc.wdog ≤ r.count ∧ c.desc.wdog ≠ 0 ∧ freeRun L 2 = none)) = true ∧
    watched (timedOut 1024 6 fun d => { d with wdog := 1 }) (fun c r L => decide (1024 * c.desc.wdog ≤ r.count ∧ c.desc.wdog ≠ 0) &&
      (has (freeRun L 2) fun i => decide ((L.lrec.frame + BitVec.ofNat 64 (2048 * i)).toNat + 4096 ≤ 2 ^ 57))) = true ∧
    (timedOut 1024 6 id).sigs = [] := by decide +kernel
/-- The two frames translate, byte by byte, to themselves. -/
theorem witness_watchdog_frames : (List.range 16).all (fun q => match translate (timedOut 1024 6 id) 0 (0x103000 + 256 * q) .st false false with
    | .ok m => decide (m = 0x103000 + 256 * q)
    | .error _ => false) = true := by decide +kernel

def halting (h : Option (Nat × Nat × DWord × Nat)) : State := { partOn start with
  queues := [(0, queue0)],
  ctxs := start.ctxs.map (fun (p : Nat × Ctx) => (p.1, { p.2 with halted := h, desc := { p.2.desc with csave := 0x800000, csavelen := 0x1000 } })) ++
    [(1, Machine.Ctx.plain)] }
theorem witness_halts : (has (Tbl.find (halting none).ctxs (halting none).ev.a) fun c => c.halted.isNone) = true ∧
    (let s := halting (some (0x14, 3, 0, 0))
     has (Tbl.find s.ctxs s.ev.a) (fun c => decide (c.halted = some (0x14, 3, 0, 0) ∧ s.sigs = [] ∧
       64 * ((stoppedUnits s s.ev.a).length + (if c.capture.isSome then 1 else 0) + 1) ≤ c.desc.csavelen ∧ stoppedUnits s s.ev.a ≠ [])) = true) := by
  decide +kernel

/-! ## Operands, encodings, steps and reset -/

theorem witness_latch : (has (findFrag (withF start fun f => { f with latches := [[(3, 9)]] }) 0 0) fun p => decide (p.2.replay = none) &&
    (p.2.latches[0]?).isSome) = true ∧ (0 : BitVec 9).toNat ≤ 6 ∧ ([0, 1, 5, 5 / 32, 0, 0, 0] : List Nat)[(6 : BitVec 9).toNat]? = some 0 ∧
    ({ s0 with src := .regs 10 12 0 } : SFmt).src = .regs 10 12 0 ∧ ({ s0 with src := .imm 10 (-1) } : SFmt).src = .imm 10 (-1) := by decide

def vadd0 : VFmt := { v0 with c := .vreg 0 }
/-- A well-formed instruction of each shape; and first granules of one, two and three, and of none. -/
theorem witness_shapes : (Instr.nop c0).wellFormed = true ∧ (Instr.iff { cx0 with lp := 0 }).wellFormed = true ∧ (Instr.sadd s0).wellFormed = true ∧
    (Instr.vadd vadd0).wellFormed = true ∧ (Instr.vld .b32 { vm0 with c := .vreg 0 }).wellFormed = true ∧ Instr.wdone.wellFormed = true ∧ (Instr.phring 1 2 3).wellFormed = true ∧
    ((0xC0000000 : Word).extractLsb' 30 2 = 3) := by decide +kernel

def turn (t : Turn) (s : State) : State := { s with turns := [t], focus := none }
def issues (s : State) (p : Warp → Frag → Bool) : Bool := decide (s.turns = [.issue 0 0]) && has (findFrag s 0 0) fun q => decide (q.1.resid = .resident ∧
  ctxHalted s q.1.ctx 400 = false ∧ q.2.st = .running ∧ q.2.wkind ≠ .peer) && p q.1 q.2
def granule (s : State) (w : Warp) (f : Frag) (j : Nat) (g : Word) : Bool := match readCode s w (f.pc + BitVec.ofNat 64 (4 * j)) 4 with
  | .ok bs => decide (g = BitVec.ofNat 32 (leNat bs))
  | .error _ => false
theorem witness_steps :
    issues (turn (.issue 0 0) (withF (withWarp start fun w => { w with timer := true }) fun f => { f with due := true })) (fun w f => w.timer && f.due &&
      !w.landDue) = true ∧
    (let s := turn (.issue 0 0) (coded (.vadd vadd0) start)
     issues s (fun w f => !w.timer && granule s w f 0 ((Instr.vadd vadd0).encode.getD 0 0) && granule s w f 1 ((Instr.vadd vadd0).encode.getD 1 0) &&
       granule s w f 2 ((Instr.vadd vadd0).encode.getD 2 0) && decide ((Instr.vadd vadd0).encode.length = 3 ∧ granulesOf ((Instr.vadd vadd0).encode.getD 0 0) = 3)) = true) ∧
    (let s := turn (.issue 0 0) { start with hbm := Memory.setLe start.hbm 0x10000 4 0xC0000000 }
     issues s (fun w f => !w.timer && granule s w f 0 0xC0000000 && decide (granulesOf 0xC0000000 = 1) && !(decodeGranules 0xC0000000 0 0).isOk) = true) ∧
    (let s := turn (.issue 0 0) (withF start fun f => { f with pc := 0x80000000 })
     issues s (fun w f => !w.timer && match readCode s w f.pc 4 with | .ok _ => false | .error _ => true) = true) := by decide +kernel
/-- A restart address with a `land`, and one with a word that is none. -/
def restarting (g : Word) : State :=
  let a := 0x10000 + 4 * start.warps.foldl (fun m p => m + p.2.pcr.rlab.toNat) 0
  turn (.issue 0 0) (withF { withWarp start fun w => { w with landDue := true } with hbm := Memory.setLe start.hbm a 4 g.toNat } fun f =>
    { f with pc := BitVec.ofNat 64 a })
def landsAt (g : Word) : Bool := match decodeGranules g 0 0 with
  | .ok (.land _) => true
  | _ => false
def restartsAt (g : Word) : Bool := issues (restarting g) fun w f => w.landDue && !w.timer && granule (restarting g) w f 0 g &&
  has (Tbl.find (restarting g).launches w.launch) fun L => decide (f.pc = L.lrec.kstart + BitVec.ofNat 64 (4 * w.pcr.rlab.toNat))
theorem witness_restart_land : restartsAt 0x00010000 = true ∧ landsAt 0x00010000 = true ∧ restartsAt 0 = true ∧ landsAt 0 = false := by decide +kernel
theorem witness_other_steps :
    decide (decodeWalk 0xC0000000 = some .wdone) = true ∧
    (let s := { placeWalk State.reset 0xC0000000 with turns := [.walk 0] }
     has (Tbl.find s.walks 0) (fun k => decide (k.resid = .resident ∧ k.pend = none ∧ ctxHalted s k.ctx 2100 = false ∧ budgetSpent s k.ctx k.cls 4 = false ∧
       k.rebuild = false) && has (Tbl.find s.launches k.launch) fun L => has (L.walks[k.prog]?) fun o => has o fun p => decide (p.code[k.upc]? = some 0xC0000000)) = true) ∧
    (let s := { placePh State.reset 0x00C5850B with turns := [.ph 0] }
     has (Tbl.find s.ph 0) (fun c => decide (BitVec.ofNat 32 (Memory.le s.sram c.pc.toNat 4) = 0x00C5850B ∧
       c.pc.toNat + 4 ≤ 0x400000)) = true) ∧
    (isCustom 0x0000700B && (decodePh 0x0000700B).isNone) = true ∧
    (0x00A58593 : Word) = (10 : BitVec 12) ++ (11 : BitVec 5) ++ 0b000#3 ++ (11 : BitVec 5) ++ 0b0010011#7 ∧
    Instr.dispatch.isEvent = true ∧ (turn (.clock 21) device).clock.slew = 0 ∧
    (turn (.clock 21) device).clock.time.toNat + ((turn (.clock 21) device).clock.timeRem + 10 * 21) / 21 < 2 ^ 64 := by decide +kernel
theorem witness_canonical : State.reset.hbm = [] ∧ State.reset.sram = [] ∧ State.reset.host = [] ∧
    (match Machine.step (turn (.clock 21) device) with | .next _ => true | _ => false) = true := by decide +kernel

end Sys2Proof.Tests
end

