-- ==== Sys2Proof/Tests/Witness4.lean ====
section
/-! SUPPORT. Witnesses for the statements on walks and ray instructions. -/

namespace Sys2Proof.Tests

set_option Elab.async false

open Machine

/-- A node layout with absolute pointers at 16, f32 boxes at 64, at most 4 children, and leaves of inline vertices at 16. -/
def layout : Layout :=
  { q8 := false, rel := false, cntw := 8, cntpos := 0, cntoff := 0, hdr := 16, ptroff := 16, ptrstr := 8, boxoff := 64, boxstr := 24, qoff := 0,
    pgran := 6, maxch := 4, leafoff := 16, leafstr := 40, inline := true, vbase := 0, ibase := 0 }

/-- A walk of one step whose ray goes from the origin along z, between 0 and 10. -/
def walk (i : Nat) (g : Walk → Walk) : State :=
  let s := placeWalk State.reset i
  { s with focus := some (.walk 0), turns := [],
           walks := s.walks.map fun (p : Nat × Walk) => (p.1, g { p.2 with world := [0, 0, 0, 0, 0, 0, 0x3F800000, 0x41200000] }),
           launches := s.launches.map fun (p : Nat × Launch) => (p.1, { p.2 with
             lrec := { p.2.lrec with savebase := 0x400000, spillbase := 0x500000, walkn := 1, rayslots := 4 },
             walks := [some { code := [0], sign := 7, root := 0x600000, layouts := [some layout, none, none, none] }] }) }

/-- What holds of the walk in focus. -/
def ofWalk (s : State) (p : Walk → Bool) : Bool := decide (s.focus = some (.walk 0)) && has (Tbl.find s.walks 0) p

theorem walks_of {s : State} {p : Walk → Bool} (h : ofWalk s p = true) : ∃ k, Walks s 0 k ∧ p k = true := by
  unfold ofWalk has at h
  rw [Bool.and_eq_true, decide_eq_true_eq] at h
  split at h
  next k e => exact ⟨k, ⟨h.1, e⟩, h.2⟩
  next => exact absurd h.2 (by decide)

theorem witness_walk_registers : (∃ k, Walks (walk 0 id) 0 k ∧ (decide (k.upc = 0)) = true) ∧ (4 : BitVec 16).toNat % 4 = 0 ∧
    (∃ k, Walks (walk 0 id) 0 k ∧ (has ((progOf (walk 0 id) k).layouts.getD (k.n.toNat / 2 ^ 57 % 4) none) fun y => decide (y = layout)) = true) :=
  ⟨walks_of (by decide +kernel), by decide, walks_of (by decide +kernel)⟩

def full : List DWord := (List.range 16).map fun i => BitVec.ofNat 64 (64 * i)
def read (s : State) (k : Walk) (a : DWord) (n : Nat) : Bool := (readVirt s { ctx := k.ctx, wg := none } a n).isOk

/-- Nodes of each kind, and a node whose layout slot is empty. -/
theorem witness_wld :
    ofWalk (walk 0 fun k => { k with n := 0x600000 }) (fun k => decide (k.n.toNat % 4 = 0 ∧ k.n.toNat % 2 ^ 57 / 4 * 4 % 16 = 0) &&
      read (walk 0 id) k 0x600000 layout.hdr && read (walk 0 id) k 0x600000 (max (max 16 (64 + 4 * 24)) (16 + 4 * 8))) = true ∧
    ofWalk (walk 0 fun k => { k with n := 0x600001 }) (fun k => decide (k.n.toNat % 4 = 1) && read (walk 0 id) k 0x600000 (16 + 4 * 40)) = true ∧
    ofWalk (walk 0 fun k => { k with n := 0x600003 }) (fun k => decide (k.n.toNat % 4 = 3)) = true ∧
    ofWalk (walk 0 fun k => { k with n := 0x600000 + 2 ^ 57 }) (fun k => decide (k.n.toNat % 4 ≤ 1 ∧
      (progOf (walk 0 id) k).layouts.getD (k.n.toNat / 2 ^ 57 % 4) none = none)) = true := by decide +kernel

/-- Stacks with room, full ones with and without room to spill, and empty ones with and without spilled entries. -/
theorem witness_stack :
    ofWalk (walk 0 fun k => { k with stk := full.take 15 }) (fun k => decide (k.stk.length < 16)) = true ∧
    ofWalk (walk 0 fun k => { k with stk := full, spl := 8 }) (fun k => decide (k.stk.length = 16 ∧ k.spl = 8)) = true ∧
    ofWalk (walk 0 fun k => { k with stk := full, spl := 7 }) (fun k => decide (k.stk.length = 16 ∧ k.spl < 8 ∧
      (spillSlot (walk 0 id) k + BitVec.ofNat 64 (64 * k.spl)).toNat < 2 ^ 57) &&
      (writeVirt (walk 0 id) { ctx := k.ctx, wg := none } (spillSlot (walk 0 id) k + BitVec.ofNat 64 (64 * k.spl))
        ((k.stk.take 8).flatMap fun e => leBytes 8 e.toNat)).isOk) = true ∧
    ofWalk (walk 0 id) (fun k => decide (k.stk = [] ∧ k.spl = 0)) = true ∧
    ofWalk (walk 0 fun k => { k with stk := [1, 0x8000000000000000], levels := [([], 5)] }) (fun k => decide (k.stk = [] ++ [1, 0x8000000000000000])) = true ∧
    ofWalk (walk 0 fun k => { k with stk := [0x8000000000000000], levels := [([], 5)] }) (fun k => decide (k.spl = 0 ∧ k.stk = [0x8000000000000000])) = true ∧
    ofWalk (walk 0 fun k => { k with spl := 1 }) (fun k => decide (k.stk = [] ∧ 0 < k.spl ∧ (spillSlot (walk 0 id) k).toNat < 2 ^ 57) &&
      (match readVirt (walk 0 id) { ctx := k.ctx, wg := none } (spillSlot (walk 0 id) k) 64 with
       | .ok bs => decide (leNat ((bs.drop 56).take 8) < 2 ^ 63)
       | .error _ => false)) = true ∧
    ofWalk (walk 0 fun k => { k with stk := [1, 0x8000000000000000, 2], levels := [([], 5)] }) (fun k => decide (k.levels ≠ [] ∧
      k.stk = [1] ++ 0x8000000000000000 :: [2])) = true := by decide +kernel

/-- Instance records outside path 0x0, off a multiple of 16, and readable, at level 0 and at level 3. -/
theorem witness_instances :
    ofWalk (walk 0 fun k => { k with g := [(1, 0x02000000)] }) (fun k => decide (2 ^ 57 ≤ (Tbl.read 0 k.g 1 ++ Tbl.read 0 k.g 0).toNat)) = true ∧
    ofWalk (walk 0 fun k => { k with g := [(0, 0x600004)] }) (fun k => decide ((Tbl.read 0 k.g 1 ++ Tbl.read 0 k.g 0).toNat % 16 = 4)) = true ∧
    ofWalk (walk 0 fun k => { k with g := [(0, 0x600000)] }) (fun k => decide ((Tbl.read 0 k.g 1 ++ Tbl.read 0 k.g 0).toNat = 0x600000 ∧ k.levels.length < 3 ∧
      k.stk.length < 16 ∧ k.levelRay.length = 6) && read (walk 0 id) k 0x600000 64) = true ∧
    ofWalk (walk 0 fun k => { k with g := [(0, 0x600000)], levels := List.replicate 3 ([], 0) }) (fun k => decide (k.levels.length = 3) &&
      read (walk 0 id) k 0x600000 64) = true := by decide +kernel

/-- The box from (−1, −1, 1) to (1, 1, 2) is hit and the one behind the origin is not; a node with one child there; a triangle at z = 1. -/
def boxed : Tbl Word := [(0, 1), (4, 0x700000), (16, 0xBF800000), (17, 0xBF800000), (18, 0x3F800000), (19, 0x3F800000), (20, 0x3F800000), (21, 0x40000000)]
def tri : List Nat := [0xBF800000, 0xBF800000, 0x3F800000, 0x40400000, 0xBF800000, 0x3F800000, 0xBF800000, 0x40400000, 0x3F800000]
theorem witness_tests :
    ofWalk (walk 0 id) (fun k => decide (k.rayRats = some [0, 0, 0, 0, 0, 1] ∧ f32Val k.tmin.toNat = some (FVal.ofRat false 0) ∧
      f32Val k.tmax.toNat = some (FVal.ofRat false 10)) &&
      (k.boxHit (([-1, -1, 1] : List Rat).map fun x => some (FVal.ofRat false x)) (([1, 1, 2] : List Rat).map fun x => some (FVal.ofRat false x))).isSome &&
      (k.boxHit (([-1, -1, -2] : List Rat).map fun x => some (FVal.ofRat false x)) (([1, 1, -1] : List Rat).map fun x => some (FVal.ofRat false x))).isNone) = true ∧
    ofWalk (walk 0 fun k => { k with n := 0x600000, nb := true, buf := boxed }) (fun k => (k.childHit layout 0).isSome && (k.childHit layout 1).isNone &&
      decide (k.stk.length + k.count layout ≤ 16 ∧ k.count layout = 1)) = true ∧
    ofWalk (walk 0 id) (fun k => has (k.cross tri) (fun h => decide (h.1 = 1)) && decide (tri.map f32Rat = [-1, -1, 1, 3, -1, 1, -1, 3, 1].map some) &&
      (k.triangle tri 9).isSome && (k.triangle (tri.map fun _ => 0) 9).isNone && (k.accept (FVal.ofRat false 1) 0x3F800000 0 0 9).isSome &&
      (k.accept (FVal.ofRat false 11) 0x41300000 0 0 9).isNone) = true ∧
    ofWalk (walk 0 fun k => { k with first := true }) (fun k => has (k.triangle tri 9) fun h => h.first) = true ∧
    ofWalk (walk 0 fun k => { k with n := 0x600001, nb := true, buf := [(0, 1)] }) (fun k => decide (layout.inline = true ∧ k.count layout = 1)) = true ∧
    f32Val 0x3F800000 = some (FVal.ofRat false 1) ∧ f32Val 0x7FC00000 = none := by decide +kernel

/-! ## Ray instructions -/

/-- Lane 0 holds a ray in v16 to v23; the launch has one program and four ray slots. -/
def tracer (g : Launch → Launch) : State := { withF (withWarp start fun w => { w with vregs := [(vkey 22 0, 0x3F800000), (vkey 23 0, 0x41200000)] })
    fun f => { f with lanes := 1 } with
  launches := (walk 0 id).launches.map fun (p : Nat × Launch) => (p.1, g p.2) }
def vr (y : Nat) : VFmt := { v0 with a := .vreg 16, b := .sreg 12, c := .imm 3, x := 4, y := BitVec.ofNat 8 y }

theorem witness_rays : ∀ c ∈ ([.rtrace, .rresume] : List (VFmt → Instr)),
    Meets (c { vr 1 with d := 2043 }) (fun s _ _ w f => Active (c (vr 1)) w f ∧ w.top = 2048 ∧ w.top < 2043 + 6 ∧ (Tbl.find s.launches w.launch).isSome) ∧
    Meets (c { vr 1 with c := .imm 4 }) (fun s _ fid w f => Active (c (vr 1)) w f ∧ 8 + 6 ≤ w.top ∧
      (has (Tbl.find s.launches w.launch) fun L => decide ((w.act f none).getLsbD 0 = true ∧ L.lrec.rayslots ≤ (selInt w fid f 2 (.imm 4) 0).toNat))) ∧
    (∀ y ∈ [0, 1, 2, 3], Meets (c (vr y)) (fun s _ fid w f => Active (c (vr y)) w f ∧ 8 + 6 ≤ w.top ∧ (lanesOf (w.act f none)) = [0] ∧ w.access = [] ∧
      w.tokBusy 4 = false ∧ walksOn s w.core + (lanesOf (w.act f none)).length ≤ 384 ∧ s.walks = [] ∧
      rayDead ((List.range 8).map fun i => w.vreg (16 + i) 0) = false ∧ (has (Tbl.find s.launches w.launch) fun L =>
        decide ((selInt w fid f 2 (.imm 3) 0).toNat < L.lrec.rayslots ∧ (selInt w fid f 1 (.sreg 12) 0).toNat < L.lrec.walkn) &&
        (L.walks.getD (selInt w fid f 1 (.sreg 12) 0).toNat none).isSome))) := by
  intro c h
  simp only [List.mem_cons, List.not_mem_nil, or_false] at h
  refine ⟨?_, ?_, fun y hy => ?_⟩
  · rcases h with h | h <;> subst h <;> exact .here (tracer id) (by decide +kernel)
  · rcases h with h | h <;> subst h <;> exact .here (tracer id) (by decide +kernel)
  · simp only [List.mem_cons, List.not_mem_nil, or_false] at hy
    rcases h with h | h <;> subst h <;> rcases hy with hy | hy | hy | hy <;> subst hy <;> exact .here (tracer id) (by decide +kernel)

/-- A program past the walk table, a slot of it that holds none, and a full walk unit. -/
def crowded : State :=
  let k := (walk 0 id).walks.flatMap fun (p : Nat × Walk) => (List.range 384).map fun i => (i, p.2)
  { tracer id with walks := k, freshId := 1000 }
theorem witness_ray_faults :
    Meets (.rtrace (vr 1)) (fun s _ fid w f => Active (.rtrace (vr 1)) w f ∧ (has (Tbl.find s.launches w.launch) fun L =>
      decide (L.lrec.walkn ≤ (selInt w fid f 1 (.sreg 12) 0).toNat))) ∧
    Meets (.rtrace (vr 1)) (fun s _ _ w f => Active (.rtrace (vr 1)) w f ∧ (has (Tbl.find s.launches w.launch) fun L => (L.walks.getD 0 none).isNone)) ∧
    Meets (.rtrace (vr 1)) (fun s _ _ w f => Active (.rtrace (vr 1)) w f ∧ walksOn s w.core = 384 ∧ (s.walks.all fun p => decide (p.1 < s.freshId))) :=
  ⟨.here (tracer fun L => { L with lrec := { L.lrec with walkn := 0 } }) (by decide +kernel), .here (tracer fun L => { L with walks := [none] }) (by decide +kernel),
   .here crowded (by decide +kernel)⟩

/-- The walk that `rtrace` starts, about to end; and one with a read that fails, whose record can be written. -/
def traced : State := after (.rtrace (vr 1)) (tracer id)
theorem witness_walk_ends :
    (traced.walks.all fun p => !p.2.park && decide (p.2.lane < 96) && has (Tbl.find traced.warps p.2.warp) fun w => !w.ended &&
      has (Tbl.find w.access p.2.access) fun a => a.vdst.all fun q => decide (q.1 % 96 = p.2.lane)) = true ∧ traced.walks.length = 1 ∧
    ofWalk (walk 0 id) (fun k => !k.park && !k.rebuild && decide ((saveSlot (walk 0 id) k).toNat < 2 ^ 57 ∧ k.aside = none) &&
      (writeVirt (walk 0 id) { ctx := k.ctx, wg := none } (saveSlot (walk 0 id) k) (recordBytes (progOf (walk 0 id) k) k false Cause.path.code 5)).isOk &&
      (match readVirt (walk 0 id) { ctx := k.ctx, wg := none } (saveSlot (walk 0 id) k) 256 with
       | .ok bs => decide (leNat ((bs.drop 52).take 4) < 2 ^ 31)
       | .error _ => false)) = true := by decide +kernel

end Sys2Proof.Tests
end

