-- ==== Sys2Proof/Tests/Witness5.lean ====
section
/-! SUPPORT. Witnesses for the statements on table jumps, work graphs, builds, pixels and the rasteriser. -/

namespace Sys2Proof.Tests

set_option Elab.async false

open Machine

/-! ## Table jumps (R132 to R134) -/

def jt : CXFmt := { cx0 with cond := .vec 2 }
/-- An entry table at 0x300000, for a fragment of two lanes with the indices given, with DTL 5. The entries lead to a word that is no `land`,
to one that is, lazily, beyond the memory that is mapped, and to another `land`. -/
def tabled (g : LaunchRec → LaunchRec) (r : Nat → Nat) : State :=
  let s := withF (withWarp start fun w => { w with vregs := lanesWith 2 r, pcr := { w.pcr with dtl := 5 } }) fun f => { f with lanes := 3 }
  { s with launches := s.launches.map fun (p : Nat × Launch) => (p.1, { p.2 with lrec := g { p.2.lrec with dtab := 0x300000, dtl := 5 } }),
           hbm := [(0x300004, 32), (0x300008, 1), (0x30000C, 0x20000000), (0x300010, 48), (0x10040, 0x10000), (0x10060, 0x20010000)].foldl
             (fun m (p : Nat × Nat) => Memory.setLe m p.1 4 p.2) s.hbm }

theorem witness_entries : AtFocus fun s _ _ w _ =>
    let entry (a : DWord) : Option Nat := (readVirt s { ctx := w.ctx, wg := some w.wg } a 4).toOption.map leNat
    entry 0x300000 = some 0 ∧ entry 0x300004 = some 32 ∧ entry 0x300008 = some 1 ∧ entry 0x30000C = some 0x20000000 ∧ entry 0x80000000 = none ∧
    (readGranule s w 0x10000).toOption = some 0 ∧ (readGranule s w 0x10040).toOption = some 0x10000 ∧
    (readGranule s w 0x10060).toOption = some 0x20010000 ∧ (readGranule s w 0x40010000).isOk = false ∧
    CodeTarget 0x10040 ∧ ¬ CodeTarget ((2 ^ 57 - 64) + BitVec.ofNat 64 (4 * (32 / 2))) :=
  .here (tabled id fun _ => 1) (by decide +kernel)

/-- Where the lanes of the fragment lead. -/
def leads (s : State) (w : Warp) (f : Frag) : List (Option DWord × Option Cause) := (lanesOf (w.act f none)).map fun l =>
  match Tbl.find s.launches w.launch with
  | none => (none, none)
  | some L => (match classify s w L.lrec (w.pcr.dtl.toNat % 65536) (w.vreg 2 l).toNat with
    | .ok t => (some t, none)
    | .error e => (none, some e.1))

/-- Two lanes with one target, one cause, a target each, a cause each, and a target and a cause. -/
theorem witness_table_jumps : ∀ i ∈ [Instr.jtab jt, .ctab jt], ∀ p ∈ ([((1, 1), [(some 0x10040, none), (some 0x10040, none)]),
      ((5, 6), [(none, some .disp), (none, some .disp)]), ((1, 4), [(some 0x10040, none), (some 0x10060, none)]),
      ((0, 2), [(none, some .land), (none, some .lazy)]), ((3, 1), [(none, some .page), (some 0x10040, none)])] :
        List ((Nat × Nat) × List (Option DWord × Option Cause))),
    Meets i fun s _ _ w f => Active i w f ∧ leads s w f = p.2 := by
  intro i h p hp
  simp only [List.mem_cons, List.not_mem_nil, or_false] at h hp
  rcases h with h | h <;> subst h <;> rcases hp with hp | hp | hp | hp | hp <;> subst hp
  · exact .here (tabled id fun _ => 1) (by decide +kernel)
  · exact .here (tabled id fun l => if l = 0 then 5 else 6) (by decide +kernel)
  · exact .here (tabled id fun l => if l = 0 then 1 else 4) (by decide +kernel)
  · exact .here (tabled id fun l => if l = 0 then 0 else 2) (by decide +kernel)
  · exact .here (tabled id fun l => if l = 0 then 3 else 1) (by decide +kernel)
  · exact .here (tabled id fun _ => 1) (by decide +kernel)
  · exact .here (tabled id fun l => if l = 0 then 5 else 6) (by decide +kernel)
  · exact .here (tabled id fun l => if l = 0 then 1 else 4) (by decide +kernel)
  · exact .here (tabled id fun l => if l = 0 then 0 else 2) (by decide +kernel)
  · exact .here (tabled id fun l => if l = 0 then 3 else 1) (by decide +kernel)

/-! ## Records of a work graph (R260 to R266) -/

/-- A node of main warps whose basin launches at four records. -/
def node (b : List (Nat × Nat)) : Node :=
  { krec := 0, lrec := none, wsets := [], walks := [], prof := [], timeout := 1000, record := 64, batch := 4, pool := 0, cell := false, next := 1,
    basin := b, seq := 7, tri := none }
/-- Graph launch 1 with eight slots of 64 bytes at 0x700000, four nodes and the slots given. -/
def graph (slots : Tbl Slot) (nodes : Tbl Node) : Launch :=
  let L := Machine.Launch.plain .u false []
  { L with lrec := { L.lrec with catbase := 0x700000, catsize := 512 }, slotQ := 64, slots := slots, nodes := nodes }
/-- The warp of a consumer launch, of `n` lanes, and its graph launch. -/
def inGraph (n : Nat) (slots : Tbl Slot) (nodes : Tbl Node) : State :=
  let s := withF start fun f => { f with lanes := BitVec.ofNat 96 (2 ^ n - 1) }
  { s with launches := [(0, (Tbl.read (Machine.Launch.plain .u false []) s.launches 0 |> fun L => { L with graph := some 1 })), (1, graph slots nodes)], freshId := 2 }
def nodes0 : Tbl Node := [(0, node []), (1, { node [] with pool := 2, next := 2, timeout := 0 }), (2, { node [] with cell := true })]
def held (k : Nat) : Slot := { st := .allocWarp 0, node := k, cell := none }
def gives (k : Nat) : Slot := { st := .delivered 0, node := k, cell := none }
def va (k : Nat) : VFmt := { v0 with b := .imm (BitVec.ofNat 9 k) }

theorem witness_ralloc :
    Meets (.ralloc (va 64)) (fun s _ fid w f => Active (.ralloc (va 64)) w f ∧ graphOf s w = some 1 ∧ (Tbl.find s.launches 1).isSome = true ∧
      ¬ (selInt w fid f 1 (va 64).b 0).toNat < 64) ∧
    Meets (.ralloc (va 2)) (fun s _ fid w f => Active (.ralloc (va 2)) w f ∧ graphOf s w = some 1 ∧
      has (Tbl.find s.launches 1) (fun L => has (Tbl.find L.nodes (selInt w fid f 1 (va 2).b 0).toNat) fun x => x.cell) = true) ∧
    Meets (.ralloc (va 0)) (fun s _ fid w f => Active (.ralloc (va 0)) w f ∧ graphOf s w = some 1 ∧ has (Tbl.find s.launches 1) (fun L =>
      decide (L.totalSlots < (lanesOf (w.act f none)).length) && has (Tbl.find L.nodes (selInt w fid f 1 (va 0).b 0).toNat) fun x => !x.cell) = true) ∧
    Meets (.ralloc (va 0)) (fun s _ _ w f => Active (.ralloc (va 0)) w f ∧ graphOf s w = some 1 ∧ rallocWaiters s 1 = [] ∧
      has (Tbl.find s.launches 1) (fun L => decide ((lanesOf (w.act f none)).length = 3 ∧ L.totalSlots = 8 ∧
        ((List.range L.totalSlots).filter fun k => (Tbl.find L.slots k).isNone) = [0, 2, 3, 4, 5, 6, 7])) = true) ∧
    Meets (.ralloc (va 0)) (fun s _ _ w f => Active (.ralloc (va 0)) w f ∧ graphOf s w = some 1 ∧ rallocWaiters s 1 = [] ∧
      has (Tbl.find s.launches 1) (fun L => decide ((lanesOf (w.act f none)).length = 8 ∧ L.totalSlots = 8 ∧
        ((List.range L.totalSlots).filter fun k => (Tbl.find L.slots k).isNone).length = 7) && L.nodes.any fun p => !p.2.basin.isEmpty) = true) :=
  ⟨.here (inGraph 3 [] nodes0) (by decide +kernel), .here (inGraph 3 [] nodes0) (by decide +kernel), .here (inGraph 9 [] nodes0) (by decide +kernel),
   .here (inGraph 3 [(1, held 0)] nodes0) (by decide +kernel), .here (inGraph 8 [(1, gives 0)] [(0, node [(5, 0)])]) (by decide +kernel)⟩

/-- Lanes 0 and 1 hold slots 3 and 1 in v2:3. -/
def recorded (g : Nat → Slot) : State :=
  withWarp (inGraph 2 [(1, g 0), (3, { g 0 with cell := some (1, 2, 3, 4) })] nodes0) fun w =>
    { w with vregs := [(vkey 2 0, 0x7000C0), (vkey 2 1, 0x700040)] }
theorem witness_records : ∀ c ∈ ([.rcommit, .rfree] : List (VFmt → Instr)),
    (∀ g ∈ [held, gives], Meets (c v0) fun s _ _ w f => Active (c v0) w f ∧ graphOf s w = some 1 ∧ rallocWaiters s 1 = [] ∧
      (lanesOf (w.act f none)) = [0, 1] ∧ w.vpair 2 0 ≠ w.vpair 2 1 ∧ has (Tbl.find s.launches 1) (fun L => decide (L.lrec.catsize < 2 ^ 64 ∧
        w.vpair 2 0 = L.slotAddr 3 ∧ w.vpair 2 1 = L.slotAddr 1 ∧ 3 < L.totalSlots ∧
        (∀ k ∈ [1, 3], (Tbl.find L.slots k).map (fun x => (x.st, x.node)) = some ((g 0).st, 0)) ∧ (Tbl.find L.nodes 0).isSome = true) &&
        L.nodes.all fun p => p.2.pool == 2 || (p.2.basin.isEmpty && decide (2 < p.2.batch ∧ 0 < p.2.timeout))) = true) ∧
    Meets (c v0) (fun s _ _ w f => Active (c v0) w f ∧ graphOf s w = some 1 ∧ has (Tbl.find s.launches 1) (fun L =>
      L.slots.all fun p => decide (p.2.st = .committed)) = true) := by
  intro c h
  simp only [List.mem_cons, List.not_mem_nil, or_false] at h
  refine ⟨fun g hg => ?_, ?_⟩
  · simp only [List.mem_cons, List.not_mem_nil, or_false] at hg
    rcases h with h | h <;> subst h <;> rcases hg with hg | hg <;> subst hg
    · exact .here (recorded held) (by decide +kernel)
    · exact .here (recorded gives) (by decide +kernel)
    · exact .here (recorded held) (by decide +kernel)
    · exact .here (recorded gives) (by decide +kernel)
  · rcases h with h | h <;> subst h
    · exact .here (recorded fun k => { held k with st := .committed }) (by decide +kernel)
    · exact .here (recorded fun k => { held k with st := .committed }) (by decide +kernel)

/-- A basin of node 0 with one record, before its timeout and at it. -/
def basined (clk : Nat) : State :=
  event 1 0 { inGraph 1 [(2, { held 0 with st := .committed })] [(0, node [(2, 5)])] with
    clock := { State.reset.clock with clk := BitVec.ofNat 64 clk } }
theorem witness_basins : ∀ p ∈ [(1004, false), (1005, true)], has (Tbl.find (basined p.1).launches (basined p.1).ev.a) (fun L =>
    has (Tbl.find L.nodes (basined p.1).ev.b) fun n => decide (n.pool ≠ 2 ∧ (basined p.1).ev.a ≠ (basined p.1).freshId ∧ n.basin.length < n.batch ∧
      n.basin.head? = some (2, 5) ∧ decide (5 + n.timeout ≤ clkNat (basined p.1)) = p.2)) = true := by decide +kernel

/-! ## Builds (R257, R258) -/

/-- A descriptor at 0x800000 of an empty build with radius 1, nodes at 0x810000, 64 bytes of them, and its work area at 0x820000. -/
def described (ws : List (Nat × Nat)) : State :=
  withS { start with hbm := ws.foldl (fun m p => Memory.setLe m (0x800000 + p.1) p.2 (if p.1 = 0 then 0x10000 else if p.1 = 24 then 0x810000 else
    if p.1 = 32 then 64 else if p.1 = 40 then 0x820000 else 4096)) start.hbm } [(10, 0x800000)]
def fields : List (Nat × Nat) := [(0, 4), (24, 8), (32, 8), (40, 8), (48, 8)]
def vb : VFmt := { v0 with a := .sreg 10, x := 5 }
def buildGood (bs : List Byte) : Bool :=
  let n (o b : Nat) : Nat := leNat ((bs.drop o).take b)
  decide (n 0 4 / 2 ^ 24 = 0 ∧ n 0 4 / 2 ^ 9 % 2 ^ 7 = 0 ∧ 1 ≤ n 2 1 ∧ n 2 1 ≤ 32 ∧ n 0 4 / 2 ^ 6 % 8 ≤ 4 ∧ n 0 4 % 16 ≤ 2 ∧
      n 4 4 ≤ 2 ^ 26 ∧ (n 0 4 % 16 = 2 → n 8 8 % 64 = 0) ∧ (n 0 4 % 16 ≠ 0 → n 16 8 = 0) ∧ n 24 8 % 64 = 0 ∧ n 40 8 % 64 = 0 ∧
      48 * n 4 4 + 4096 ≤ n 48 8 ∧ n 80 48 = 0)
def atBuild (s : State) (w : Warp) (p : List Byte → Bool) : Bool :=
  match readVirt s { ctx := w.ctx, wg := none } (selPair w (.sreg 10)) 128 with
  | .ok bs => p bs
  | .error _ => false
/-- The state that issues the build, and the one that runs it. -/
def building : State := after (.xbuild vb) (described fields)
def manyBuilds : State := { described fields with builds := (List.range 32).flatMap fun i => building.builds.map fun (p : Nat × Build) => (i, p.2) }

theorem witness_xbuild :
    Meets (.xbuild vb) (fun _ _ _ w f => Active (.xbuild vb) w f ∧ 2 ^ 57 ≤ (selPair w vb.a).toNat) ∧
    Meets (.xbuild vb) (fun _ _ _ w f => Active (.xbuild vb) w f ∧ (selPair w vb.a).toNat < 2 ^ 57 ∧ (selPair w vb.a).toNat % 128 ≠ 0) ∧
    Meets (.xbuild vb) (fun s _ _ w f => Active (.xbuild vb) w f ∧ (selPair w vb.a).toNat < 2 ^ 57 ∧ (selPair w vb.a).toNat % 128 = 0 ∧
      atBuild s w (fun bs => !buildGood bs) = true) ∧
    Meets (.xbuild vb) (fun s _ _ w f => Active (.xbuild vb) w f ∧ atBuild s w buildGood = true ∧ w.tokBusy 5 = false ∧ (buildsOn s (halfOf w.ctl w.core)).length = 0) ∧
    Meets (.xbuild vb) (fun s _ _ w f => Active (.xbuild vb) w f ∧ atBuild s w buildGood = true ∧ w.tokBusy 5 = false ∧ (buildsOn s (halfOf w.ctl w.core)).length = 32) :=
  ⟨.here (withS start [(11, 0x02000000)]) (by decide +kernel), .here (withS start [(10, 0x800040)]) (by decide +kernel),
   .here (described [(24, 8)]) (by decide +kernel), .here (described fields) (by decide +kernel), .here manyBuilds (by decide +kernel)⟩

theorem witness_build : (match buildsOn building building.ev.a with
    | (_, b) :: _ => decide (b.count = 0 ∧ b.kind ≤ 2 ∧ b.fault = none ∧ b.refused = none ∧ ctxHalted building b.ctx 21000 = false ∧ building.sigs = [] ∧
        64 ≤ b.nodecap ∧ b.nodebase.toNat % 64 = 0 ∧ b.desc.toNat % 128 = 0 ∧ b.nodebase.toNat + b.nodecap < 2 ^ 57 ∧ b.desc.toNat < 2 ^ 57 ∧
        b.scrbase.toNat + 4096 < 2 ^ 57 ∧ b.desc.toNat + 128 ≤ b.nodebase.toNat ∧ b.nodebase.toNat + 64 ≤ b.scrbase.toNat ∧
        b.desc.toNat + 128 ≤ b.scrbase.toNat) && has (Tbl.find building.warps b.warp) (fun w => !w.ended)
    | [] => false) = true ∧ [0x800000, 0x80007F, 0x810000, 0x81003F, 0x820000, 0x820FFF].all (fun a =>
      match translate building 0 a .st false false with
      | .ok m => decide (m = a)
      | .error _ => false) = true := by decide +kernel

/-! ## Pixels (R271 to R276) -/

/-- Target 1 of 4 by 4 cells, with depth, and no signatures. -/
def target (g : Target → Target) : Target :=
  g { cbase := 0x900000, zbase := 0x980000, wcells := 4, hcells := 4, zfn := 0, zwr := true, blend := 0, cfmt := 0, sig := 0 }
/-- The operation `i` queues on cell (1, 2) of target 1 with ticket 3, in a grid launch or in a graph launch that has retired `r` there. -/
def pixels (g : Target → Target) (r : Option Nat) (i : Instr) : State :=
  let s := withS (match r with | none => start | some _ => inGraph 2 [] nodes0) [(12, 0x00020001), (13, 3)]
  event (s.freshId + 1) 0 (after i { s with launches := s.launches.map fun (p : Nat × Launch) =>
    (p.1, { p.2 with targets := [none, some (target g), none], retired := match r with
      | none => []
      | some n => [(2 ^ 36 + 2 ^ 18 + 2, n)] }) })
def vp : VFmt := { v0 with a := .vreg 2, b := .sreg 12, x := 5, y := 1 }
def queued (s : State) (p : PixOp → Bool) : Bool := has (Tbl.find s.pix s.ev.a) fun op => decide (op.fault = none ∧ op.bad = 0 ∧
  ctxHalted s op.ctx 2100 = false) && (s.pix.all fun q => !(decide (q.1 < s.ev.a)) || !pixBefore q.2 op) && (has (Tbl.find s.warps op.warp) fun w => !w.ended) && p op

theorem witness_pixels : ∀ i ∈ [Instr.pzt vp, .pwr vp], Meets i (fun _ _ _ w f => Active i w f ∧ w.tokBusy 5 = false) := by
  intro i h
  simp only [List.mem_cons, List.not_mem_nil, or_false] at h
  rcases h with h | h <;> subst h <;> exact .here start (by decide +kernel)
theorem witness_pdone : Meets (.pdone vp) (fun s _ _ w f => Active (.pdone vp) w f ∧ graphOf s w = none) ∧
    Meets (.pdone vp) (fun s _ _ w f => Active (.pdone vp) w f ∧ graphOf s w = some 1) :=
  ⟨.here start (by decide +kernel), .here (inGraph 2 [] nodes0) (by decide +kernel)⟩

/-- Operations before, at and behind their turn; at a cell outside the target; and at one of it, whose words can be reached. -/
theorem witness_blend :
    (∀ i ∈ [Instr.pzt vp, .pwr vp], queued (pixels id (some 2) i) (fun op => decide (op.graph = some 1 ∧ retiredOf (pixels id (some 2) i) op < op.ticket)) = true ∧
      queued (pixels id (some 4) i) (fun op => decide (op.kind < 2 ∧ op.ticket < retiredOf (pixels id (some 4) i) op)) = true ∧
      queued (pixels (fun t => { t with wcells := 1 }) (some 3) i) (fun op => decide (op.kind < 2 ∧ op.ticket = 3 ∧ op.cx = 1)) = true) ∧
    (∀ r ∈ [2, 3], queued { pixels id (some r) (.pdone vp) with ev := { State.reset.ev with a := 2 } } (fun op => decide (op.kind = 2 ∧ op.graph = some 1)) = true) ∧
    (∀ i ∈ [Instr.pzt vp, .pwr vp], ∀ r ∈ [none, some 3], queued (pixels id r i) (fun op => decide (op.kind < 2 ∧ (pixels id r i).sigs = [] ∧ op.rt = 1 ∧
        op.cx = 1 ∧ op.cy = 2 ∧ (op.graph = none ∨ op.ticket = retiredOf (pixels id r i) op)) &&
      has (Tbl.find (pixels id r i).launches op.launch) (fun L => decide (L.targets.getD op.rt none = some (target id)))) = true) ∧
    (let s := pixels id (some 3) (.pzt vp)
     queued s (fun op => [Kind.ld, .st].all fun k => [0, 1].all fun l => match pixPlace s op (0x980000 + BitVec.ofNat 64 (384 * 9) + BitVec.ofNat 64 (4 * l)) k with
      | .ok p => decide (p = 0x980000 + 384 * 9 + 4 * l)
      | .error _ => false) = true) ∧
    queued (pixels (fun t => { t with zbase := 0 }) none (.pzt vp)) (fun op => decide (op.kind = 0)) = true := by decide +kernel

/-- A dirty cell at 0x900000 whose signature entry is at 0x9F0000, with VALID or without it. -/
def cellCrc : Word := crc32c (Memory.bytes start.hbm 0x900000 384)
def dirty (v : Nat) : State :=
  { event 0x900000 0 start with cells := [(0x900000, { sig := 0x9F0000, old := List.replicate 384 0x55, lines := [0x900000, 0x900080, 0x900100] })],
                                hbm := Memory.setLe start.hbm 0x9F0000 8 (cellCrc.toNat + 2 ^ 32 * v) }
theorem signed_byte (m : Memory) (a v i : Nat) (h : i < 8) : Memory.byte (Memory.setLe m a 8 v) (a + i) = (leBytes 8 v).getD i 0 := by
  have := Memory.byte_stores_inside (leBytes 8 v) m a i (by simpa using h)
  simp only [Memory.setLe, this]
  simp [List.getD, h]
theorem signed_bytes (m : Memory) (b v n : Nat) : ∀ a, a + n ≤ b → Memory.bytes (Memory.setLe m b 8 v) a n = Memory.bytes m a n := by
  induction n with
  | zero => intro a _; rfl
  | succ n ih =>
    intro a h
    have : Memory.byte (Memory.setLe m b 8 v) a = Memory.byte m a := Memory.byte_stores_outside _ _ _ _ (.inl (by omega))
    simp only [Memory.bytes, this, ih (a + 1) (by omega)]
/-- The entry of R276 over a cell stands, with the CRC of its bytes and VALID 1, and does not with VALID 0. -/
theorem signed_valid (m : Memory) (b v : Nat) : (Memory.byte (Memory.setLe m b 8 v) (b + 4)).getLsbD 0 = decide (v / 4294967296 % 2 = 1) := by
  rw [signed_byte m b _ 4 (by decide)]
  have e : v / 256 / 256 / 256 / 256 = v / 4294967296 := by omega
  simp only [leBytes, List.getD_cons_succ, List.getD_cons_zero, e]
  simp [BitVec.getLsbD]
theorem signed_crc (m : Memory) (b v : Nat) : Memory.le (Memory.setLe m b 8 v) b 4 = v % 4294967296 := by
  have e0 := signed_byte m b v 0 (by decide)
  simp only [Nat.add_zero] at e0
  simp only [Memory.le, Memory.bytes, leNat, Nat.add_assoc, Nat.reduceAdd, e0, signed_byte m b v 1 (by decide), signed_byte m b v 2 (by decide),
    signed_byte m b v 3 (by decide)]
  simp [leBytes]
  omega
theorem witness_cells : has (Tbl.find (dirty 1).cells (dirty 1).ev.a) (fun d => decide (d.old.length = 384 ∧ d.sig = 0x9F0000 ∧
    (List.range 384).map (fun i => d.lines.getD (i / 128) 0 + i % 128) = (List.range 384).map (0x900000 + ·))) = true := by decide +kernel

/-! ## The rasteriser (R267 to R270) -/

/-- A triangle record with the corners given, in units of a 256th of a pixel. -/
def triRec (cs : List (Int × Int)) : List Byte :=
  (cs.flatMap fun p => leBytes 4 (wrapI 32 p.1) ++ leBytes 4 (wrapI 32 p.2) ++ leBytes 4 0x3F800000) ++ leBytes 4 77 ++ leBytes 4 1 ++ List.replicate 20 0
/-- Node 1 is a raster node whose basin holds slot 2; target 1 has 4 by 4 cells. -/
def rasterised (cs : List (Int × Int)) : State :=
  let s := event 1 1 (inGraph 2 [(2, { held 1 with st := .committed })]
    [(0, node []), (1, { node [(2, 0)] with pool := 2, next := 0 })])
  { s with hbm := (triRec cs).zipIdx.foldl (fun m p => Memory.store m (0x700080 + p.2) p.1) s.hbm,
           launches := s.launches.map fun (p : Nat × Launch) => (p.1, { p.2 with targets := [none, some (target id)] }) }
def corners : List (Int × Int) := [(0, 0), (6000, 0), (0, 4000)]
def inRaster (s : State) (p : Launch → Node → Bool) : Bool := has (Tbl.find s.launches s.ev.a) fun L =>
  (has (Tbl.find L.nodes s.ev.b) fun n => p L n) && decide (ctxHalted s L.ctx 0 = false ∧ rallocWaiters s s.ev.a = []) && (Tbl.find s.ctxs L.ctx).isSome

/-- A triangle to be cut into cells and one without area. -/
theorem witness_raster : ∀ cs ∈ [corners, [(0, 0), (1, 1), (2, 2)]], inRaster (rasterised cs) (fun L n =>
    decide (n.pool = 2 ∧ n.tri = none ∧ n.basin = [(2, 0)] ∧ (Tbl.find L.slots 2).isSome = true) &&
    match readVirt (rasterised cs) { ctx := L.ctx, wg := none } (L.lrec.catbase + BitVec.ofNat 64 (L.slotQ * 2)) 64 with
    | .ok bs => decide (bs = triRec cs)
    | .error _ => false) = true := by decide +kernel

def cut : State := after .rasterise (rasterised corners)
theorem witness_cell_emit : inRaster cut (fun L n =>
    (has n.tri fun y => decide (y.cells = [(0, 0), (1, 0), (0, 1)] ∧ y.data.length = 64 ∧ y.slot = 2)) &&
    decide (0 < L.totalSlots ∧ Tbl.find L.slots 0 = none ∧ n.next = 0 ∧ cut.ev.b = 1 ∧ cut.sigs = []) &&
    (has (Tbl.find L.nodes n.next) fun nx => decide (nx.pool ≠ 2 ∧ nx.basin = [] ∧ 1 < nx.batch ∧ 0 < nx.timeout)) &&
    L.nodes.all fun p => p.2.pool == 2 || p.2.basin.isEmpty) = true ∧
    [0x700000, 0x70003F].all (fun a => match translate cut 0 a .st false false with
      | .ok m => decide (m = a)
      | .error _ => false) = true := by decide +kernel

end Sys2Proof.Tests
end

