-- ==== Sys2Proof/Tests/Witness8.lean ====
section
/-! SUPPORT. Witnesses for the statements on driver messages, page tables and the fault service. -/

namespace Sys2Proof.Tests

set_option Elab.async false

open Machine

/-- A message of a type, with operand fields, at the head of ring 0, whose messages are at host address 0x1000 and answers at 0x2000. -/
def asks (ty : Nat) (fs : List (Nat × Nat × Nat)) (s : State) : State :=
  { s with board := { s.board with rings := [(0, { mbase := 0x1000, abase := 0x2000, mslots := 8, mtail := 1, mhead := 0 })] },
           host := fieldsAt s.host 0x1000 ((0, 2, ty) :: fs) }
/-- Operand k. -/
def opd (k v : Nat) : Nat × Nat × Nat := (8 + 8 * k, 8, v)
def comes (s : State) (ty : Nat) (p : List Byte → (Nat → Nat) → Bool) : Bool := decide (s.board.boot = 4) && has (messageAt s s.ev.a) fun m =>
  decide (natAt m 0 2 = ty ∧ natAt m 2 2 = 0) && p m fun k => natAt m (8 + 8 * k) 8
/-- No message, and messages of no type. -/
theorem witness_no_message : messageAt device device.ev.a = none ∧
    (∀ fs ∈ [[], [(0, 2, 26)], [(0, 4, 0x10001)]], has (messageAt (asks 0 fs device) 0) (fun m => decide (natAt m 0 2 = 0 ∨ 25 < natAt m 0 2 ∨ natAt m 2 2 ≠ 0)) = true) := by
  decide +kernel

/-! ## Contexts, partitions and queues -/

/-- A context descriptor at host address 0x4000. -/
def descAt (fs : List (Nat × Nat × Nat)) (s : State) : State := { s with host := fieldsAt s.host 0x4000 fs }
def desc1 : List (Nat × Nat × Nat) := [(0, 8, 0x200000), (8, 4, 31)]
theorem witness_ctxnew :
    comes (asks 1 [opd 0 1, opd 1 0x4000] (descAt desc1 device)) 1 (fun _ n => decide (n 0 < 1024 ∧ Tbl.find device.ctxs (n 0) = none) &&
      !badDesc (Memory.bytes (descAt desc1 device).host (n 1) 256)) = true ∧
    (∀ k ∈ [0, 1024], comes (asks 1 [opd 0 k, opd 1 0x4000] (descAt desc1 device)) 1 (fun _ n => decide (1024 ≤ n 0 ∨ (Tbl.find device.ctxs (n 0)).isSome = true)) = true) ∧
    badDesc (Memory.bytes (descAt [(0, 8, 0x1000)] device).host 0x4000 256) = true := by decide +kernel
theorem witness_ctxset : ∀ p ∈ [(desc1, false), ([(0, 8, 0x1000)], true)], comes (asks 2 [opd 0 0, opd 1 0x4000] (descAt p.1 device)) 2 (fun _ n =>
    (Tbl.find device.ctxs (n 0)).isSome && badDesc (Memory.bytes (descAt p.1 device).host (n 1) 256) == p.2) = true := by decide +kernel
/-- A context with a queue and one without. -/
theorem witness_ctxfree :
    comes (asks 3 [opd 0 0] device) 3 (fun _ n => device.queues.any fun q => q.2.used && q.2.owner == n 0) = true ∧
    comes (asks 3 [opd 0 5] device) 3 (fun _ n => (Tbl.find device.ctxs (n 0)).isNone) = true ∧
    (let s := { device with queues := [] }
     comes (asks 3 [opd 0 0] s) 3 (fun _ n => (Tbl.find s.ctxs (n 0)).isSome && s.queues.isEmpty && s.launches.isEmpty)) = true := by decide +kernel
def newPart : List (Nat × Nat × Nat) := [(16, 2, 0xF), (20, 4, 3), (24, 8, 5)]
theorem witness_partset :
    comes (asks 4 (opd 0 7 :: newPart) { device with parts := [] }) 4 (fun m n => decide (n 0 < 8) && !badPart { device with parts := [] } (n 0) ((m.drop 16).take 32) &&
      !partBusy { device with parts := [] } (n 0)) = true ∧
    comes (asks 4 [opd 0 8] device) 4 (fun _ n => decide (8 ≤ n 0)) = true ∧
    comes (asks 4 (opd 0 1 :: newPart) device) 4 (fun m n => device.parts.any fun p => p.1 != n 0 && natAt ((m.drop 16).take 32) 0 2 % 2 ^ 12 &&& p.2.clmask.toNat != 0) = true ∧
    (let s := { start with board := device.board }
     comes (asks 4 (opd 0 0 :: newPart) s) 4 (fun _ n => partBusy s (n 0))) = true := by decide +kernel
theorem witness_qcreate :
    (∀ k ∈ [0, 16], comes (asks 5 [opd 0 0, opd 1 4, opd 2 0xB00000, opd 3 (2 ^ (k + 4)), opd 4 7] device) 5 (fun m n =>
      (has (Tbl.find device.ctxs (n 0)) fun c => classAllowed c.desc .b) && decide (n 0 < 1024 ∧ [Cls.d, .v, .g, .l, .b][n 1]? = some .b ∧
      (dwordAt m 24).toNat < 2 ^ 57 ∧ (dwordAt m 24).toNat % 4096 = 0 ∧ n 4 < 8 ∧ k < 17 ∧ n 3 = 2 ^ (k + 4) ∧ (Tbl.find device.queues 0).isSome = true ∧
      Tbl.find device.queues 1 = none ∧ device.board.capKey.length = 32)) = true) ∧
    (∀ p ∈ [[(0, 5)], [(1, 5)], [(2, 2 ^ 57)], [(2, 0xB00800)], [(4, 8)], [(3, 8)], [(3, 2 ^ 21)]],
      comes (asks 5 ([opd 0 0, opd 1 4, opd 2 0xB00000, opd 3 16, opd 4 7] ++ p.map fun q => opd q.1 q.2) device) 5 (fun m n =>
        decide (Tbl.find device.ctxs (n 0) = none ∨ 4 < n 1 ∨ 2 ^ 57 ≤ (dwordAt m 24).toNat ∨ (dwordAt m 24).toNat % 4096 ≠ 0 ∨ 8 ≤ n 4 ∨
          (∀ k, k < 17 → n 3 ≠ 2 ^ (k + 4)))) = true) := by decide +kernel
theorem witness_qfree : comes (asks 6 [opd 0 0] device) 6 (fun _ n => has (Tbl.find device.queues (n 0)) fun q => q.used) = true ∧
    comes (asks 6 [opd 0 1] device) 6 (fun _ n => (Tbl.find device.queues (n 0)).isNone) = true := by decide +kernel

/-- QADMIN and QSTAT with a capability that passes, one without the right, and one of another epoch. -/
def asksCap (ty o : Nat) (c : List Byte) (q : Queue) : State :=
  let s := asks ty [(40, 8, o)] { device with queues := [(0, q)] }
  { s with host := Memory.stores s.host 0x1008 c }
theorem bytes_length (m : Memory) (n : Nat) : ∀ a, (Memory.bytes m a n).length = n := by
  induction n with
  | zero => intro a; rfl
  | succ n ih => intro a; simp [Memory.bytes, ih]
theorem bytes_part (m : Memory) (k : Nat) : ∀ n a i, i + k ≤ n → ((Memory.bytes m a n).drop i).take k = Memory.bytes m (a + i) k := by
  induction k with
  | zero => intro n a i _; simp [Memory.bytes]
  | succ k ih =>
    intro n a i h
    have d : ∀ i n a, i < n → (Memory.bytes m a n).drop i = Memory.byte m (a + i) :: (Memory.bytes m a n).drop (i + 1) := by
      intro i
      induction i with
      | zero =>
        intro n a h
        match n with
        | n + 1 => simp [Memory.bytes]
      | succ i ihi =>
        intro n a h
        match n with
        | n + 1 =>
          have := ihi n (a + 1) (by omega)
          simp only [Memory.bytes, List.drop_succ_cons]
          rw [this, Nat.add_assoc, Nat.add_comm 1 i]
    rw [d i n a (by omega), List.take_succ_cons, ih n a (i + 1) (by omega)]
    simp only [Memory.bytes, Nat.add_assoc]
/-- The capability that such a message carries is the one placed, which is sealed. -/
theorem asked_cap (m : Memory) (c : List Byte) (h : c.length = 32) : ((Memory.bytes (Memory.stores m (0x1000 + 8) c) 0x1000 128).drop 8).take 32 = c := by
  rw [bytes_part _ 32 128 0x1000 8 (by decide), ← h]
  exact Memory.bytes_stores c m _
theorem witness_caps : ∀ q ∈ [queue0, { queue0 with st := .paused }, { queue0 with st := .idle, tail := 0 }, { queue0 with st := .error }],
    (∀ o ∈ [0, 1, 2], comes (asksCap 7 o (cap 4) q) 7 (fun m _ => decide (natAt m 40 8 = o))= true) ∧
    capQueue { device with queues := [(0, q)] } (cap 4) = some q ∧ natAt (cap 4) 8 8 / 2 ^ 50 % 2 = 1 ∧ natAt (cap 3) 8 8 / 2 ^ 50 % 2 = 0 ∧
    comes (asksCap 8 0 (cap 2) q) 8 (fun _ _ => true) = true ∧ capQueue { device with queues := [(0, q)] } (cap 2) = some q ∧
    natAt (cap 2) 8 8 / 2 ^ 49 % 2 = 1 ∧ natAt (cap 5) 8 8 / 2 ^ 49 % 2 = 0 := by decide +kernel

/-! ## Page tables (R321 to R324) -/

/-- Context 0 with tables down to the 64-KiB page of virtual address 0x30000: top table at 0x1000, then 0x2000, 0x3000 and 0x4000. -/
def paged (leaf : Nat) : State :=
  { device with hbm := fieldsAt [] 0 [(0x1000, 8, 0x2001), (0x2000, 8, 0x3001), (0x3000, 8, 0x4001), (0x4018, 8, leaf)] }
def pointer (s : State) (a lvl next : Nat) : Bool := decide ((tableEntry s a).toNat = next + 1 ∧ next < 2 ^ 48 ∧ next % 2 ^ (if lvl ≤ 1 then 12 else 8) = 0)
theorem witness_chain : ∀ e ∈ [0, 0x5003 + 0x1C, 0x50000 + 3 + 0x1C, 0x50000 + 3 + 0x84],
    (has (Tbl.find (paged e).ctxs 0) fun c => pointer (paged e) (c.desc.ptroot + 8 * (0x30000 / 2 ^ 39 % 2 ^ 18)) 0 0x2000 &&
      pointer (paged e) (0x2000 + 8 * (0x30000 / 2 ^ 30 % 2 ^ 9)) 1 0x3000 && pointer (paged e) (0x3000 + 8 * (0x30000 / 2 ^ 21 % 2 ^ 9)) 2 0x4000 &&
      decide (0x4018 = 0x4000 + 8 * (0x30000 / 2 ^ 16 % 2 ^ 5) ∧ c.desc.ptroot + 8 * (0x30000 / 2 ^ 39 % 2 ^ 18) + 8 ≤ 0x4018 ∧
        0x2000 + 8 * (0x30000 / 2 ^ 30 % 2 ^ 9) + 8 ≤ 0x4018 ∧ 0x3000 + 8 * (0x30000 / 2 ^ 21 % 2 ^ 9) + 8 ≤ 0x4018)) = true ∧
    (tableEntry (paged e) 0x4018).toNat = e ∧ (paged e).sigs = [] := by decide +kernel
/-- MAP of that page, refused ones, and one of a frame that another CV maps. -/
def mapping (ty va size pa flags : Nat) (s : State) : State := asks ty [opd 0 0, opd 1 va, opd 2 size, opd 3 pa, opd 4 flags] s
theorem witness_map :
    comes (mapping 9 0x30000 0x10000 0x60000 0x1C (paged 0)) 9 (fun _ n => decide (n 2 = 2 ^ 16 ∧ n 1 % 2 ^ 16 = 0 ∧ n 1 + 2 ^ 16 ≤ 2 ^ 57 ∧ n 3 % 2 ^ 16 = 0 ∧
      n 4 < 2 ^ 7 ∧ n 4 % 4 = 0) && frameOk (paged 0) 0 (n 3) && !mappedAs (paged 0) true (n 3) (2 ^ 16)) = true ∧
    (∀ p ∈ [(0x30800, 0x10000, 0x60000, 0x1C), (0x30000, 0x8000, 0x60000, 0x1C), (0x30000, 0, 0x60000, 0x1C), (2 ^ 57 - 0x10000, 0x20000, 0x60000, 0x1C),
        (0x30000, 0x10000, 0x60001, 0x1C), (0x30000, 0x10000, 0x60000, 1), (0x30000, 0x10000, 0x60000, 256), (0x30000, 0x10000, 2 ^ 39, 0x1C)],
      comes (mapping 9 p.1 p.2.1 p.2.2.1 p.2.2.2 (paged 0)) 9 (fun _ n => (has (Tbl.find (paged 0).ctxs (n 0)) fun c =>
        decide (n 1 % 2 ^ 16 ≠ 0 ∨ n 2 % 2 ^ 16 ≠ 0 ∨ n 2 = 0 ∨ 2 ^ 57 < n 1 + n 2 ∨ n 3 % 2 ^ 16 ≠ 0 ∨ n 4 % 4 ≠ 0 ∨ 2 ^ 8 ≤ n 4) ||
          !framesOk (paged 0) c.desc.part (n 3) (n 2))) = true) ∧
    comes (mapping 9 0x50000 0x10000 0x60000 0x9C (paged 0x6001F)) 9 (fun _ n => mappedAs (paged 0x6001F) false (n 3) (n 2)) = true := by decide +kernel
theorem witness_unmap : (∀ ty ∈ [10, 11], comes (mapping ty 0x30000 0x10000 0 0xC (paged 0x6001F)) ty (fun _ n => decide (n 2 = 2 ^ 16 ∧ n 1 % 2 ^ 16 = 0 ∧
      n 1 + 2 ^ 16 ≤ 2 ^ 57 ∧ n 4 < 2 ^ 8 ∧ n 4 % 4 = 0 ∧ (tableEntry (paged 0x6001F) 0x4018).toNat = 0x60000 + 0x1C + 3 ∧
      (0x1C : Nat).testBit 7 = (n 4).testBit 7)) = true ∧
    comes (mapping ty 0x30000 0x10000 0 0x80 (paged 0x6001F)) ty (fun _ n => decide ((0x1C : Nat).testBit 7 ≠ (n 4).testBit 7)) = true ∧
    comes (mapping ty 0x30001 0x10000 0 0 (paged 0)) ty (fun _ n => decide (n 1 % 2 ^ 16 ≠ 0)) = true) := by decide +kernel
theorem witness_shootdown : has (Tbl.find start.wgs 0) (fun g => decide (g.ctx = 0)) = true := by decide +kernel

/-! ## Services -/

theorem witness_registration : comes (asks 12 [opd 0 0, opd 1 3] device) 12 (fun _ n => decide (n 1 < 4) && (Tbl.find device.ctxs (n 0)).isSome) = true ∧
    comes (asks 12 [opd 0 0, opd 1 4] device) 12 (fun _ n => decide (4 ≤ n 1)) = true := by decide +kernel
/-- A handler record at 0x600000: one that is checked, one that is not, and none. -/
def handlerRec (fs : List (Nat × Nat × Nat)) : State := { device with hbm := fieldsAt device.hbm 0x600000 fs }
def handlerBytes : List Byte :=
  leBytes 16 0x10000 ++ leBytes 4 1 ++ leBytes 4 0x00010001 ++ leBytes 8 95 ++ leBytes 4 1 ++ leBytes 4 0 ++ zeros 96 ++ leBytes 8 0x100000 ++ leBytes 4 1 ++
    zeros 108
theorem witness_handler :
    comes (asks 14 [opd 0 0, opd 1 0x600000] (handlerRec [(0, 8, 0x10000), (16, 4, 1), (20, 4, 0x00010001), (24, 4, 95), (32, 4, 1), (136, 8, 0x100000), (144, 4, 1)])) 14
      (fun m n => (Tbl.find device.ctxs (n 0)).isSome && decide (n 1 ≠ 0 ∧ n 1 % 256 = 0) &&
        decide (tableRead (handlerRec [(0, 8, 0x10000), (16, 4, 1), (20, 4, 0x00010001), (24, 4, 95), (32, 4, 1), (136, 8, 0x100000), (144, 4, 1)]) (n 0) (dwordAt m 16) 256 =
          some handlerBytes)) = true ∧
    (checkHandler device 0 handlerBytes).isSome = true ∧ (checkHandler device 0 (zeros 256)).isNone = true ∧
    comes (asks 14 [opd 0 0, opd 1 0] device) 14 (fun _ n => decide (n 1 = 0)) = true ∧
    comes (asks 14 [opd 0 0, opd 1 0x600080] device) 14 (fun _ n => decide (n 1 % 256 ≠ 0)) = true := by decide +kernel
theorem witness_grants :
    (∀ g ∈ [0, 2 ^ 63 + 143 * 2 ^ 32 + 2 ^ 16 * 9], comes (asks 15 [opd 0 4095, opd 1 g] device) 15 (fun m n => (let g := dwordAt m 16
      decide (n 0 < 4096 ∧ g.toNat / 2 ^ 32 % 2 ^ 9 ≤ 143 ∧ g.toNat / 2 ^ 10 % 2 ^ 6 = 0 ∧ g.toNat / 2 ^ 26 % 2 ^ 6 = 0 ∧ g.toNat / 2 ^ 41 % 2 ^ 19 = 0 ∧ device.grants = []))) = true) ∧
    (∀ p ∈ [(4096, 0), (0, 144 * 2 ^ 32), (0, 2 ^ 10), (0, 2 ^ 26), (0, 2 ^ 59)], comes (asks 15 [opd 0 p.1, opd 1 p.2] device) 15 (fun m n => (let g := dwordAt m 16
      decide (4096 ≤ n 0 ∨ 143 < g.toNat / 2 ^ 32 % 2 ^ 9 ∨ g.toNat / 2 ^ 10 % 2 ^ 6 ≠ 0 ∨ g.toNat / 2 ^ 26 % 2 ^ 6 ≠ 0 ∨ g.toNat / 2 ^ 41 % 2 ^ 19 ≠ 0))) = true) ∧
    (let s := { device with grants := [(1, BitVec.ofNat 64 (2 ^ 63 + 5 * 2 ^ 32))] }
     comes (asks 15 [opd 0 0, opd 1 (2 ^ 63 + 5 * 2 ^ 32)] s) 15 (fun m n => (dwordAt m 16).getLsbD 63 && s.grants.any fun p => p.1 != n 0 && p.2.getLsbD 63 &&
       decide (p.2.toNat / 2 ^ 32 % 2 ^ 9 = (dwordAt m 16).toNat / 2 ^ 32 % 2 ^ 9 ∧ p.2.toNat / 2 ^ 16 % 2 ^ 10 = (dwordAt m 16).toNat / 2 ^ 16 % 2 ^ 10))) = true := by
  decide +kernel
theorem witness_kill : comes (asks 16 [opd 0 0] device) 16 (fun _ n => has (Tbl.find device.ctxs (n 0)) fun c => c.halted.isNone) = true ∧
    comes (asks 16 [opd 0 1] device) 16 (fun _ n => (Tbl.find device.ctxs (n 0)).isNone) = true := by decide +kernel
theorem witness_evread : (∀ k ∈ [0xFFFF, 0, 1], comes (asks 17 [opd 0 k] device) 17 (fun _ n => decide (n 0 = k)) = true) ∧
    comes (asks 18 [] device) 18 (fun _ _ => decide (device.ctxs.length < 2 ^ 16)) = true := by decide +kernel
theorem witness_ethring :
    (∀ k ∈ [0, 12], comes (asks 23 [(8, 8, 0x700040), (16, 2, 2 ^ (k + 3)), (24, 2, 0x3005), (26, 2, 0x800)] device) 23 (fun m _ =>
      decide ((dwordAt m 8).toNat < 2 ^ 57 ∧ (dwordAt m 8).toNat % 64 = 0 ∧ natAt m 18 2 = 0 ∧ natAt m 16 2 = 2 ^ (k + 3)) &&
      (Tbl.find device.ctxs (natAt m 20 4 % 2 ^ 10)).isSome) = true) ∧
    (∀ p ∈ [(8, 8, 2 ^ 57), (8, 8, 32), (18, 2, 1), (20, 2, 1), (16, 2, 9)], comes (asks 23 [p] device) 23 (fun m _ =>
      decide (2 ^ 57 ≤ (dwordAt m 8).toNat ∨ (dwordAt m 8).toNat % 64 ≠ 0 ∨ natAt m 18 2 ≠ 0 ∨ Tbl.find device.ctxs (natAt m 20 4 % 2 ^ 10) = none ∨
        (natAt m 16 2 ≠ 0 ∧ ∀ k, k < 13 → natAt m 16 2 ≠ 2 ^ (k + 3)))) = true) := by decide +kernel
theorem witness_clock :
    comes (asks 24 [opd 0 9] device) 24 (fun _ n => !device.clock.ptpMaster && decide (device.clock.time.toNat ≤ n 0)) = true ∧
    (let s := { device with clock := { device.clock with time := 10 } }
     comes (asks 24 [opd 0 9] s) 24 (fun _ n => decide (n 0 < s.clock.time.toNat))) = true ∧
    (let s := { device with clock := { device.clock with ptpMaster := true } }
     comes (asks 24 [opd 0 9] s) 24 (fun _ _ => s.clock.ptpMaster)) = true ∧
    (∀ k ∈ [0, 1, 0xFF], comes (asks 25 [opd 0 k, opd 1 255] device) 25 (fun _ n => decide (n 0 = k ∧ n 1 ≤ 255)) = true) ∧
    (∀ p ∈ [(2, 0), (0, 256)], comes (asks 25 [opd 0 p.1, opd 1 p.2] device) 25 (fun _ n => decide ((n 0 ≠ 0 ∧ n 0 ≠ 1 ∧ n 0 ≠ 0xFF) ∨ 255 < n 1)) = true) := by
  decide +kernel

/-- A code object at host address 0x8000 with one native image of 4 bytes; its hash is that of four zero bytes. -/
def hashed : List Byte := sha256 (zeros 4)
def codeObject : State := { device with
  host := Memory.stores (fieldsAt [] 0x8000 [(0, 4, 0x4D504201), (4, 4, 1), (8, 2, 1), (64, 2, 0x201), (72, 8, 0x100), (80, 8, 4)]) 0x8058 hashed,
  ev := { State.reset.ev with w := 0x8000 } }
theorem witness_xlate : loadObject codeObject 0x8000 = some (zeros 4) ∧ codeObject.board.boot = 4 ∧ codeObject.ev.w.toNat = 0x8000 ∧
    comes (asks 22 [opd 0 0x8000, opd 1 0] codeObject) 22 (fun _ n => decide (n 1 = 0 ∧ n 0 = 0x8000)) = true ∧
    comes (asks 22 [opd 0 0x8000, opd 1 13] codeObject) 22 (fun _ n => decide (12 < n 1)) = true ∧
    comes (asks 22 [opd 0 0x9000] device) 22 (fun _ n => decide (loadObject device (n 0) = none)) = true := by decide +kernel
/-- An image awaited since CLK 7: parts of it have come, and none. -/
def awaited (clk : Nat) (os : Tbl XObj) : State := { codeObject with
  clock := { codeObject.clock with clk := BitVec.ofNat 64 clk }, ev := { State.reset.ev with a := 0x8000, b := 5, x := 7 },
  net := { codeObject.net with objects := os } }
theorem witness_xlate_timeout : ∀ p ∈ [(21000006, false), (21000007, true)],
    (∀ os ∈ [[], [(5, ({ image := [1], hash := [], mapped := false, since := 7 } : XObj))]], let s := awaited p.1 os
      s.board.boot = 4 ∧ (has (Tbl.find s.net.objects s.ev.b) (fun o => o.mapped)) = false ∧ decide (7 + 21000000 ≤ clkNat s) = p.2 ∧
      loadObject s s.ev.a = some (zeros 4)) ∧
    has (Tbl.find (awaited p.1 [(5, { image := [1], hash := [], mapped := true, since := 7 })]).net.objects 5) (fun o => o.mapped) = true := by decide +kernel

end Sys2Proof.Tests
end

