-- ==== Sys2Proof/Tests/Witness9.lean ====
section
/-! SUPPORT. Witnesses for the statements on the fault service, firmware and reset, the fabric, the network, power and heat. -/

namespace Sys2Proof.Tests

set_option Elab.async false

open Machine

/-! ## The fault service (R332, R333) -/

/-- Fragment 0 parked with PAGE, which waits with the pump house for what it accessed. -/
def faulted (accs : List (DWord × Kind)) (msgs : List Nat) (g : Ctx → Ctx) : State :=
  let s := withF start fun f => { f with st := .parked, cause := .page }
  let k : PhPark := { warp := 0, frag := 0, accs := accs, msgs := msgs, frame := none }
  { s with
    board := device.board, ctxs := s.ctxs.map (fun (p : Nat × Ctx) => (p.1, g { p.2 with parks := [k] })),
    msgs := msgs.map fun t => (t, { ctx := 0, page := 0x8000, kind := 1 }) }
def awaits (s : State) (p : Warp → Frag → PhPark → Bool) : Bool := has (phPark s 0 0) fun r =>
  decide (r.2.2.frame = none ∧ r.2.1.st = .parked ∧ (r.2.1.cause = .page ∨ r.2.1.cause = .prot)) && p r.1 r.2.1 r.2.2
def may (s : State) (ctx : Nat) (q : DWord × Kind) : Bool := decide (pathOf q.1 ∈ ([0, 1, 6, 7] : List Nat) ∧ pathCheck q.1 q.2 = none) &&
  (resolve s { ctx := ctx, wg := none } q.1 1 q.2).isOk
/-- An access that succeeds by now, one that no table maps, and one on a path without tables. -/
def mapped : DWord × Kind := (0x300000, .ld)
def unmapped : DWord × Kind := (0x80000000, .ld)
def pathless : DWord × Kind := (BitVec.ofNat 64 (hostPath 0), .ld)
theorem witness_fault_service :
    awaits (faulted [unmapped] [5] id) (fun _ _ p => decide (p.msgs ≠ [])) = true ∧
    awaits (faulted [mapped] [] id) (fun w _ p => decide (p.msgs = []) && p.accs.all fun q => may (faulted [mapped] [] id) w.ctx q) = true ∧
    awaits (faulted [unmapped] [] id) (fun w _ p => decide (p.msgs = []) && (p.accs.any fun q => !may (faulted [unmapped] [] id) w.ctx q) &&
      has (Tbl.find (faulted [unmapped] [] id).ctxs w.ctx) fun c => !c.paging) = true ∧
    awaits (faulted [pathless] [] id) (fun w _ p => (p.accs.any fun q => !may (faulted [pathless] [] id) w.ctx q) &&
      p.accs.any fun q => decide (pathOf q.1 ∉ ([0, 1, 6, 7] : List Nat))) = true ∧
    (∀ k ∈ [0, 1], let s := { faulted [unmapped] [] (fun c => { c with paging := true }) with msgs := [(9, { ctx := 0, page := 0x8000, kind := k })] }
      awaits s (fun w f p => decide (p.accs = [unmapped]) && !may s w.ctx unmapped && decide (pathOf unmapped.1 ∈ ([0, 1, 6, 7] : List Nat) ∧ f.cause = .page) &&
        (has (Tbl.find s.ctxs w.ctx) fun c => c.paging) &&
        (decide (∃ m ∈ s.msgs, m.2 = { ctx := w.ctx, page := offOf unmapped.1 / 2 ^ 16, kind := unmapped.2.code }) == (k == unmapped.2.code))) = true) := by decide +kernel

theorem witness_pgans :
    (∀ o ∈ [0, 1], let s := asks 13 [opd 0 5, opd 1 o] (faulted [unmapped] [5] id)
      comes s 13 (fun m _ => decide (natAt m 8 8 = 5 ∧ natAt m 16 8 = o)) = true ∧ (Tbl.find s.msgs 5).isSome = true ∧
      (parksOn s 0 5).length = 1 ∧ unitsOn s 5 = [] ∧ awaits s (fun _ _ p => decide (parksOn s 0 5 = [p])) = true) ∧
    (∀ p ∈ [(5, 2), (6, 0)], let s := asks 13 [opd 0 p.1, opd 1 p.2] (faulted [unmapped] [5] id)
      comes s 13 (fun m _ => decide (1 < natAt m 16 8 ∨ Tbl.find s.msgs (natAt m 8 8) = none)) = true) := by decide +kernel

/-- A fault of each engine: a copy, a group of a matrix job, a walk, a build and a blend operation. -/
def engFault (q : DWord × Kind) : EngFault := { cause := .page, addr := q.1, kind := q.2, msg := none }
def unitAt (a b c : Nat) (s : State) : State := { s with ev := { State.reset.ev with a := a, b := b, c := c } }
def group0 (q : DWord × Kind) : Group :=
  { rows := [], layer := 0, h := [], core := 0, order := 3, queued := 0, running := false, out := none, fault := some (engFault q), err := none }
theorem witness_engines : ∀ q ∈ [mapped, unmapped],
    (let s := unitAt 1 copying.ev.a 0 { copying with copies := copying.copies.map fun (p : Nat × Copy) => (p.1, { p.2 with fault := some (engFault q) }) }
     (has (Tbl.find s.copies s.ev.b) fun c => decide (c.fault = some (engFault q)) && (may s c.ctx q == (q == mapped)) && has (Tbl.find s.ctxs c.ctx) fun x => !x.paging) = true) ∧
    (let s := unitAt 2 4 3 { start with jobs := [(4, { cluster := 0, ctx := 0, h := 0, groups := [group0 q] })] }
     (has (Tbl.find s.jobs s.ev.b) fun J => (has (J.groups.find? fun g => g.order == s.ev.c) fun g => decide (g.fault = some (engFault q))) && (may s J.ctx q == (q == mapped)) &&
       has (Tbl.find s.ctxs J.ctx) fun x => !x.paging) = true) ∧
    (let s := unitAt 3 0 0 (walk 0 fun k => { k with pend := some (engFault q) })
     (has (Tbl.find s.walks s.ev.b) fun k => decide (k.pend = some (engFault q) ∧ k.saving = none) && (may s k.ctx q == (q == mapped)) &&
       has (Tbl.find s.ctxs k.ctx) fun x => !x.paging) = true) ∧
    (let s := unitAt 4 building.ev.a 0 { building with builds := [(0, (Tbl.find building.builds 0).getD ((building.builds.map (·.2)).headD
        { warp := 0, ctx := 0, cls := .b, tok := 0, half := 0, desc := 0, kind := 0, radius := 1, scope := 0, rel := false, acq := false, count := 0, prim := 0,
          ibase := 0, nodebase := 0, nodecap := 64, scrbase := 0, scrcap := 4096, order := 0, fault := none, refused := none, resid := .resident }) |> fun b =>
        { b with fault := some (engFault q) })] }
     (has (Tbl.find s.builds s.ev.b) fun b => decide (b.fault = some (engFault q)) && (may s b.ctx q == (q == mapped)) && has (Tbl.find s.ctxs b.ctx) fun x => !x.paging) = true) ∧
    (let t := pixels id none (.pwr vp)
     let s := unitAt 5 t.ev.a 0 { t with pix := t.pix.map fun (p : Nat × PixOp) => (p.1, { p.2 with fault := some (engFault q) }) }
     (has (Tbl.find s.pix s.ev.b) fun o => decide (o.fault = some (engFault q)) && (may s o.ctx q == (q == mapped))) = true) := by decide +kernel

/-! ## Firmware and boot (R345 to R357, R370)

Whether a signature verifies rests on keys that the model leaves free, so a state meets one clause of an FWLOAD or a reset or the other. -/

def booted (n : Nat) (g : Machine.Board → Machine.Board) : State := { device with board := g { device.board with boot := BitVec.ofNat 4 n } }
def bank (major minor : Nat) : Bank := { valid := true, fwver := 1, secver := 0, hash := zeros 32, major := major, minor := minor }
theorem witness_firmware :
    (∀ n ∈ [4, 15], has (messageAt (asks 19 [] (booted n id)) 0) (fun m => decide ((booted n id).board.boot = BitVec.ofNat 4 n ∧ natAt m 0 2 = 19 ∧ natAt m 2 2 = 0)) = true) ∧
    (∀ k ∈ [(bank 1 2, true), (bank 1 1, false), (bank 2 2, false)], let s := asks 20 [] (booted 4 fun b => { b with bank0 := bank 1 2, bank1 := k.1 })
      comes s 20 (fun _ _ => decide (s.board.running = false ∧ s.board.bank1.valid = true ∧
        decide (s.board.bank1.major = s.board.bank0.major ∧ s.board.bank0.minor ≤ s.board.bank1.minor) = k.2)) = true) ∧
    (let s := asks 20 [] device
     comes s 20 (fun _ _ => decide (s.board.running = false ∧ s.board.bank1.valid = false))) = true ∧
    comes (asks 21 [] device) 21 (fun _ _ => true) = true := by decide +kernel
theorem witness_devnum :
    (booted 4 id).board.boot.toNat = 4 ∧ (booted 2 id).board.boot.toNat = 2 ∧ (booted 3 id).board.boot = 3 ∧ (booted 3 id).board.devnum ≠ 0xFF ∧
    (∀ p ∈ [(20999999, false), (21000000, true)], let s := { booted 3 id with clock := { device.clock with clk := BitVec.ofNat 64 p.1 } }
      decide (s.board.train + 21000000 ≤ s.clock.clk.toNat) = p.2) := by decide +kernel
theorem witness_ring_registers : let r := ringOf (asks 1 [] device) 0
    r.mslots.toNat < ((9 : Word) - r.mhead).toNat ∧ ((8 : Word) - r.mhead).toNat ≤ r.mslots.toNat := by decide +kernel

/-! ## The fabric and the host link (R335 to R337, R358 to R360) -/

/-- A header of device 5, context 6, for this device, offset `off`, tag 9. -/
def header (kind aop bytes status off : Nat) (data : List Byte) (s : State) : State :=
  { s with ev := { State.reset.ev with
    w := BitVec.ofNat 64 (kind + 2 ^ 8 * aop + 2 ^ 16 * bytes + 2 ^ 32 * 3 + 2 ^ 41 * 5 + 2 ^ 50 * 6 + 2 ^ 60 * status),
    x := BitVec.ofNat 64 (off + 2 ^ 48 * 9), data := data } }
def fld (x : DWord) (lo n : Nat) : Nat := x.toNat / 2 ^ lo % 2 ^ n
def arrives (s : State) (kind : Nat) (p : Bool) : Bool := decide (fld s.ev.w 0 8 = kind ∧ fld s.ev.w 29 3 = 0 ∧ s.board.standalone = false ∧
  fld s.ev.w 32 9 = s.board.devnum.toNat) && p
/-- Rights 1 to 3 of a grant to that context, on context 0, whose pages peers may use. -/
def granted (rights : Nat) : State := { device with
  grants := [(0, BitVec.ofNat 64 (2 ^ 63 + rights * 2 ^ 60 + 5 * 2 ^ 32 + 6 * 2 ^ 16))], hbm := Memory.setLe device.hbm 0x2000 8 0x5F }
theorem witness_peer_access : ∀ k ∈ [1, 2, 3],
    arrives (header k 0 4 0 0x300000 [] device) k (device.grants.isEmpty) = true ∧
    arrives (header k 0 4 0 0x300000 [] (granted 0)) k (has (grantOf (granted 0) 5 6) fun g => !g.getLsbD (59 + k)) = true ∧
    arrives (header k 0 4 0 0x80000000 [] (granted 7)) k (has (grantOf (granted 7) 5 6) fun g => g.getLsbD (59 + k) &&
      decide (0 < fld (header k 0 4 0 0x80000000 [] (granted 7)).ev.w 16 13) &&
      !(translate (granted 7) (g.toNat % 2 ^ 10) 0x80000000 (if k = 1 then .ld else if k = 2 then .st else .at) false true).isOk) = true ∧
    arrives (header k 0 4 0 0x300000 (leBytes 4 77 ++ zeros 12 ++ [BitVec.ofNat 8 VTy.s32.code.toNat]) (granted 7)) k (has (grantOf (granted 7) 5 6) fun g =>
      g.getLsbD (59 + k) && (List.range 4).all fun j =>
        match translate (granted 7) (g.toNat % 2 ^ 10) (0x300000 + j) (if k = 1 then .ld else if k = 2 then .st else .at) false true with
        | .ok m => decide (m = 0x300000 + j)
        | .error _ => false) = true ∧
    (AtomOp.ofCode 0).isSome = true ∧ VTy.ofCode VTy.s32.code.toNat = some .s32 ∧ atomBytes .s32 = 4 := by decide +kernel

/-- A request of the `sld` at the PC of fragment 0, under tag 9, to a peer or to the host. -/
def sldAt : SFmt := { s0 with z := 0, src := .regs 10 0 0 }
def requested (host : Bool) (sent clk : Nat) : State :=
  let s := coded (.sld sldAt) (withF start fun f => { f with wait := { f.wait with ids := [9] } })
  let r : Req := { host := host, warp := 0, frag := 0, lane := none, copy := none, ctx := 0, tag := 9, addr := 0x300000, bytes := 4,
                   kind := 1, elem := 0, data := [], tok := none, sent := sent }
  { s with
    board := device.board, clock := { s.clock with clk := BitVec.ofNat 64 clk }, ev := { s.ev with a := 9 }, net := { s.net with reqs := [(9, r)] } }
def asked (s : State) (p : Req → Warp → Frag → Bool) : Bool := has (Tbl.find s.net.reqs 9) fun r => has (findFrag s r.warp r.frag) fun q =>
  decide (q.2.wait.ids = [9] ∧ q.2.brk = none ∧ r.lane = none ∧ r.copy = none ∧ r.tag.toNat = 9) && p r q.1 q.2
theorem witness_completion :
    arrives (header 4 0 0 0 0 [] device) 4 ((Tbl.find device.net.reqs 9).isNone) = true ∧
    (∀ st ∈ [0, 1], arrives (header 4 0 4 st 0 (leBytes 4 77) (requested false 0 0)) 4 (asked (requested false 0 0) fun r w f => !r.host &&
      decide (fetchAt (requested false 0 0) w f.pc = .sld sldAt)) = true) ∧
    (∀ p ∈ [(41999, false), (42000, true)], asked (requested false 0 p.1) (fun r _ _ => !r.host && has (Tbl.find (requested false 0 p.1).ctxs r.ctx) fun c =>
      decide (r.sent + 2100 * (if c.desc.peerto = 0 then 20 else c.desc.peerto) ≤ (requested false 0 p.1).clock.clk.toNat) == p.2) = true) ∧
    (∀ p ∈ [(104999, false), (105000, true)], asked (requested true 0 p.1) (fun r _ _ => r.host &&
      decide (r.sent + 105000 ≤ (requested true 0 p.1).clock.clk.toNat) == p.2) = true) := by decide +kernel
theorem witness_arrivals :
    (∀ k ∈ [5, 6, 7], arrives (header k 0 0 0 0 (zeros 64) device) k (device.net.objects.isEmpty && decide ((header k 0 0 0 0 (zeros 64) device).ev.data.length = 64)) = true) ∧
    fld (header 5 0 0 0 0 [] device).ev.x 48 16 ≠ 1 ∧
    (let s := { header 5 0 0 0 0 (hashed ++ zeros 4) device with ev := { (header 5 0 0 0 0 (hashed ++ zeros 4) device).ev with x := BitVec.ofNat 64 (2 ^ 48) } }
     fld s.ev.x 48 16 = 1 ∧ sha256 (s.ev.data.drop 32) = s.ev.data.take 32) ∧
    fld (header 0 0 0 0 0 [] device).ev.w 0 8 = 0 ∧ 8 ≤ fld (header 8 0 0 0 0 [] device).ev.w 0 8 ∧ fld (header 1 0 8192 0 0 [] device).ev.w 29 3 ≠ 0 := by decide +kernel
theorem witness_links : (18 : Nat) ≤ 18 ∧ device.board.cfg.lkmask.getLsbD 15 = true ∧ (15 : Nat) < 16 ∧ device.board.standalone = false ∧ device.board.boot = 4 ∧
    (booted 2 id).board.boot ≠ 4 ∧ (booted 2 id).board.boot ≠ 3 ∧
    (∀ p ∈ [(0x3FFFE, true), (0x3FFFC, false)], let s := { booted 3 id with net := { device.net with linksUp := BitVec.ofNat 20 p.1 } }
      s.board.devnum ≠ 0xFF ∧ ((List.range 18).all fun k => !s.board.cfg.lkmask.getLsbD k || s.net.linksUp.getLsbD k || decide (k = 0)) = p.2) := by decide +kernel

/-! ## Ethernet, PTP, power and heat (R361 to R369) -/

/-- A frame of 64 bytes with a VLAN tag, and one without. -/
def frame (tagged : Bool) : List Byte := zeros 12 ++ (if tagged then [0x81, 0x00, 0x00, 0x05, 0x08, 0x00] else [0x08, 0x00, 0, 0, 0, 0]) ++ zeros 46
/-- Port 1 has rings 2 and 3; ring 3 takes EtherType 0x800 of any VLAN, with its descriptors at 0x700000, which name the buffer at 0x710000. -/
def ring (etype vlan : Nat) : EthRing := { rbase := 0x700000, rcount := 8, ctx := 0, etype := etype, vlan := vlan, s := 9, warned := false }
def received (ok len : Nat) (f : List Byte) (r : EthRing) : State := { device with
  ev := { State.reset.ev with a := 1, data := f }, net := { device.net with eth := [(10, ring 0x900 0xFFF), (11, r)] },
  hbm := fieldsAt device.hbm 0x700040 [(0, 8, 0x710000), (8, 4, len), (60, 4, ok * 2 ^ 31)] }
def opened (s : State) : Bool := decide (s.ev.a < 2 ∧ s.board.cfg.lkmask.getLsbD (18 + s.ev.a) = true ∧ s.net.linksUp.getLsbD (16 + s.ev.a) = true)
def takes (r : EthRing) (f : List Byte) : Bool :=
  let t := beNat ((f.drop 12).take 2)
  decide (r.rcount ≠ 0 ∧ (r.etype = 0 ∨ r.etype = if t = 0x8100 then beNat ((f.drop 16).take 2) else t) ∧
    (r.vlan = 0xFFF ∨ (t = 0x8100 ∧ r.vlan = beNat ((f.drop 14).take 2) % 2 ^ 12)))
theorem witness_frames :
    (∀ p ∈ [(true, ring 0x800 5), (true, ring 0 0xFFF), (false, ring 0x800 0xFFF)], let s := received 1 64 (frame p.1) p.2
      opened s = true ∧ takes (ring 0x900 0xFFF) s.ev.data = false ∧ takes p.2 s.ev.data = true) ∧
    opened { received 1 64 (frame true) (ring 0 0xFFF) with ev := { State.reset.ev with a := 2 } } = false ∧
    (let s := received 1 64 (frame false) (ring 0x800 5)
     opened s = true ∧ s.net.eth.all (fun p => !takes p.2 s.ev.data) = true) ∧
    (∀ p ∈ [(0, 64), (1, 0), (1, 96)], (has (tableRead (received p.1 p.2 (frame true) (ring 0 0xFFF)) 0 0x700040 64) fun bs =>
      decide (natAt bs 60 4 / 2 ^ 31 = 0 ∨ natAt bs 8 4 = 0 ∨ natAt bs 8 4 % 64 ≠ 0)) = true) ∧
    (let s := received 1 64 (frame true) (ring 0 0xFFF)
     let who : Who := { ctx := 0, wg := none }
     has (tableRead s 0 0x700040 64) (fun bs => decide (natAt bs 60 4 / 2 ^ 31 ≠ 0 ∧ natAt bs 8 4 = 64 ∧ (dwordAt bs 0).toNat = 0x710000)) = true ∧
     (match writeVirt s who 0x710000 s.ev.data with
      | .ok u => (match writeVirt u who (0x700040 + 16) (zeros 20) with
        | .ok u => (writeVirt u who (0x700040 + 60) (leBytes 4 9)).isOk
        | .error _ => false)
      | .error _ => false) = true) ∧
    (let s := received 1 64 (frame true) { ring 0 0xFFF with rbase := 0x80000000 }
     tableRead s 0 0x80000040 64 = none) := by decide +kernel
theorem witness_ptp : (∀ c ∈ [0, 1], ∀ n ∈ [(1000000 : Int), 1000001, -1000001], let s := { received 1 64 [] (ring 0 0) with
      clock := { device.clock with ptpPort := some 1, ptpDomain := 3 }, ev := { State.reset.ev with a := 1, b := 3, c := c, n := n } }
      s.clock.ptpPort = some s.ev.a ∧ s.clock.ptpDomain.toNat = s.ev.b ∧ opened s = true) ∧ device.clock.ptpPort ≠ some device.ev.a := by decide +kernel
/-- Throttles at rest, spaced as far as they go, and withheld. -/
theorem witness_power : device.board.space = 0 ∧ device.board.withhold = 0 ∧ 1000 * device.board.cfg.pwrlim.toNat = 1900000 ∧
    Config.deepestSpace ≤ { device.board with space := Config.deepestSpace }.space ∧ { device.board with withhold := 1 }.withhold ≠ 0 :=
  ⟨rfl, rfl, rfl, Nat.le_refl _, by decide⟩

end Sys2Proof.Tests
end

