-- ==== Sys2Proof/Tests/Witness11.lean ====
section
/-! SUPPORT. Witnesses for the statements on joins, splits, accesses that fault, the pump-house cores, boot, the fabric and the scheduler: the
clauses that the other files leave. -/

namespace Sys2Proof.Tests

set_option Elab.async false

open Machine

/-! ## Joins and splits (R18 to R21) -/

/-- Fragments 0 and 1 of `halves`, held at level `a` and `b` of the structure, at the word `g`; J is 1 and 2. -/
def heldAt (a b : Nat) (g : Word) : State :=
  let s := withWarp halves fun w => { w with frags := w.frags.map fun (p : Nat × Frag) => (p.1, { p.2 with
    st := .held, s := BitVec.ofNat 8 (if p.1 = 0 then a else b), j := BitVec.ofNat 8 (p.1 + 1), skip := false }) }
  { s with hbm := Memory.setLe s.hbm 0x10000 4 g.toNat }

/-- A rejoin and an `endif` at its J in a warp of two fragments; warps that do not merge, and warps that do: two fragments into one, and one
of two beside the other. -/
theorem witness_joins :
    Meets (.rejoin c0) (fun _ _ _ w f => 1 < w.frags.length ∧ f.skip = false) ∧
    Meets (.endif c0) (fun _ _ _ w f => 1 < w.frags.length ∧ f.skip = false ∧ f.s = f.j) ∧
    Meets (.endloop c0) (fun _ _ _ w f => 1 < w.frags.length ∧ f.skip = false ∧ f.s = f.j) ∧
    (∃ w f, findFrag halves 0 0 = some (w, f) ∧ (w.frags.any fun p => p.2.st != .held) = true) ∧
    (∀ p ∈ [(3, 3), (2, 3)], ∃ w f, findFrag (heldAt p.1 p.2 0x20000000) 0 0 = some (w, f) ∧ (decide (w.frags.wf = true ∧ w.frags.length = 2 ∧
      f.tokHeld = none) && w.frags.all (fun q => q.2.st == .held && q.2.pc == f.pc && q.2.tokHeld.isNone) &&
      mayBegin (heldAt p.1 p.2 0x20000000) w && !slotHeld (heldAt p.1 p.2 0x20000000) w.ctl w.core w.quarter) = true) := by
  refine ⟨.here halves (by decide +kernel), .here (withF halves fun f => { f with j := f.s }) (by decide +kernel),
    .here (withF halves fun f => { f with j := f.s }) (by decide +kernel), found _ _ _ _ (by decide +kernel), fun p h => ?_⟩
  simp only [List.mem_cons, List.not_mem_nil, or_false] at h
  rcases h with h | h <;> subst h <;> exact found _ _ _ _ (by decide +kernel)

/-- The word at a merge is an `endif`, an `endloop` with lanes that go back and with none, and neither. -/
def isEndif (i : Instr) : Bool := match i with | .endif _ => true | _ => false
def isEndloop (i : Instr) : Bool := match i with | .endloop _ => true | _ => false
theorem witness_merge_words :
    (∃ w f, findFrag (heldAt 3 3 ((Instr.endif c0).encode.headD 0)) 0 0 = some (w, f) ∧ isEndif (fetchAt (heldAt 3 3 ((Instr.endif c0).encode.headD 0)) w f.pc) = true) ∧
    (∃ w f, findFrag (heldAt 3 3 ((Instr.endloop c0).encode.headD 0)) 0 0 = some (w, f) ∧
      (isEndloop (fetchAt (heldAt 3 3 ((Instr.endloop c0).encode.headD 0)) w f.pc) && decide (w.depthOf 0 ≤ 1)) = true) ∧
    (∃ w f, findFrag (withWarp (heldAt 3 3 ((Instr.endloop c0).encode.headD 0)) fun w => { w with depth := (List.range 96).map fun l => (l, 2) }) 0 0 = some (w, f) ∧
      ((List.range 96).all fun l => decide (1 < w.depthOf l)) = true) ∧
    (∃ w f, findFrag (heldAt 3 3 0) 0 0 = some (w, f) ∧ (!isEndif (fetchAt (heldAt 3 3 0) w f.pc) && !isEndloop (fetchAt (heldAt 3 3 0) w f.pc)) = true) :=
  ⟨found _ _ _ _ (by decide +kernel), found _ _ _ _ (by decide +kernel), found _ _ _ _ (by decide +kernel), found _ _ _ _ (by decide +kernel)⟩

/-- A warp with one fragment, which may divide into eight, and one with eight, which may not divide. -/
def eight : State := withWarp start fun w => { w with frags := w.frags.flatMap fun (p : Nat × Frag) => (List.range 8).map fun k =>
  (k, { p.2 with lanes := BitVec.ofNat 96 (2 ^ k), st := if k = 0 then .running else .ready }) }
theorem witness_splits : ∀ p ∈ [(start, 7), (eight, 0)], ∃ w f, findFrag p.1 0 0 = some (w, f) ∧ (decide (w.level = .u ∧
    ((List.range 8).filter fun k => (Tbl.find w.frags k).isNone).length = p.2 ∧ coreFrags p.1 w.ctl w.core + p.2 ≤ coreEntries w.ctl)) = true := by
  intro p h
  simp only [List.mem_cons, List.not_mem_nil, or_false] at h
  rcases h with h | h <;> subst h <;> exact found _ _ _ _ (by decide +kernel)

/-! ## Accesses that fault or wait (R160, R53, R173, R174) -/

/-- `memory` with another base in s10:11. -/
def based (a : DWord) : State := withS memory [(3, 1), (5, 0x80000000), (10, a.setWidth 32), (11, a.extractLsb' 32 32), (12, 8)]
/-- Lanes 0 and 95 make one access each. -/
def accessed (i : Instr) (s : State) (wid fid : Nat) (w : Warp) (f : Frag) (p : State → List LAcc → Issue → Bool) : Bool :=
  decide (Active i w f ∧ i.token = none) && has (mkIssue i wid fid w f).accesses fun as => decide (as.map (·.lane) = [0, 95]) && p s as (mkIssue i wid fid w f)
def clearOf (as : List LAcc) (k : Kind) : Bool := as.all fun a => (pathCheck a.addr k).isNone && a.addr.toNat % a.n == 0
def nearBy (s : State) (as : List LAcc) (w : Nat) : Bool := decide (absentLines s w (as.map fun a => (a.addr, a.n)) = []) &&
  as.all fun a => !inRefresh s a.addr
/-- Bits 57 to 59 that are not 0; a store on path 0x3; odd addresses; absent lines of the scratchpad; a read on path 0x3 while its half is
refreshed; pages whose locked translations are lost; a page that is not there, for both lanes and for one. -/
def absentAt (s : State) : State := { s with wgs := s.wgs.map fun (p : Nat × Wg) => (p.1, { p.2 with absent := [(0, 1)] }) }
def lostAt (s : State) : State := { s with wgs := s.wgs.map fun (p : Nat × Wg) =>
  (p.1, { p.2 with locks := [{ base := 0x200000, len := 8, pages := [(0x200000, 0x200000, .lost)] }] }) }
def apart : State := withWarp memory fun w => { w with vregs := [(15, 240), (95, 0x7FE00000)] }
theorem witness_access_faults :
    Meets (.vld .b32 vm1) (fun s wid fid w f => accessed (.vld .b32 vm1) s wid fid w f fun _ as _ =>
      as.all fun a => decide (pathCheck a.addr .ld = some .path)) ∧
    Meets (.vst .b32 vm1) (fun s wid fid w f => accessed (.vst .b32 vm1) s wid fid w f fun _ as _ =>
      as.all fun a => decide (pathCheck a.addr .st = some .wswr)) ∧
    Meets (.vatom .add vm1) (fun s wid fid w f => accessed (.vatom .add vm1) s wid fid w f fun _ as _ =>
      as.all fun a => (pathCheck a.addr .at).isNone && a.addr.toNat % a.n != 0) ∧
    Meets (.vld .b32 vm1) (fun s wid fid w f => accessed (.vld .b32 vm1) s wid fid w f fun s as x => clearOf as .ld &&
      decide (absentLines s x.w.wg (as.map fun a => (a.addr, a.n)) ≠ [])) ∧
    Meets (.vld .b32 vm1) (fun s wid fid w f => accessed (.vld .b32 vm1) s wid fid w f fun s as x => clearOf as .ld &&
      decide (absentLines s x.w.wg (as.map fun a => (a.addr, a.n)) = []) && as.all fun a => inRefresh s a.addr) ∧
    Meets (.vld .b32 vm1) (fun s wid fid w f => accessed (.vld .b32 vm1) s wid fid w f fun s as x => clearOf as .ld && nearBy s as x.w.wg &&
      as.all fun a => lockMiss s x.w.wg a.addr) ∧
    Meets (.vgld .b32 vm1) (fun s wid fid w f => accessed (.vgld .b32 vm1) s wid fid w f fun s as x => clearOf as .ld && nearBy s as x.w.wg &&
      as.all (fun a => !lockMiss s x.w.wg a.addr) && [0, 95].all fun l => (x.laneFault s as l).map (·.1) == some .page) ∧
    Meets (.vgst .b32 vm1) (fun s wid fid w f => accessed (.vgst .b32 vm1) s wid fid w f fun s as x => clearOf as .st && nearBy s as x.w.wg &&
      as.all (fun a => !lockMiss s x.w.wg a.addr) && (x.laneFault s as 0).isNone && (x.laneFault s as 95).map (·.1) == some .page) :=
  ⟨.here (based 0x0200000000000000) (by decide +kernel), .here (based 0x3000000000000000) (by decide +kernel), .here (based 0x200001) (by decide +kernel),
   .here (absentAt (based 0x2000000000000000)) (by decide +kernel), .here (based 0x3000000000000000) (by decide +kernel),
   .here (lostAt memory) (by decide +kernel), .here (based 0x80000000) (by decide +kernel), .here apart (by decide +kernel)⟩

/-- The same of scalar accesses, and one to a peer that no link leads to. -/
def scalarAt (i : Instr) (s : State) (wid fid : Nat) (w : Warp) (f : Frag) (p : State → Nat → DWord → Nat → Bool) : Bool :=
  decide (Active i w f) && has (mkIssue i wid fid w f).scalarAccess fun q => p s w.wg q.1 q.2
def freeWay (s : State) (wg : Nat) (a : DWord) (n : Nat) (k : Kind) : Bool :=
  decide (pathCheck a k = none ∧ a.toNat % n = 0 ∧ absentLines s wg [(a, n)] = [] ∧ inRefresh s a = false ∧ lockMiss s wg a = false)
def toPeer (s : State) (wg : Nat) (a : DWord) (p : PeerWay → Bool) : Bool := match resolve s { ctx := 0, wg := some wg } a 4 .ld with
  | .ok (.peer d _) => p (peerWay s 0 d)
  | _ => false
def linked : State := { based 0x4007000000000000 with board := device.board, parts := device.parts, net := device.net }
def sl : SFmt := { s0 with z := 4 }
theorem witness_scalar_faults :
    Meets (.sld sl) (fun s wid fid w f => scalarAt (.sld sl) s wid fid w f fun _ _ a _ => decide (pathCheck a .ld = some .path)) ∧
    Meets (.sst sl) (fun s wid fid w f => scalarAt (.sst sl) s wid fid w f fun _ _ a _ => decide (pathCheck a .st = some .wswr)) ∧
    Meets (.sld sl) (fun s wid fid w f => scalarAt (.sld sl) s wid fid w f fun _ _ a n => (pathCheck a .ld).isNone && a.toNat % n != 0) ∧
    Meets (.sld sl) (fun s wid fid w f => scalarAt (.sld sl) s wid fid w f fun s wg a n => (pathCheck a .ld).isNone && a.toNat % n == 0 &&
      decide (absentLines s wg [(a, n)] ≠ [])) ∧
    Meets (.sld sl) (fun s wid fid w f => scalarAt (.sld sl) s wid fid w f fun s wg a n => (pathCheck a .ld).isNone && a.toNat % n == 0 &&
      decide (absentLines s wg [(a, n)] = []) && inRefresh s a) ∧
    Meets (.sld sl) (fun s wid fid w f => scalarAt (.sld sl) s wid fid w f fun s wg a n => (pathCheck a .ld).isNone && a.toNat % n == 0 &&
      decide (absentLines s wg [(a, n)] = []) && !inRefresh s a && lockMiss s wg a) ∧
    Meets (.sld sl) (fun s wid fid w f => scalarAt (.sld sl) s wid fid w f fun s wg a n => freeWay s wg a n .ld &&
      !(resolve s { ctx := w.ctx, wg := some wg } a n .ld).isOk) ∧
    Meets (.swait .eq sl) (fun s wid fid w f => scalarAt (.swait .eq sl) s wid fid w f fun s wg a n => freeWay s wg a n .ld && waitPath a &&
      toPeer s wg a (· == .noRoute)) ∧
    Meets (.swait .eq sl) (fun s wid fid w f => scalarAt (.swait .eq sl) s wid fid w f fun s wg a n => freeWay s wg a n .ld && waitPath a &&
      toPeer s wg a (· == .links)) :=
  ⟨.here (based 0x0200000000000000) (by decide +kernel), .here (based 0x3000000000000000) (by decide +kernel), .here (based 0x200001) (by decide +kernel),
   .here (absentAt (based 0x2000000000000000)) (by decide +kernel), .here (based 0x3000000000000000) (by decide +kernel),
   .here (lostAt memory) (by decide +kernel), .here (based 0x80000000) (by decide +kernel), .here (based 0x4007000000000000) (by decide +kernel),
   .here linked (by decide +kernel)⟩

/-! ## Pump-house cores (R338 to R341) -/

/-- A queue whose launch was handed over, one whose command goes on, and one with none. -/
theorem witness_retired : ∀ r ∈ [some (.handed 7), some (.launch 7 0), none], ({ queue0 with run := r } : Queue).head ≠ ({ queue0 with run := r } : Queue).tail := by
  decide
theorem witness_handed : (match handedRecord device 0 launchBytes with | .ok y => y.nodes.isEmpty | .error _ => false) = true ∧
    (handedRecord device 0 (zeros 256)).isOk = false := by decide +kernel

/-! ## Boot and host reads (R355, R356, R370) -/

theorem witness_boot : ∀ n ∈ [0, 1, 2, 3, 4, 15], ∀ p ∈ [true, false], ({ booted n id with turns := [.boot p] } : State).turns = [.boot p] ∧
    (booted n id).board.boot = BitVec.ofNat 4 n := by decide
theorem witness_host_reads : ∀ p ∈ [(2, 65472, 64), (0, 0, 4), (0, 4, 1), (0, 0x410, 8), (0, 0x418, 8), (0, 0x24, 4), (0, 0x28 + 32 * 15, 4)],
    ({ device with turns := [.hostRead p.1 p.2.1 p.2.2] } : State).turns = [.hostRead p.1 p.2.1 p.2.2] ∧
    p.2.1 + p.2.2 ≤ (if p.1 = 2 then 65536 else 4096) := by decide
theorem witness_register_writes : ∀ k ∈ [0, 15], ∀ p ∈ [(0x10, 8), (0x10, 4), (0x14, 4), (0x18, 8), (0x1C, 4), (0x20, 8)],
    (let s := { device with ev := { State.reset.ev with a := p.1 + 32 * k, b := p.2 } }
     s.ev.a = p.1 + 32 * k ∧ s.ev.b = p.2 ∧ k < 16) := by decide

/-! ## Images, PTP and power (R352, R365, R366) -/

/-- The last part of an image whose hash is another's, where the host's object is at hand. -/
theorem witness_image_mismatch : let s := header 5 0 0 0 0 (zeros 32 ++ zeros 4) codeObject
    let t := { s with ev := { s.ev with x := BitVec.ofNat 64 (2 ^ 48), a := 0x8000 } }
    arrives t 5 (decide (fld t.ev.x 48 16 = 1 ∧ t.net.objects = [] ∧ sha256 (t.ev.data.drop 32) ≠ t.ev.data.take 32 ∧
      loadObject t t.ev.a = some (zeros 4))) = true := by decide +kernel

/-- A PTP message of domain 3 to port 1 that waits behind one to port 0; and a frame that is none. -/
def sync : List Byte := zeros 12 ++ [0x88, 0xF7, 0, 0, 0, 0, 3] ++ zeros 45
def steered (port : Option Nat) (domain : Byte) (n : Int) : State := { device with
  clock := { device.clock with ptpPort := port, ptpDomain := domain }, ev := { State.reset.ev with a := 1, n := n },
  net := { device.net with ptpIn := [(0, sync), (1, sync)] } }
theorem witness_ptp_messages : isPtp sync = true ∧ isPtp (frame true) = false ∧ ptpDomain sync = 3 ∧
    (∀ n ∈ [(1000000 : Int), 1000001], let s := steered (some 1) 3 n
      s.net.ptpIn = [(0, sync)] ++ (s.ev.a, sync) :: [] ∧ (∀ q ∈ [(0, sync)], q.1 ≠ s.ev.a) ∧ s.ev.c = 0 ∧ s.clock.ptpPort = some s.ev.a ∧
      s.clock.ptpDomain.toNat = ptpDomain sync) ∧
    (steered none 3 0).clock.ptpPort ≠ some 1 ∧ (steered (some 1) 4 0).clock.ptpDomain.toNat ≠ ptpDomain sync ∧
    (∀ q ∈ device.net.ptpIn, q.1 ≠ device.ev.a) := by decide +kernel
theorem witness_power_periods : (atClk 20999 device).clock.clk.toNat / 21000 ≤ device.board.powerAt ∧
    device.board.powerAt < (atClk 21000 device).clock.clk.toNat / 21000 ∧
    (∀ n ∈ [(1759 : Int), 1760, 1919, 1920], ({ device with ev := { State.reset.ev with n := n } } : State).ev.a < 2) := by decide +kernel

/-! ## Halts beside others (R319) -/

/-- A context that halts beside a fragment of another, which waits for a place among the copies. -/
def neighbour : State := let s := halting (some (0x14, 3, 0, 0))
  { s with warps := s.warps ++ s.warps.map fun (p : Nat × Warp) => (9, { p.2 with
      ctx := 1, core := 1, frags := p.2.frags.map fun (q : Nat × Frag) => (q.1, { q.2 with st := .stalled, wkind := .copySlots }) }) }
theorem witness_neighbour : has (Tbl.find neighbour.warps 9) (fun w => decide (w.ctx ≠ neighbour.ev.a) &&
    w.frags.all fun q => q.2.st == .stalled && q.2.wkind == .copySlots) = true ∧
    (has (Tbl.find neighbour.ctxs neighbour.ev.a) fun c => c.halted.isSome) = true := by decide +kernel

end Sys2Proof.Tests
end

