-- ==== Sys2Proof/Tests/Witness3.lean ====
section
/-! SUPPORT. Witnesses for the statements on tiles, accumulators, matrix operations and neural calls. -/

namespace Sys2Proof.Tests

set_option Elab.async false

open Machine

/-! ## Tiles -/

/-- Tile shapes: 8 rows of 32 bytes (t0, t1), 32 rows of 8 bytes (t2), 8 rows of one byte (t3), none (t4); and no shape at t5. -/
def tiled : State := withWarp (withS start [(10, 0x200000), (20, 64), (30, 0x00030008)]) fun w =>
  { w with pcr := { w.pcr with tsh := [(0, 0x40080020), (1, 0x40080020), (2, 0x40200008), (3, 0x40080001)] }, tile := [(0, 0x38), (16384, 0x40)],
           acc := [(4096 * 5, 7)] }

/-- The premises that warp-wide instructions share. -/
def whole (s : State) (wid : Nat) (w : Warp) (f : Frag) : Bool := decide (w.act f none = w.alive ∧ w.act f none ≠ 0 ∧ BoardFree s wid w)

def vt : VFmt := { v0 with a := .vreg 2, b := .vreg 0, c := .vreg 0 }

theorem witness_tiles :
    Starts (.tcfg s0) ∧ Starts (.tcfg { s0 with src := .imm 0 0x3F8080 }) ∧
    Meets (.tzero { vt with x := 15 }) (fun s wid _ w f => whole s wid w f ∧ 15 < w.tiles) ∧
    Meets (.vtot { vt with x := 0, y := 3 }) (fun s wid _ w f => whole s wid w f ∧ 0 < w.tiles ∧ 2 + 4 ≤ w.top) ∧
    Meets (.ttov { vt with x := 0, y := 3 }) (fun s wid _ w f => whole s wid w f ∧ 0 < w.tiles ∧ 8 + 4 ≤ w.top) ∧
    Meets (.ttr { vt with x := 2 }) (fun s wid _ w f => whole s wid w f ∧ w.tileShape 2 = some { ew := 8, rows := 32, cols := 8 } ∧
      w.tileShape 0 = some { ew := 8, rows := 8, cols := 32 }) ∧
    Meets (.ttr { vt with x := 1 }) (fun _ _ _ w f => w.act f none = w.alive ∧ w.tileShape 1 = some { ew := 8, rows := 8, cols := 32 } ∧
      w.tileShape 0 = some { ew := 8, rows := 8, cols := 32 }) :=
  ⟨Starts.all tiled (is := [_]) (by decide +kernel) _ (List.mem_singleton.mpr rfl), Starts.all tiled (is := [_]) (by decide +kernel) _ (List.mem_singleton.mpr rfl),
   .here tiled (by decide +kernel), .here tiled (by decide +kernel), .here tiled (by decide +kernel), .here tiled (by decide +kernel), .here tiled (by decide +kernel)⟩

/-- Warp-wide instructions with some lanes active, and with a tile or an accumulator tile at the count. -/
theorem witness_tile_faults :
    (∀ c ∈ ([.tld, .tst, .tzero, .vtot, .ttov, .ttr, .mma, .mmaz, .mmax, .mmaxz, .czero, .cst, .cld, .ctov, .crel] : List (VFmt → Instr)),
      ∀ i ∈ [c vt], Starts i) ∧
    Meets (.tzero vt) (fun _ _ _ w f => Active (.tzero vt) w f ∧ w.act f none ≠ w.alive) ∧
    Meets (.czero { vt with x := 48 }) (fun _ _ _ w f => w.act f none = w.alive ∧ w.accs = 48) ∧
    Meets (.tzero { vt with x := 15 }) (fun _ _ _ w f => w.act f none = w.alive ∧ w.tiles = 15) ∧
    Meets (.tld { vt with x := 5 }) (fun _ _ _ w f => w.act f none = w.alive ∧ shapeOf (Tbl.read 0 w.pcr.tsh 5) = none) ∧
    shapeOf 0x7F400100 = none ∧ shapeOf 0x40400100 = some { ew := 8, rows := 64, cols := 256 } :=
  ⟨fun c h => by
    simp only [List.mem_cons, List.not_mem_nil, or_false] at h
    rcases h with h | h | h | h | h | h | h | h | h | h | h | h | h | h | h <;> subst h <;> exact Starts.all tiled (by decide +kernel),
   .here (withF tiled fun f => { f with lanes := 1 }) (by decide +kernel), .here tiled (by decide +kernel),
   .here (withWarp tiled fun w => { w with tiles := 15 }) (by decide +kernel), .here tiled (by decide +kernel), by decide, by decide⟩

/-- Rows of 32 bytes, 64 apart, at 0x200000. -/
def vtm : VFmt := { v0 with a := .sreg 10, b := .sreg 20, c := .vreg 0, d := 0, x := 0, y := 5 }
theorem witness_tile_memory : ∀ c ∈ ([.tld, .tst] : List (VFmt → Instr)),
    Meets (c vtm) fun s wid fid w f => whole s wid w f ∧ w.tileShape 0 = some { ew := 8, rows := 8, cols := 32 } ∧ w.tokBusy 5 = false ∧
      (w.sreg 11 ++ w.sreg 10).toNat % 4 = 0 ∧ (selInt w fid f 1 vtm.b 0).toNat % 4 = 0 ∧
      ((List.range 8).all fun r => (List.range 8).all fun j =>
        let a := (w.sreg 11 ++ w.sreg 10) + 64 * BitVec.ofNat 64 r + BitVec.ofNat 64 (4 * j)
        decide (pathCheck a .st = none ∧ absentLines s w.wg [(a, 4)] = [] ∧ inRefresh s a = false ∧ lockMiss s w.wg a = false ∧
          (resolve s { ctx := w.ctx, wg := some w.wg } a 4 .st).toOption = some (.hbm a.toNat))) := by
  intro c h
  simp only [List.mem_cons, List.not_mem_nil, or_false] at h
  rcases h with h | h <;> subst h <;> exact .here tiled (by decide +kernel)

/-! ## Accumulators -/

theorem witness_accumulators :
    Meets (.czero { vt with x := 47 }) (fun s wid _ w f => whole s wid w f ∧ 47 < w.accs) ∧
    Meets (.crel { vt with x := 0 }) (fun s wid _ w f => whole s wid w f ∧ 0 < w.accs) ∧
    Meets (.ctov { vt with x := 5, y := 3 }) (fun s wid _ w f => whole s wid w f ∧ 5 < w.accs ∧ 8 + 4 ≤ w.top) ∧
    Meets (.ctov { vt with x := 5, y := 3, d := 2045 }) (fun s wid _ w f => whole s wid w f ∧ 5 < w.accs ∧ w.top < 2045 + 4) ∧
    Meets (.cst { vtm with x := 5, a := .sreg 20, b := .sreg 30, ty := .f32 }) (fun s wid fid w f => whole s wid w f ∧ 5 < w.accs ∧ w.tokBusy 5 = false ∧
      (w.sreg 30).toNat = 0x30008 ∧ (selInt w fid f 0 (.sreg 20) 0).toNat + 3 * 8 + 4 ≤ scratchBytes s (some w.wg)) ∧
    (∀ t ∈ ([{ vtm with x := 5, a := .sreg 20, b := .sreg 30, ty := .f32, y := 0x35 }, { vtm with x := 5, a := .sreg 20, b := .sreg 30, ty := .s32, y := 0x15 }] :
      List VFmt), Meets (.cst t) fun s wid _ w f => whole s wid w f ∧ 5 < w.accs ∧ t.cstIll = true) ∧
    Meets (.cld { vtm with x := 5, a := .sreg 20, b := .sreg 30, ty := .f32 }) (fun s wid fid w f => whole s wid w f ∧ 5 < w.accs ∧ w.tokBusy 5 = false ∧
      (w.sreg 30).toNat = 0x30008 ∧ (selInt w fid f 0 (.sreg 20) 0).toNat + 3 * 8 + 4 ≤ scratchBytes s (some w.wg) ∧
      ∀ i, i < 4 → absentLines s w.wg [(BitVec.ofNat 64 (2 * 2 ^ 60 + (selInt w fid f 0 (.sreg 20) 0).toNat + i * 8), 4)] = []) :=
  ⟨.here tiled (by decide +kernel), .here tiled (by decide +kernel), .here tiled (by decide +kernel), .here tiled (by decide +kernel), .here tiled (by decide +kernel),
   fun t h => by
    simp only [List.mem_cons, List.not_mem_nil, or_false] at h
    rcases h with h | h <;> subst h <;> exact .here tiled (by decide +kernel),
   .here tiled (by decide +kernel)⟩

/-! ## Matrix operations -/

/-- c5 += t0 · t1ᵀ in E4M3, and scaled by t3 and t3. -/
def vm8 : VFmt := { v0 with ty := .e4m3x4, d := 0, a := .vreg 0, b := .vreg 0, c := .vreg 0, x := 5, y := 0x10 }
theorem witness_mma :
    (∀ c ∈ ([.mma, .mmaz] : List (VFmt → Instr)), Meets (c vm8) fun s wid _ w f => whole s wid w f ∧ 5 < w.accs ∧
      w.tileShape 0 = some { ew := 8, rows := 8, cols := 32 } ∧ w.tileShape 1 = some { ew := 8, rows := 8, cols := 32 } ∧ mmaWidth .e4m3x4 = 8 ∧
      32 % mmaBlock .e4m3x4 false = 0) ∧
    (∀ c ∈ ([.mmax, .mmaxz] : List (VFmt → Instr)), Meets (c { vm8 with b := .vreg 0x33 }) fun s wid _ w f => whole s wid w f ∧ 5 < w.accs ∧
      w.tileShape 0 = some { ew := 8, rows := 8, cols := 32 } ∧ w.tileShape 1 = some { ew := 8, rows := 8, cols := 32 } ∧
      w.tileShape 3 = some { ew := 8, rows := 8, cols := 1 } ∧ 32 % mmaBlock .e4m3x4 true = 0) ∧
    Meets (.mma { vm8 with y := 0x20 }) (fun _ _ _ w f => w.act f none = w.alive ∧ 5 < w.accs ∧
      mmaShapes .e4m3x4 false (w.tileShape 0) (w.tileShape 2) none none = false) := by
  refine ⟨fun c h => ?_, fun c h => ?_, .here tiled (by decide +kernel)⟩ <;>
    simp only [List.mem_cons, List.not_mem_nil, or_false] at h <;> rcases h with h | h <;> subst h <;> exact .here tiled (by decide +kernel)

/-- The operation that `mma` queues, before and after its start. -/
def queuedMma : State := event 0 0 (after (.mma vm8) tiled)
def started : State := after .matrixOpStart queuedMma
theorem witness_matrix_events :
    ((mopsOn queuedMma queuedMma.ev.a).map fun p => (p.2.running, (Tbl.find queuedMma.warps p.2.warp).isSome)) = [(false, true)] ∧ groupsOn queuedMma queuedMma.ev.a = [] ∧
    ((mopsOn started started.ev.a).map fun p => (p.2.running, (Tbl.find started.warps p.2.warp).isSome)) = [(true, true)] ∧
    (queuedMma.ctxs.all fun (p : Nat × Ctx) => p.2.halted.isNone && decide (Tbl.read 0 p.2.desc.budget (8 * Cls.b.index + 2) = 0xFFFFFFFF)) = true := by
  decide +kernel

/-- Sums of one block: 1 + 1 · 2; a NaN accumulator, element and scale. -/
theorem witness_blocks_of_sums :
    (FF.f32.isNan 0x3F800000 = false ∧ FF.f32.isInf 0x3F800000 = false ∧ FF.e4m3.isNan 0x38 = false ∧ FF.e4m3.isInf 0x38 = false ∧
      FF.e4m3.isNan 0x40 = false ∧ FF.e4m3.isInf 0x40 = false ∧
      (FF.f32.dec 0x3F800000).rat + ([(0x38, 0x40)].map fun p => (FF.e4m3.dec p.1).rat * (FF.e4m3.dec p.2).rat).sum * pow2 0 = 3) ∧
    FF.f32.isNan 0x7FC00000 = true ∧ FF.e4m3.isNan 0x7F = true := by decide +kernel

/-! ## Neural calls -/

/-- One layer of two inputs and one output, FP8 weights at 0x300000. -/
def wset : WSet :=
  { nin := 2, mxfp4 := false, wbase := 0x300000,
    layers := [{ act := 1, nout := 1, scale := 0x3F800000, woff := 0, boff := 128, xoff := 0 }] }
/-- Lane 0 calls handle 0, that s12 holds; the cap admits pins, and `n` of them stand. -/
def neural (n : Nat) : State := { withF (withWarp tiled fun w => { w with vregs := [(vkey 2 0, 0x3C004000)], pcr := { w.pcr with nflush := 64 } }) fun f =>
    { f with lanes := 1 } with
  launches := start.launches.map fun (p : Nat × Launch) => (p.1, { p.2 with wsets := [wset], lrec := { p.2.lrec with pincap := 1 }, pins := if n = 0 then [] else [(0, n)] }) }
def vn : VFmt := { v0 with a := .vreg 2, b := .sreg 12, c := .vreg 0, x := 4 }

theorem witness_ncall :
    Meets (.ncall vn) (fun s _ fid w f => Active (.ncall vn) w f ∧ (wsetOf s w.launch (selInt w fid f 1 vn.b 0).toNat).isNone) ∧
    Meets (.ncall vn) (fun s _ fid w f => Active (.ncall vn) w f ∧ wsetOf s w.launch (selInt w fid f 1 vn.b 0).toNat = some wset ∧
      2 + (wset.nin + 1) / 2 ≤ w.top ∧ 8 + wset.outs ≤ w.top ∧ w.access = [] ∧ w.tokBusy 4 = false ∧ s.bins = [] ∧
      (mkIssue (.ncall vn) 0 fid w f).rowError (w.act f vn.guard) [(2, (wset.nin + 1) / 2), (8, wset.outs)] = none ∧
      (mkIssue (.ncall vn) 0 fid w f).rowsWait s = false) ∧
    Meets (.ncall { vn with d := 2047, a := .vreg 2046 }) (fun s _ fid w f => wsetOf s w.launch (selInt w fid f 1 vn.b 0).toNat = some wset ∧
      w.top = 2047 ∧ w.top < 2047 + wset.outs) :=
  ⟨.here tiled (by decide +kernel), .here (neural 0) (by decide +kernel), .here (withWarp (neural 0) fun w => { w with top := 2047 }) (by decide +kernel)⟩

/-- The row's bin before and at its age, its job, the layer under way, and the complete job. -/
def binned : State := event 0 0 (after (.ncall vn) (neural 0))
def aged : State := { binned with clock := { binned.clock with clk := 64 } }
def jobbed : State := event 0 0 (after .matrixOpStart (event 0 0 (after .binAgeFlush aged)))
def computed : State := let s := after .matrixOpComplete jobbed; event ((s.jobs.map (·.1)).headD 0) 0 s
theorem witness_neural_events :
    (has (Tbl.find binned.bins 0) fun b => b.rows.all fun r => decide (binned.clock.clk.toNat < r.entered + r.nflush)) = true ∧
    (has (Tbl.find aged.bins 0) fun b => (b.rows.map (·.launch)).length == 1 && b.rows.any fun r => decide (r.entered + r.nflush = aged.clock.clk.toNat)) = true ∧
    mopsOn jobbed 0 = [] ∧ ((groupsOn jobbed 0).map fun p => (p.2.2.running, p.2.2.layer, groupSet jobbed p.2.1 p.2.2,
      (readLayer jobbed p.2.1.ctx p.2.2.launch wset p.2.2.layer).isOk, (Tbl.find jobbed.jobs p.1).isSome, p.2.1.groups.length)) =
        [(true, 0, some wset, true, true, 1)] ∧
    (has (Tbl.find computed.jobs computed.ev.a) fun j => !ctxHalted computed j.ctx 2100 && j.groups.all fun g => g.out.isSome &&
      decide (g.rows.map (fun r => (r.warp, r.lane, r.d)) = [(0, 0, 8)]) && g.rows.all fun r => has (Tbl.find computed.warps r.warp) fun w => !w.ended &&
        has (Tbl.find w.access r.access) fun a => decide (a.vdst.map (·.1) = [vkey 8 0])) = true := by decide +kernel

/-- Its layer met a page that is not there. -/
def erred : State := { computed with jobs := computed.jobs.map fun (p : Nat × Job) =>
  (p.1, { p.2 with groups := p.2.groups.map fun (g : Group) => { g with out := none, err := some (.page, 0) } }) }
theorem witness_neural_error :
    (has (Tbl.find erred.jobs erred.ev.a) fun j => j.groups.all fun g => g.out.isNone && g.err.isSome && has (groupSet erred j g) (fun ws => ws.outs == 1) &&
      g.rows.all fun r => has (Tbl.find erred.warps r.warp) fun w => w.errs.isEmpty) = true := by decide +kernel

def capped : State := { neural 0 with
  launches := (neural 0).launches.map fun (p : Nat × Launch) => (p.1, { p.2 with lrec := { p.2.lrec with pincap := 0 } }) }
theorem witness_pins :
    (∀ c ∈ ([.wpin, .wunpin, .wpref] : List (SFmt → Instr)), Meets (c s0) fun s _ _ w f => Active (c s0) w f ∧ (wsetOf s w.launch (s0.count w)).isNone) ∧
    Meets (.wpref { s0 with src := .imm 0 0 }) (fun s _ _ w f => Active (.wpref s0) w f ∧ (wsetOf s w.launch 0).isSome) ∧
    Meets (.wpin { s0 with src := .imm 0 0 }) (fun s _ _ w f => Active (.wpin s0) w f ∧ (wsetOf s w.launch 0).isSome ∧ pinCount s w.ctx 0 = 0 ∧
      131072 = pinnedIn s (clusterOf w.core) (some w.ctx) + 131072 ∧ wset.bytes ≤ 131072) ∧
    Meets (.wpin { s0 with src := .imm 0 0 }) (fun s _ _ w f => Active (.wpin s0) w f ∧ (wsetOf s w.launch 0).isSome ∧
      pinCount s w.ctx 0 = 0 ∧ (has (Tbl.find s.launches w.launch) fun L => decide (L.lrec.pincap = 0))) ∧
    Meets (.wpin { s0 with src := .imm 0 0 }) (fun s _ _ w f => Active (.wpin s0) w f ∧ (wsetOf s w.launch 0).isSome ∧ pinCount s w.ctx 0 = 3) ∧
    Meets (.wunpin { s0 with src := .imm 0 0 }) (fun s _ _ w f => Active (.wunpin s0) w f ∧ (wsetOf s w.launch 0).isSome ∧ pinCount s w.ctx 0 = 0) ∧
    Meets (.wunpin { s0 with src := .imm 0 0 }) (fun s _ _ w f => Active (.wunpin s0) w f ∧ pinCount s w.ctx 0 = 3 ∧
      has (Tbl.find s.launches w.launch) fun L => decide (L.ctx = w.ctx ∧ Tbl.read 0 L.pins 0 = 3)) := by
  refine ⟨fun c h => ?_, .here (neural 0) (by decide +kernel), .here (neural 0) (by decide +kernel), .here capped (by decide +kernel),
    .here (neural 3) (by decide +kernel), .here (neural 0) (by decide +kernel), .here (neural 3) (by decide +kernel)⟩
  simp only [List.mem_cons, List.not_mem_nil, or_false] at h
  rcases h with h | h | h <;> subst h <;> exact .here start (by decide +kernel)

end Sys2Proof.Tests
end

