-- ==== Sys2Proof/Tests/Witness6.lean ====
section
/-! SUPPORT. Witnesses for the statements on handler instructions, exceptions and the checks that instructions share. -/

namespace Sys2Proof.Tests

set_option Elab.async false

open Machine

/-! ## Handles and handler instructions (R309 to R316) -/

/-- A handler warp with a handle in s10, and warp 1 of level U, WARPID 5, whose fragment 0 the handle 0x80000050 names. -/
def served (h : Frag → Frag) : State :=
  let s := withS startH [(10, 0x80000050)]
  let L := Machine.Launch.plain .u false []
  let v := newWarp L 1 1 5 0 0 0 0 0 0 0 0
  { s with launches := Tbl.put s.launches 1 L, wgs := Tbl.put s.wgs 1 (.plain 1 1 1 false), cgs := Tbl.put s.cgs 1 { launch := 1, cluster := 0, wgs := [1], rounds := [] },
           warps := Tbl.put s.warps 1 { v with frags := [(0, h { Machine.Frag.first v.lanes0 0x10000 .parked with cause := .brk })] }, freshId := 2 }
/-- Parked with a frame at 0x100000 that records the instruction words given. -/
def framed (ws : List Nat) : State :=
  let s := served fun f => { f with fw := 1, frame := 0x100000 }
  let m := ws.zipIdx.foldl (fun m p => Memory.setLe m (0x100010 + 4 * p.2) 4 p.1) s.hbm
  { s with hbm := Memory.setLe (Memory.setLe m 0x100020 4 5) 0x100504 4 77 }
def handle (s : State) (w : Warp) (p : Nat → Nat → Warp → Frag → Bool) : Bool :=
  has (handled s w.ctx (w.sreg 10)) fun r => p r.1 r.2.1 r.2.2.1 r.2.2.2

theorem witness_handles : (has (handled (served id) 0 0x80000050) fun r => decide (r.1 = 1 ∧ r.2.1 = 0)) = true ∧ (0x50 : Word).getLsbD 31 = false ∧
    ((served id).warps.all fun p => decide (p.2.ctx = 0 → p.2.warpId.toNat = (0x80000060 : Word).toNat / 2 ^ 4 % 2 ^ 20 → p.2.ended = true)) = true ∧
    ((served id).warps.all fun p => decide (p.2.ctx = 0 → p.2.warpId.toNat = (0x81000050 : Word).toNat / 2 ^ 4 % 2 ^ 20 →
      (Tbl.read 0 p.2.gens 0).toNat ≠ (0x81000050 : Word).toNat / 2 ^ 24 % 2 ^ 7)) = true ∧ 7 < 8 := by decide +kernel

/-- Each handler instruction with a handle that names a parked fragment, one that names a ready one, and one that names none. -/
theorem executes_handler : ∀ i ∈ ([.fstate, .fmask, .fresReplay, .fresComplete, .fkill, .fpark] : List (SFmt → Instr)).flatMap
    (fun c => [c s0, c { s0 with z := 1 }, c { s0 with z := 2, src := .regs 10 20 0 }]),
    Meets i (fun s _ _ w f => Active i w f ∧ handle s w (fun q _ v g => decide (q = 1 ∧ g.st = .parked ∧ g.fw = 0 ∧ v.level = .u)) = true) ∧
    Meets i (fun s _ _ w f => Active i w f ∧ handle s w (fun _ _ _ g => decide (g.st = .ready ∧ g.st ≠ .parked)) = true) ∧
    Meets i (fun s _ _ w f => Active i w f ∧ handled s w.ctx (w.sreg 10) = none) := by
  intro i h
  have h1 : ([.fstate, .fmask, .fresReplay, .fresComplete, .fkill, .fpark] : List (SFmt → Instr)).flatMap
    (fun c => [c s0, c { s0 with z := 1 }, c { s0 with z := 2, src := .regs 10 20 0 }]) |>.all (fun i =>
      (runs i (served id) fun _ _ w f => decide (Active i w f) && handle (served id) w (fun q _ v g => decide (q = 1 ∧ g.st = .parked ∧ g.fw = 0 ∧ v.level = .u))) &&
      (runs i (served fun f => { f with st := .ready }) fun _ _ w f => decide (Active i w f) &&
        handle (served fun f => { f with st := .ready }) w (fun _ _ _ g => decide (g.st = .ready ∧ g.st ≠ .parked))) &&
      (runs i startH fun _ _ w f => decide (Active i w f ∧ handled startH w.ctx (w.sreg 10) = none))) := by decide +kernel
  have h2 := List.all_eq_true.mp h1 i h
  rw [Bool.and_eq_true, Bool.and_eq_true] at h2
  exact ⟨.at _ _ h2.1.1 fun _ _ _ _ m => by simpa using m, .at _ _ h2.1.2 fun _ _ _ _ m => by simpa using m, .at _ _ h2.2 fun _ _ _ _ m => by simpa using m⟩

/-- What `fres`, `fkill` and `fpark` ask of the fragment and of the warps. -/
def resumable (s : State) (w : Warp) (f : Frag) (p : Nat → Warp → Frag → Bool) : Bool := handle s w fun q k v g =>
  decide (q ≠ 0 ∧ v.level = .u ∧ v.ended = false ∧ g.lanes &&& v.alive = g.lanes ∧ g.lanes ≠ 0 ∧ f.st = .running ∧ graphOf s v = none ∧
    Tbl.find s.warps q = some v) && (has (Tbl.find s.wgs v.wg) fun x => decide (vacqWaiters s x = [])) && p k v g
def rd (s : State) (v : Warp) (a : DWord) (n : Nat) : Bool := (readVirt s { ctx := v.ctx, wg := none } a n).isOk

/-- The `vadd` of the spec's example, and a word that is no instruction, as the instruction of a frame. -/
theorem witness_fres :
    Meets (.fresReplay s0) (fun s _ _ w f => Active (.fresReplay s0) w f ∧ resumable s w f (fun _ _ g => decide (g.st = .parked ∧ g.fw = 0)) = true) ∧
    Meets (.fresReplay s0) (fun s _ _ w f => Active (.fresReplay s0) w f ∧ resumable s w f (fun _ v g => decide (g.st = .parked ∧ g.fw ≠ 0) &&
      rd s v (g.frame + 0x20) 12) = true) ∧
    Meets (.fresReplay { s0 with z := 2 }) (fun s _ _ w f => Active (.fresReplay s0) w f ∧ handle s w (fun _ _ v g => decide (g.st = .parked ∧
      w.triple 12 &&& (v.alive ||| ~~~v.lanes0) ≠ 0)) = true) ∧
    (∀ z ∈ [(0 : BitVec 3), 1], Meets (.fmask { s0 with z := z }) (fun s _ _ w f => Active (.fmask s0) w f ∧
      handle s w (fun _ _ v g => decide (g.fw ≠ 0) && rd s v (g.frame + 0x20) 12) = true)) ∧
    Meets (.fresComplete { s0 with z := 1 }) (fun s _ _ w f => Active (.fresComplete s0) w f ∧ resumable s w f (fun _ _ g => decide (g.st = .parked ∧ g.fw = 0)) = true) ∧
    Meets (.fresComplete { s0 with z := 1 }) (fun s _ _ w f => Active (.fresComplete s0) w f ∧ resumable s w f (fun _ v g =>
      decide (g.st = .parked ∧ g.fw ≠ 0) && !(frameInstr s v g).tooWide && (has (frameInstr s v g).vDest fun d => decide (d = (20, 1))) &&
      rd s v (g.frame + 0x20) 12 && [0, 95].all fun l => rd s v (g.frame + BitVec.ofNat 64 (0x500 + 4 * l)) 4) = true) := by
  refine ⟨.here (served id) (by decide +kernel), .here (framed []) (by decide +kernel),
   .here (withWarp (served id) fun w => { w with sregs := w.sregs ++ [(36, 1)] }) (by decide +kernel), fun z hz => ?_, .here (served id) (by decide +kernel),
   .here (framed [0x88002800, 0x01401500, 0xFFD00000]) (by decide +kernel)⟩
  simp only [List.mem_cons, List.not_mem_nil, or_false] at hz
  rcases hz with hz | hz <;> subst hz <;> exact .here (framed []) (by decide +kernel)

theorem witness_fpark : ∀ n ∈ [0, 8], Meets (.fpark s0) fun s _ _ w f => Active (.fpark s0) w f ∧ resumable s w f (fun _ v g =>
    decide (g.st = .ready ∧ g.wait.pend = none) && has (Tbl.find s.launches (frameLaunch s v)) fun L =>
      decide ((freeRun L (fetchAt s v g.pc).fw).isSome = (n == 0))) = true := by
  intro n h
  simp only [List.mem_cons, List.not_mem_nil, or_false] at h
  rcases h with h | h <;> subst h
  · exact .here (served fun f => { f with st := .ready }) (by decide +kernel)
  · exact .here (let s := served fun f => { f with st := .ready }
                 { s with launches := s.launches.map fun (p : Nat × Launch) => (p.1, { p.2 with taken := (List.range 8).map fun k => (k, some 1) }) }) (by decide +kernel)

/-- Handler control registers, with an empty trap queue and with one that holds a handle. -/
def hc (k z : Nat) : SFmt := { s0 with z := BitVec.ofNat 3 z, src := .regs 10 0 (BitVec.ofNat 14 k) }
def trapped : State := let s := served id; { s with ctxs := s.ctxs.map fun (p : Nat × Ctx) => (p.1, { p.2 with tq := [(1, 0)] }) }
theorem witness_hcr :
    (∀ z ∈ [0, 1], Meets (.hcrr (hc 0 z)) (fun s _ _ w f => Active (.hcrr (hc 0 z)) w f ∧ has (Tbl.find s.ctxs w.ctx) (fun c => decide (c.tq = [])) = true)) ∧
    (∀ z ∈ [0, 1], Meets (.hcrr (hc 0 z)) (fun s _ _ w f => Active (.hcrr (hc 0 z)) w f ∧ has (Tbl.find s.ctxs w.ctx) (fun c => decide (c.tq = [(1, 0)])) = true ∧
      (Tbl.find s.warps 1).isSome = true)) ∧
    (∀ k ∈ [1, 2, 3, 4, 5, 6, 7, 15], Meets (.hcrr (hc k 0)) (fun s _ _ w f => Active (.hcrr (hc k 0)) w f ∧ (Tbl.find s.ctxs w.ctx).isSome = true ∧ w.tqLast = none)) ∧
    Meets (.hcrr (hc 5 0)) (fun s _ _ w f => Active (.hcrr (hc 5 0)) w f ∧ w.tqLast = some 1 ∧ (Tbl.find s.launches 1).isSome = true) ∧
    Meets (.hcrw (hc 6 0)) (fun s _ _ w f => Active (.hcrw (hc 6 0)) w f ∧ (Tbl.find s.ctxs w.ctx).isSome = true) := by
  refine ⟨fun z hz => ?_, fun z hz => ?_, fun k hk => ?_, .here (withWarp trapped fun w => { w with tqLast := some 1 }) (by decide +kernel),
    .here startH (by decide +kernel)⟩
  · simp only [List.mem_cons, List.not_mem_nil, or_false] at hz
    rcases hz with hz | hz <;> subst hz <;> exact .here startH (by decide +kernel)
  · simp only [List.mem_cons, List.not_mem_nil, or_false] at hz
    rcases hz with hz | hz <;> subst hz <;> exact .here trapped (by decide +kernel)
  · simp only [List.mem_cons, List.not_mem_nil, or_false] at hk
    rcases hk with hk | hk | hk | hk | hk | hk | hk | hk <;> subst hk <;> exact .here startH (by decide +kernel)

/-! ## Taking an exception (R304 to R311) -/

def framesLeft (s : State) (w : Warp) (p : Launch → Bool) : Bool := has (Tbl.find s.launches (frameLaunch s w)) p
/-- The frames the launch of warp 0 has taken. -/
def taken (s : State) (ks : List Nat) : State :=
  { s with launches := s.launches.map fun (p : Nat × Launch) => (p.1, { p.2 with taken := ks.map fun k => (k, some 0) }) }
def frameStored (s : State) (a : Nat) : Bool := match translate s 0 a .st false false with
  | .ok m => decide (m = a)
  | .error _ => false

theorem witness_exception :
    (∃ w f, findFrag start 0 0 = some (w, f) ∧ (decide (w.level = .u ∧ f.st = .running ∧ start.sigs = [] ∧ w.ctx < 2 ^ 32) && framesLeft start w (fun L =>
      decide (L.taken = [] ∧ (Instr.brk c0).fw = 1 ∧ L.lrec.frames = 8 ∧ L.lrec.frame = 0x100000)) && [0x100000, 0x1007FF].all (frameStored start) &&
      (Tbl.find start.ctxs w.ctx).isSome) = true) ∧
    (∃ w f, findFrag (taken start [0]) 0 0 = some (w, f) ∧ framesLeft (taken start [0]) w (fun L => decide ((Tbl.find L.taken 0).isSome = true ∧
      Tbl.find L.taken 1 = none ∧ 1 + (Instr.brk c0).fw ≤ L.lrec.frames)) = true) ∧
    (∃ w f, findFrag (taken start (List.range 8)) 0 0 = some (w, f) ∧ framesLeft (taken start (List.range 8)) w (fun L =>
      (List.range 8).all fun k => decide ((Tbl.find L.taken k).isSome = true ∧ L.lrec.frames = 8)) = true) ∧
    (∃ w f, findFrag startH 0 0 = some (w, f) ∧ (decide (w.level = .h ∧ w.errs = []) && (Tbl.find startH.ctxs w.ctx).isSome) = true) :=
  ⟨found _ _ _ _ (by decide +kernel), found _ _ _ _ (by decide +kernel), found _ _ _ _ (by decide +kernel), found _ _ _ _ (by decide +kernel)⟩

/-- A park that is pending, as a late one leaves it where no frame is free; and the same when frames are free again. -/
def pending : State := takeTrap (taken start (List.range 8)) 0 0 (.brk c0) .brk 0 (2 ^ 96 - 1) [] 0 true
theorem witness_pending : ∀ s ∈ [pending, taken pending []], ∃ w f, findFrag s s.ev.a s.ev.b = some (w, f) ∧
    (decide (f.st = .stalled ∧ w.resid = .resident ∧ ctxHalted s w.ctx 400 = false ∧ w.level = .u) && (has f.wait.pend fun p => decide (p.fw = 1)) &&
      framesLeft s w fun L => decide (L.lrec.frames = 8)) = true := by
  intro s h
  simp only [List.mem_cons, List.not_mem_nil, or_false] at h
  rcases h with h | h <;> subst h <;> exact found _ _ _ _ (by decide +kernel)

/-! ## Shared checks (R10, R14, R26, R28, R36, R98) -/

/-- A state whose fragment 0 of warp 0 is in focus, with what a check asks of them. -/
def at0 (s : State) (p : Warp → Frag → Bool) : Bool := decide (s.focus = some (.frag 0 0)) && (match findFrag s 0 0 with
  | some (w, f) => p w f
  | none => false)
def vAt (i : Instr) (t : VFmt) : Bool := match i.shape with
  | .v _ _ u => decide (u = t)
  | _ => false
def lat : VFmt := { v0 with a := .latch 1 }
def noLatch : VFmt := { v0 with nw := true }

theorem witness_checks :
    (at0 start fun w _ => decide ((Instr.fmask s0).opc = 0xE0 ∧ w.level = .u)) = true ∧
    (at0 startH fun w _ => decide ((Instr.mma v0).opc = 0x82 ∧ w.ctl = true ∧ w.level = .h)) = true ∧
    (at0 (withWarp start fun w => { w with depth := (List.range 96).map fun l => (l, 1) }) fun w f => decide (w.act f none = 0 ∧ f.hidden = [] ∧
      f.tokHeld = none)) = true ∧
    (at0 start fun w f => decide (w.act f none ≠ 0 ∧ f.replay = none ∧ f.pidx = 0 ∧ f.latches.length < (Sel.latch 0).latchNo) &&
      match (Instr.vld .b32 { vm0 with a := .latch 0 }).shape with
      | .vm _ _ t => decide (t = { vm0 with a := .latch 0 })
      | _ => false) = true ∧
    (at0 start fun w f => decide (w.act f none ≠ 0 ∧ f.replay = none ∧ f.latches.length < lat.a.latchNo) && vAt (.vadd lat) lat) = true ∧
    (at0 (withWarp start fun w => { w with depth := [(5, 1)] }) fun w f => decide (w.act f none ≠ 0 ∧ (Instr.vadd noLatch).nw = true ∧
      w.alv f &&& ~~~w.level0 ≠ 0)) = true ∧
    (at0 (withWarp start fun w => { w with top := 8 }) fun w f => decide ((Instr.vadd v0).ownRegx = false ∧ (∃ p ∈ (Instr.vadd v0).vSrc ++ (Instr.vadd v0).vDst,
      w.top < p.1 + p.2)) && !(mkIssue (.vadd v0) 0 0 w f).badLatch && !(mkIssue (.vadd v0) 0 0 w f).badNw) = true := by decide +kernel

end Sys2Proof.Tests
end

section
/-! SUPPORT. Decoding and encoding agree (R84 to R95, R98, R100, R241, R339). The words of a shape and the fields that a decoder reads
determine each other, format by format; the opcode map and `Instr.shape` are inverse to each other; so an instruction is what its
decoder reads exactly where it is well-formed and encodes to the words read. -/

namespace Sys2Proof

/-! ## Fields of concatenated words

The layouts are written at type `Word`, whose width is no syntactic sum: `no_index` lets `simp` find these lemmas there. -/

theorem field_append_low {m n lo len : Nat} (a : BitVec m) (b : BitVec n) (h : lo + len ≤ n) :
    field (no_index (a ++ b)) lo len = field b lo len :=
  BitVec.extractLsb'_append_eq_of_add_le h

theorem field_append_high {m n lo len : Nat} (a : BitVec m) (b : BitVec n) (h : n ≤ lo) :
    field (no_index (a ++ b)) lo len = field a (lo - n) len :=
  BitVec.extractLsb'_append_eq_of_le h

@[simp] theorem field_self {n : Nat} (w : BitVec n) : field w 0 n = w := BitVec.extractLsb'_eq_self

@[simp] theorem field_zero {n lo len : Nat} : field (0#n) lo len = 0#len := BitVec.extractLsb'_zero

theorem field_field {n lo len lo' len' : Nat} (w : BitVec n) (h : lo' + len' ≤ len) :
    field (field w lo len) lo' len' = field w (lo + lo') len' := by
  refine BitVec.eq_of_getLsbD_eq fun i hi => ?_
  have hlt : lo' + i < len := by omega
  simp [field, hi, hlt, Nat.add_assoc]

theorem field_append_field {n mid lo len len' : Nat} (w : BitVec n) (h : mid = lo + len) :
    no_index (field w mid len' ++ field w lo len) = field w lo (len' + len) :=
  BitVec.extractLsb'_append_extractLsb'_eq_extractLsb' h

theorem append_eq_iff {m n : Nat} (a : BitVec m) (b : BitVec n) (w : BitVec (m + n)) :
    @Eq (no_index (BitVec (m + n))) (no_index (a ++ b)) w ↔ a = field w n m ∧ b = field w 0 n := by
  constructor
  · rintro rfl
    simp [field_append_high, field_append_low]
  · rintro ⟨rfl, rfl⟩
    rw [field_append_field w (Nat.zero_add n).symm, field_self]

theorem ofBool_eq_iff (b : Bool) (v : BitVec 1) : BitVec.ofBool b = v ↔ b = (v == 1) := by
  revert b v
  decide

theorem one_bit_cases : ∀ v : BitVec 1, v = 0 ∨ v = 1 := by decide

theorem two_bit_cases : ∀ v : BitVec 2, v = 0 ∨ v = 1 ∨ v = 2 ∨ v = 3 := by decide

/-! ## Codes of types, rounding, guards and selectors (R64, R65, R69, R91, R95) -/

theorem eq_some_iff_of_code {α : Type} {n : Nat} (ofCode : Nat → Option α) (code : α → BitVec n)
    (hof : ∀ v : BitVec n, ∀ a ∈ ofCode v.toNat, code a = v) (hcode : ∀ a, ofCode (code a).toNat = some a) (v : BitVec n) (a : α) :
    ofCode v.toNat = some a ↔ code a = v :=
  ⟨hof v a, by rintro rfl; exact hcode a⟩

theorem vtyOfCode_eq_some_iff (v : BitVec 4) (ty : VTy) : vtyOfCode v.toNat = some ty ↔ ty.code = v :=
  eq_some_iff_of_code vtyOfCode VTy.code (by decide) (by rintro ⟨⟩ <;> rfl) v ty

theorem styOfCode_eq_some_iff (v : BitVec 3) (ty : STy) : styOfCode v.toNat = some ty ↔ ty.code = v :=
  eq_some_iff_of_code styOfCode STy.code (by decide) (by rintro ⟨⟩ <;> rfl) v ty

theorem rcOfCode_eq_some_iff (v : BitVec 3) (rc : Rc) : rcOfCode v.toNat = some rc ↔ rc.code = v :=
  eq_some_iff_of_code rcOfCode Rc.code (by decide) (by rintro ⟨⟩ <;> rfl) v rc

theorem guardOfBits_eq_some_iff (ge : BitVec 1) (gm : BitVec 7) (g : Option (BitVec 7)) :
    guardOfBits ge gm = some g ↔ ge ++ gm = guardBits g := by
  rcases one_bit_cases ge with rfl | rfl <;> cases g <;>
    simp [guardOfBits, guardBits, append_eq_iff, field_append_high, field_append_low]

theorem selOfBits_bits (s : Sel) : selOfBits s.bits = some s := by
  cases s <;> simp [selOfBits, Sel.bits, field_append_low, field_append_high] <;> rfl

theorem bits_of_selOfBits {w : BitVec 12} {s : Sel} (h : selOfBits w = some s) : s.bits = w := by
  have htag : field w 11 1 ++ field w 9 2 = field w 9 3 := field_append_field w rfl
  rcases one_bit_cases (field w 11 1) with hv | hv
  case inl =>
    obtain rfl : Sel.vreg (field w 0 11) = s := by simpa [selOfBits, hv] using h
    simp [Sel.bits, append_eq_iff, hv]
  case inr =>
    rw [hv] at htag
    rcases two_bit_cases (field w 9 2) with hk | hk | hk | hk <;> rw [hk] at htag <;>
      simp only [selOfBits, hv, hk] at h
    case inl =>
      obtain ⟨hz, rfl⟩ : field w 2 7 = 0 ∧ Sel.latch (field w 0 2) = s := by simpa using h
      have hhigh : field w 9 3 ++ field w 2 7 = field w 2 10 := field_append_field w rfl
      rw [← htag, hz] at hhigh
      simp [Sel.bits, append_eq_iff, ← hhigh]
    all_goals
      obtain rfl := Option.some.inj h
      simp [Sel.bits, append_eq_iff, ← htag]

theorem selOfBits_eq_some_iff (w : BitVec 12) (s : Sel) : selOfBits w = some s ↔ s.bits = w :=
  ⟨bits_of_selOfBits, by rintro rfl; exact selOfBits_bits s⟩

/-! ## Formats (R85 to R93)

In each format the words of a shape are the granules read exactly where the granules, read in that format, have the shape. -/

/-- The shape that granules have when they are read in a format, numbered as `opcFormat` numbers them. -/
def granuleShape (fmt : Nat) (g0 g1 g2 : Word) : Option Shape :=
  let opc := field g0 21 8
  let fn := field g0 16 5
  match fmt with
  | 0 => some (.c opc fn (parseC g0))
  | 1 => (parseCX g0 g1).map (.cx opc fn)
  | 2 => (parseS g0 g1).map (.s opc fn)
  | 3 => (parseV g0 g1 g2).map (.v opc fn)
  | _ => (parseVM g0 g1 g2).map (.vm opc fn)

/-- The format number of a Decmen shape; walk and pump-house words and events have none. -/
def Shape.format : Shape → Option Nat
  | .c _ _ _ => some 0
  | .cx _ _ _ => some 1
  | .s _ _ _ => some 2
  | .v _ _ _ => some 3
  | .vm _ _ _ => some 4
  | _ => none

/-- The OPC of a Decmen shape. -/
def Shape.opc : Shape → BitVec 8
  | .c o _ _ | .cx o _ _ | .s o _ _ | .v o _ _ | .vm o _ _ => o
  | _ => 0

theorem header_eq_iff (len : BitVec 2) (lk : Bool) (opc : BitVec 8) (fn : BitVec 5) (low : BitVec 16) (g : Word) :
    header len lk opc fn low = g ↔ len = field g 30 2 ∧ lk = (field g 29 1 == 1) ∧ opc = field g 21 8 ∧ fn = field g 16 5 ∧
      low = field g 0 16 := by
  simp [header, append_eq_iff, field_field, ofBool_eq_iff, and_assoc]

theorem words_c_eq_iff (opc : BitVec 8) (fn : BitVec 5) (f : CFmt) (g0 g1 g2 : Word) : (Shape.c opc fn f).words = [g0] ↔
    field g0 30 2 = 0 ∧ granuleShape 0 g0 g1 g2 = some (.c opc fn f) := by
  obtain ⟨lk, imm⟩ := f
  simp only [Shape.words, List.cons.injEq, header_eq_iff, and_true, granuleShape, parseC, Option.some.injEq, Shape.c.injEq,
    CFmt.mk.injEq]
  grind

theorem parseCX_eq_some_iff (g0 g1 : Word) (f : CXFmt) : parseCX g0 g1 = some f ↔
    field g1 0 9 = 0 ∧ f.cond.bits = field g1 19 13 ∧
      f = { lk := field g0 29 1 == 1, imm := field g0 0 16, cond := f.cond, neg := field g1 18 1 == 1, lp := field g1 9 9 } := by
  obtain ⟨lk, imm, cond, neg, lp⟩ := f
  rcases two_bit_cases (field g1 30 2) with hck | hck | hck | hck <;> cases cond <;>
    simp [parseCX, Cond.bits, append_eq_iff, field_field, hck] <;> grind

theorem words_cx_eq_iff (opc : BitVec 8) (fn : BitVec 5) (f : CXFmt) (g0 g1 g2 : Word) : (Shape.cx opc fn f).words = [g0, g1] ↔
    field g0 30 2 = 1 ∧ granuleShape 1 g0 g1 g2 = some (.cx opc fn f) := by
  obtain ⟨lk, imm, cond, neg, lp⟩ := f
  simp only [Shape.words, Nat.reduceAdd, List.cons.injEq, header_eq_iff, append_eq_iff, field_field, Nat.zero_add,
    Nat.add_zero, ofBool_eq_iff, Nat.reduceLeDiff, and_true, granuleShape, Option.map_eq_some_iff,
    parseCX_eq_some_iff, Shape.cx.injEq]
  grind

theorem words_s_eq_iff (opc : BitVec 8) (fn : BitVec 5) (f : SFmt) (g0 g1 g2 : Word) : (Shape.s opc fn f).words = [g0, g1] ↔
    field g0 30 2 = 1 ∧ granuleShape 2 g0 g1 g2 = some (.s opc fn f) := by
  obtain ⟨lk, ty, d, z, src⟩ := f
  rcases one_bit_cases (field g0 3 1) with hi | hi <;> cases src <;>
    simp [Shape.words, header_eq_iff, granuleShape, parseS, append_eq_iff, field_field, styOfCode_eq_some_iff, hi] <;> grind

theorem words_v_eq_iff (opc : BitVec 8) (fn : BitVec 5) (f : VFmt) (g0 g1 g2 : Word) : (Shape.v opc fn f).words = [g0, g1, g2] ↔
    field g0 30 2 = 2 ∧ granuleShape 3 g0 g1 g2 = some (.v opc fn f) := by
  obtain ⟨lk, ty, sat, rc, guard, nw, d, a, x, b, c, y⟩ := f
  simp only [Shape.words, Nat.reduceAdd, List.cons.injEq, header_eq_iff, append_eq_iff, field_field, Nat.zero_add,
    Nat.add_zero, ofBool_eq_iff, Nat.reduceLeDiff, and_true, granuleShape, parseV, Option.pure_def,
    Option.bind_eq_bind, Option.map_bind, Function.comp_apply, Option.map_some, Option.bind_eq_some_iff, vtyOfCode_eq_some_iff,
    rcOfCode_eq_some_iff, guardOfBits_eq_some_iff, field_append_field, selOfBits_eq_some_iff, Option.some.injEq, Shape.v.injEq,
    VFmt.mk.injEq]
  grind

theorem words_vm_eq_iff (opc : BitVec 8) (fn : BitVec 5) (f : VMFmt) (g0 g1 g2 : Word) : (Shape.vm opc fn f).words = [g0, g1, g2] ↔
    field g0 30 2 = 2 ∧ granuleShape 4 g0 g1 g2 = some (.vm opc fn f) := by
  obtain ⟨lk, ty, cpol, guard, d, a, te, sc, k, sb, c, imm8⟩ := f
  simp only [Shape.words, Nat.reduceAdd, List.cons.injEq, header_eq_iff, append_eq_iff, field_field, Nat.zero_add,
    Nat.reduceLeDiff, Nat.add_zero, ofBool_eq_iff, and_true, granuleShape, parseVM, Bool.and_eq_true, beq_iff_eq,
    Option.pure_def, Option.bind_eq_bind, Option.map_bind, Function.comp_apply, Option.map_if, Option.bind_eq_some_iff,
    vtyOfCode_eq_some_iff, guardOfBits_eq_some_iff, field_append_field, selOfBits_eq_some_iff, Option.ite_none_right_eq_some,
    Option.some.injEq, Shape.vm.injEq, VMFmt.mk.injEq]
  grind

theorem Shape.words_eq_iff {sh : Shape} {fmt : Nat} (hf : sh.format = some fmt) (g0 g1 g2 : Word) :
    sh.words = [g0, g1, g2].take (formatLen fmt + 1) ↔
      field g0 30 2 = BitVec.ofNat 2 (formatLen fmt) ∧ granuleShape fmt g0 g1 g2 = some sh := by
  cases sh with cases hf
  | c opc fn f => exact words_c_eq_iff ..
  | cx opc fn f => exact words_cx_eq_iff ..
  | s opc fn f => exact words_s_eq_iff ..
  | v opc fn f => exact words_v_eq_iff ..
  | vm opc fn f => exact words_vm_eq_iff ..

theorem format_and_opc_of_granuleShape {fmt : Nat} (hfmt : fmt ≤ 4) {g0 g1 g2 : Word} {sh : Shape}
    (h : granuleShape fmt g0 g1 g2 = some sh) : sh.format = some fmt ∧ sh.opc = field g0 21 8 := by
  match fmt with
  | 0 =>
    obtain rfl := Option.some.inj h
    exact ⟨rfl, rfl⟩
  | 1 | 2 | 3 | 4 =>
    obtain ⟨f, -, rfl⟩ := Option.map_eq_some_iff.1 h
    exact ⟨rfl, rfl⟩

theorem words_walk_eq_iff (wop : BitVec 5) (gd ga gb : BitVec 3) (f : BitVec 2) (imm : BitVec 16) (g : Word) :
    (Shape.walk wop gd ga gb f imm).words = [g] ↔
      wop = field g 27 5 ∧ gd = field g 24 3 ∧ ga = field g 21 3 ∧ gb = field g 18 3 ∧ f = field g 16 2 ∧ imm = field g 0 16 := by
  simp [Shape.words, append_eq_iff, field_field, and_assoc]

theorem words_ph_eq_iff (c1 : Bool) (f3 : BitVec 3) (f7 : BitVec 7) (rd rs1 rs2 : BitVec 5) (g : Word) :
    (Shape.ph c1 f3 f7 rd rs1 rs2).words = [g] ↔ isCustom g = true ∧ c1 = ((field g 0 7).toNat == 0x2B) ∧ f3 = field g 12 3 ∧
      f7 = field g 25 7 ∧ rd = field g 7 5 ∧ rs1 = field g 15 5 ∧ rs2 = field g 20 5 := by
  have hop : ∀ v : BitVec 7, (v.toNat = 0x0B ↔ v = 0x0B) ∧ (v.toNat = 0x2B ↔ v = 0x2B) := by decide
  cases c1 <;> simp [Shape.words, append_eq_iff, field_field, isCustom, hop] <;> grind

/-! ## The opcode map and `Instr.shape` (R100, Table 04.9, Table 10.5, Table 17.1) -/

/-- The row of the opcode map that a shape names. -/
def Shape.row : Shape → Option Instr
  | .c opc fn f => ofC opc fn f
  | .cx opc fn f => ofCX opc fn f
  | .s opc fn f => ofS opc fn f
  | .v opc fn f => ofV opc fn f
  | .vm opc fn f => ofVM opc fn f
  | .walk wop gd ga gb f imm => ofWalk wop gd ga gb f imm
  | .ph c1 f3 f7 rd rs1 rs2 => ofPh c1 f3 f7 rd rs1 rs2
  | .event => none

theorem fresReplay_z_even {f : SFmt} (h : (Instr.fresReplay f).wellFormed = true) : f.z.toNat % 2 = 0 := by
  have hz : (_ && (f.z.toNat == 0 || f.z.toNat == 2)) = true := h
  simp only [Bool.and_eq_true, Bool.or_eq_true, beq_iff_eq] at hz
  omega

theorem fresComplete_z_odd {f : SFmt} (h : (Instr.fresComplete f).wellFormed = true) : f.z.toNat % 2 = 1 := by
  have hz : (_ && (f.z.toNat == 1 || f.z.toNat == 3)) = true := h
  simp only [Bool.and_eq_true, Bool.or_eq_true, beq_iff_eq] at hz
  omega

/-- Well-formedness matters for the two forms of `fres` alone: they share OPC and FN, and Z tells them apart. -/
theorem Instr.row_shape {i : Instr} (hwf : i.wellFormed = true) : i.shape.row = if i.shape = .event then none else some i := by
  cases i with
  | scmp k f | vcmp k f | vld k f | vst k f | vgld k f | vgldl k f | vgst k f | vatom k f | vpref k f | satom k f | fence k f
  | swait k f | wbox8 gd ga k => cases k <;> rfl
  | vprof n f =>
    obtain ⟨⟨n, hn⟩⟩ := n
    match n, hn with
    | 0, _ | 1, _ | 2, _ | 3, _ | 4, _ | 5, _ | 6, _ | 7, _ => rfl
  | fresReplay f =>
    show some (if f.z.toNat % 2 == 1 then _ else _) = some _
    simp [fresReplay_z_even hwf]
  | fresComplete f =>
    show some (if f.z.toNat % 2 == 1 then _ else _) = some _
    simp [fresComplete_z_odd hwf]
  | wpop l | wany l | wbr l | wbz ga l | wbnz ga l | wcall gd l | wmovSpecial gd l =>
    show (Shape.walk _ _ _ _ _ _).row = some _
    simp [Shape.row, ofWalk, field_append_high, field_append_low]
  | _ => rfl

theorem shape_of_ofWalk {wop : BitVec 5} {gd ga gb : BitVec 3} {f : BitVec 2} {imm : BitVec 16} {i : Instr}
    (h : ofWalk wop gd ga gb f imm = some i) : i.shape = .walk wop gd ga gb f imm := by
  have hform : ∀ f : BitVec 2, ((f.toNat == 0) = (f == 0)) ∧ ((f.toNat == 1) = (f == 1)) := by decide
  obtain ⟨⟨o, ho⟩⟩ := wop
  simp only [ofWalk, BitVec.toNat_ofFin, hform] at h
  repeat' split at h
  all_goals cases h
  all_goals
    show Shape.walk _ _ _ _ _ _ = _
    simp_all [append_eq_iff]
  next hbox =>
    obtain ⟨⟨-, rfl | rfl⟩, -⟩ := hbox <;> rfl

/-- Each row of the map has the shape that names it, under an OPC of the shape's format. -/
theorem shape_and_format_of_row {sh : Shape} {i : Instr} (h : sh.row = some i) :
    i.shape = sh ∧ ∀ fmt ∈ sh.format, opcFormat sh.opc.toNat = some fmt := by
  cases sh with
  | c opc fn f | cx opc fn f | s opc fn f | v opc fn f | vm opc fn f =>
    obtain ⟨⟨o, ho⟩⟩ := opc
    obtain ⟨⟨n, hn⟩⟩ := fn
    simp only [Shape.row, ofC, ofCX, ofS, ofV, ofVM, BitVec.toNat_ofFin] at h
    repeat' split at h
    all_goals cases h
    all_goals exact ⟨rfl, by rintro _ ⟨⟩; rfl⟩
  | walk wop gd ga gb f imm => exact ⟨shape_of_ofWalk h, nofun⟩
  | ph c1 f3 f7 rd rs1 rs2 =>
    obtain ⟨⟨m, hm⟩⟩ := f3
    obtain ⟨⟨n, hn⟩⟩ := f7
    simp only [Shape.row, ofPh, BitVec.toNat_ofFin, beq_iff_eq] at h
    repeat' split at h
    all_goals cases h
    all_goals
      subst_vars
      exact ⟨rfl, nofun⟩
  | event => cases h

theorem row_eq_some_iff {i : Instr} {sh : Shape} (hwf : i.wellFormed = true) : sh.row = some i ↔ i.shape = sh ∧ sh ≠ .event := by
  constructor
  · intro h
    refine ⟨(shape_and_format_of_row h).1, ?_⟩
    rintro rfl
    cases h
  · rintro ⟨rfl, hne⟩
    rw [Instr.row_shape hwf, if_neg hne]

/-! ## The three decoders (R98, R241, R339) -/

theorem opcFormat_le {opc fmt : Nat} (h : opcFormat opc = some fmt) : fmt ≤ 4 := by
  unfold opcFormat at h
  split at h <;> cases h <;> decide

theorem toNat_eq_formatLen_iff (v : BitVec 2) (fmt : Nat) : v.toNat = formatLen fmt ↔ v = BitVec.ofNat 2 (formatLen fmt) := by
  have hlen : ∀ v : BitVec 2, ∀ n < 3, v.toNat = n ↔ v = BitVec.ofNat 2 n := by decide
  refine hlen v _ ?_
  unfold formatLen
  split <;> decide

theorem granulesOf_eq {g0 : Word} {fmt : Nat} (h : field g0 30 2 = BitVec.ofNat 2 (formatLen fmt)) :
    granulesOf g0 = formatLen fmt + 1 := by
  rcases fmt with _ | _ | _ | fmt <;> simp [granulesOf, h, formatLen]

theorem parseFormat_eq_bind_row (fmt : Nat) (g0 g1 g2 : Word) :
    parseFormat fmt (field g0 21 8) (field g0 16 5) g0 g1 g2 = (granuleShape fmt g0 g1 g2).bind Shape.row := by
  unfold parseFormat granuleShape
  split <;> simp [Option.bind_map] <;> rfl

/-- What `decodeGranules` asks of granules, step by step (R98 steps 2 to 7). -/
theorem decodeGranules_eq_ok_iff (g0 g1 g2 : Word) (i : Instr) : decodeGranules g0 g1 g2 = .ok i ↔
    ∃ fmt, opcFormat (field g0 21 8).toNat = some fmt ∧ field g0 30 2 = BitVec.ofNat 2 (formatLen fmt) ∧
      (granuleShape fmt g0 g1 g2).bind Shape.row = some i ∧ i.wellFormed = true := by
  have hlen : ∀ fmt, formatLen fmt ≠ 3 := by
    intro fmt
    unfold formatLen
    split <;> decide
  simp only [← parseFormat_eq_bind_row, ← toNat_eq_formatLen_iff]
  unfold decodeGranules
  grind

/-- Granules decode to an instruction exactly where it is well-formed and they are its encoding. -/
theorem decodeGranules_eq_ok_iff_encode (g0 g1 g2 : Word) (i : Instr) : decodeGranules g0 g1 g2 = .ok i ↔
    i.wellFormed = true ∧ ∃ fmt, i.shape.format = some fmt ∧ i.encode = [g0, g1, g2].take (formatLen fmt + 1) := by
  rw [decodeGranules_eq_ok_iff]
  constructor
  · rintro ⟨fmt, hopc, hlen, hparse, hwf⟩
    obtain ⟨sh, hsh, hrow⟩ := Option.bind_eq_some_iff.1 hparse
    obtain ⟨rfl, -⟩ := shape_and_format_of_row hrow
    have hf := (format_and_opc_of_granuleShape (opcFormat_le hopc) hsh).1
    exact ⟨hwf, fmt, hf, (Shape.words_eq_iff hf ..).2 ⟨hlen, hsh⟩⟩
  · rintro ⟨hwf, fmt, hf, hw⟩
    have hrow := (row_eq_some_iff hwf).2 ⟨rfl, fun he => by rw [he] at hf; cases hf⟩
    have hopc := (shape_and_format_of_row hrow).2 fmt hf
    obtain ⟨hlen, hsh⟩ := (Shape.words_eq_iff hf ..).1 hw
    rw [(format_and_opc_of_granuleShape (opcFormat_le hopc) hsh).2] at hopc
    exact ⟨fmt, hopc, hlen, by rw [hsh]; exact hrow, hwf⟩

theorem Shape.length_words {sh : Shape} {fmt : Nat} (hf : sh.format = some fmt) : sh.words.length = formatLen fmt + 1 := by
  cases sh with cases hf
  | s opc fn f => cases hsrc : f.src <;> simp [Shape.words, hsrc, formatLen]
  | _ => rfl

theorem take_getD_of_length_le {l : List Word} (h : l.length ≤ 3) : [l.getD 0 0, l.getD 1 0, l.getD 2 0].take l.length = l := by
  match l with
  | [] | [_] | [_, _] | [_, _, _] => rfl
  | _ :: _ :: _ :: _ :: _ =>
    simp only [List.length_cons] at h
    omega

/-- The granules of a well-formed Decmen instruction decode to it, and they are as many as its format has. -/
theorem decodeGranules_encode {i : Instr} {fmt : Nat} (hwf : i.wellFormed = true) (hf : i.shape.format = some fmt) :
    decodeGranules (i.encode.getD 0 0) (i.encode.getD 1 0) (i.encode.getD 2 0) = .ok i ∧ i.encode.length = formatLen fmt + 1 := by
  have hlen : i.encode.length = formatLen fmt + 1 := Shape.length_words hf
  have hle : formatLen fmt + 1 ≤ 3 := by
    rcases fmt with _ | _ | _ | fmt <;> simp [formatLen]
  refine ⟨(decodeGranules_eq_ok_iff_encode ..).2 ⟨hwf, fmt, hf, ?_⟩, hlen⟩
  rw [← hlen, take_getD_of_length_le (hlen ▸ hle)]

theorem getD_zero_of_length_le {l : List Word} {n : Nat} (h : l.length ≤ n) : l.getD n 0 = 0 := by
  rw [List.getD_eq_getElem?_getD, List.getElem?_eq_none h, Option.getD_none]

theorem decodeGranules_early_of_len_three {g0 : Word} (g1 g2 : Word) (h : field g0 30 2 = 3) :
    decodeGranules g0 g1 g2 = .error .early := by
  simp [decodeGranules, h]

theorem decodeWalk_eq_some_iff_row (g : Word) (i : Instr) : decodeWalk g = some i ↔ i.wellFormed = true ∧
    (Shape.walk (field g 27 5) (field g 24 3) (field g 21 3) (field g 18 3) (field g 16 2) (field g 0 16)).row = some i := by
  simp only [decodeWalk, Shape.row, Option.bind_eq_some_iff, Option.ite_none_right_eq_some, Option.some.injEq]
  grind

/-- A word decodes to a walk micro-operation exactly where that is well-formed and the word is its encoding. -/
theorem decodeWalk_eq_some_iff_encode (g : Word) (i : Instr) : decodeWalk g = some i ↔
    i.wellFormed = true ∧ (∃ wop gd ga gb f imm, i.shape = .walk wop gd ga gb f imm) ∧ i.encode = [g] := by
  rw [decodeWalk_eq_some_iff_row]
  refine and_congr_right fun hwf => ?_
  rw [row_eq_some_iff hwf]
  constructor
  · rintro ⟨hs, -⟩
    refine ⟨⟨_, _, _, _, _, _, hs⟩, ?_⟩
    rw [Instr.encode, hs, words_walk_eq_iff]
    simp only [and_self]
  · rintro ⟨⟨wop, gd, ga, gb, f, imm, hs⟩, hw⟩
    rw [Instr.encode, hs, words_walk_eq_iff] at hw
    obtain ⟨rfl, rfl, rfl, rfl, rfl, rfl⟩ := hw
    exact ⟨hs, nofun⟩

theorem decodePh_eq_row (g : Word) : decodePh g = if isCustom g then
    (Shape.ph ((field g 0 7).toNat == 0x2B) (field g 12 3) (field g 25 7) (field g 7 5) (field g 15 5) (field g 20 5)).row
    else none := rfl

theorem encode_of_decodePh {g : Word} {i : Instr} (h : decodePh g = some i) : i.encode = [g] := by
  rw [decodePh_eq_row, Option.ite_none_right_eq_some] at h
  obtain ⟨hcustom, hrow⟩ := h
  rw [Instr.encode, (shape_and_format_of_row hrow).1, words_ph_eq_iff]
  simp only [hcustom, and_self]

theorem decodePh_of_encode {g : Word} {i : Instr} {c1 : Bool} {f3 : BitVec 3} {f7 : BitVec 7} {rd rs1 rs2 : BitVec 5}
    (hwf : i.wellFormed = true) (hs : i.shape = .ph c1 f3 f7 rd rs1 rs2) (hw : i.encode = [g]) : decodePh g = some i := by
  rw [Instr.encode, hs, words_ph_eq_iff] at hw
  obtain ⟨hcustom, rfl, rfl, rfl, rfl, rfl, rfl⟩ := hw
  rw [decodePh_eq_row, if_pos hcustom]
  exact (row_eq_some_iff hwf).2 ⟨hs, nofun⟩

/-! ## The obligations -/

/-- Settles O57: a decoder reads an instruction exactly where it is well-formed and encodes to the words read. -/
theorem decodeAndEncodeAgree : Obligations.DecodeAndEncodeAgree := by
  refine ⟨fun i hwf => ⟨?_, ?_, ?_, ?_, ?_, ?_, ?_⟩, ?_, ?_, fun g i h => encode_of_decodePh h,
    fun _ g1 g2 h => decodeGranules_early_of_len_three g1 g2 h⟩
  · intro opc fn t hs
    obtain ⟨hdec, hlen⟩ := decodeGranules_encode (fmt := 0) hwf (by rw [hs]; rfl)
    rw [getD_zero_of_length_le (n := 1) (Nat.le_of_eq hlen), getD_zero_of_length_le (n := 2) (by rw [hlen]; decide)] at hdec
    exact ⟨hdec, hlen⟩
  · intro opc fn t hs
    obtain ⟨hdec, hlen⟩ := decodeGranules_encode (fmt := 1) hwf (by rw [hs]; rfl)
    rw [getD_zero_of_length_le (n := 2) (Nat.le_of_eq hlen)] at hdec
    exact ⟨hdec, hlen⟩
  · intro opc fn t hs
    obtain ⟨hdec, hlen⟩ := decodeGranules_encode (fmt := 2) hwf (by rw [hs]; rfl)
    rw [getD_zero_of_length_le (n := 2) (Nat.le_of_eq hlen)] at hdec
    exact ⟨hdec, hlen⟩
  · exact fun opc fn t hs => decodeGranules_encode (fmt := 3) hwf (by rw [hs]; rfl)
  · exact fun opc fn t hs => decodeGranules_encode (fmt := 4) hwf (by rw [hs]; rfl)
  · intro wop gd ga gb f imm hs
    have hw := congrArg Shape.words hs
    exact ⟨_, hw, (decodeWalk_eq_some_iff_encode ..).2 ⟨hwf, ⟨wop, gd, ga, gb, f, imm, hs⟩, hw⟩⟩
  · intro c1 f3 f7 rd rs1 rs2 hs
    have hw := congrArg Shape.words hs
    exact ⟨_, hw, decodePh_of_encode hwf hs hw⟩
  · intro g0 g1 g2 i h
    obtain ⟨hwf, fmt, hf, hw⟩ := (decodeGranules_eq_ok_iff_encode ..).1 h
    rw [granulesOf_eq ((Shape.words_eq_iff hf ..).1 hw).1]
    exact ⟨hwf, hw⟩
  · intro g i h
    obtain ⟨hwf, -, hw⟩ := (decodeWalk_eq_some_iff_encode ..).1 h
    exact ⟨hwf, hw⟩

/-- Settles O56: every word of the statement is a literal, so the decoders are run on them. -/
theorem wordsOfTheSpec : Obligations.WordsOfTheSpec := by
  unfold Obligations.WordsOfTheSpec
  and_intros <;> rfl

end Sys2Proof
end

section
/-! SUPPORT. Vector arithmetic (R60, R137, R140, R144). A producing instruction that gives each lane a value completes with those values
in D and in a new latch; one that applies a rule to same-numbered elements does so by `byElement`, for any rule that agrees with the
model's on elements of the type's width. -/

namespace Sys2Proof

open Machine

/-! ## Integers of an element and back (R60) -/

theorem elemAt_lt (n : Nat) (v : DWord) (k : Nat) : elemAt n v k < 2 ^ n := Nat.mod_lt _ (Nat.two_pow_pos n)

/-- The integer that an element stands for wraps to the element. -/
theorem wrapI_toI (sg : Bool) {n a : Nat} (ha : a < 2 ^ n) : wrapI n (toI sg n a) = a := by
  have hcast : ((a : Int) % 2 ^ n).toNat = a := by exact_mod_cast Nat.mod_eq_of_lt ha
  unfold wrapI toI
  split
  · rwa [Int.sub_emod_right]
  · exact hcast

/-! ## Producing instructions (R26, R137) -/

/-- The results of a producing instruction stand in D, unless NW, and in a new latch, and the fragment goes on. -/
theorem Issue.produce_eq {s : State} {i : Instr} {wid fid : Nat} {w : Warp} {f : Frag} (h : findFrag s wid fid = some (w, f)) (t : VFmt)
    (wide : Bool) (rs : List (Nat × DWord)) :
    (mkIssue i wid fid w f).produce s t wide rs = goesOn { s with freeCtr := s.freeCtr + latchDraws wide } i wid fid
      (if t.nw then w else w.setVlanes wide t.d.toNat rs)
      { f with latches := (latchOf w wide s.freeCtr t.d.toNat rs :: f.latches).take 4 } := by
  have hfrag : Tbl.find (if t.nw then w else w.setVlanes wide t.d.toNat rs).frags fid = some f := by
    split
    · exact findFrag_frag h
    · rw [Warp.setVlanes_frags]
      exact findFrag_frag h
  simp only [Issue.produce, Issue.done, Issue.goto, mkIssue, pushLatch]
  rw [modFrag_putWarp _ wid fid _ hfrag, modFrag_withFrag]
  rfl

/-- Nothing settles behind an instruction that leaves the scalar registers, and so the alive mask, as they were (R12). -/
theorem settleIfRetired_goesOn {w w' : Warp} (hs : w'.sregs = w.sregs) (s : State) (i : Instr) (wid fid : Nat) (f : Frag) :
    settleIfRetired w.alive (goesOn s i wid fid w' f) wid = goesOn s i wid fid w' f :=
  settleIfRetired_same (find_warps_withFrag ..) _ (alive_sregs hs)

/-- An instruction whose effect is a result for every active lane produces these results. -/
theorem produces_effLanes {s : State} {i : Instr} {wid fid : Nat} {w : Warp} {f : Frag} {t : VFmt} {wide full : Bool}
    {r : Issue → Nat → DWord} (h : Executes s i wid fid w f) (a : Active i w f) (hi : Machine.exec i s = issue i full (effLanes t wide r) s) :
    Produces s i wid fid w f t wide w (r (mkIssue i wid fid w f)) := by
  have hsregs : (if t.nw then w else w.setVlanes wide t.d.toNat (perLane i w f (r (mkIssue i wid fid w f)))).sregs = w.sregs := by
    split
    · rfl
    · exact Warp.setVlanes_sregs ..
  rw [Produces, hi, issue_active h a, effLanes, Issue.produce_eq h.2.1]
  exact congrArg _ (settleIfRetired_goesOn hsregs ..)

/-- Element rules that agree on elements of the type's width give a lane the same value. -/
theorem elementwise_eq_byElement {i : Instr} {wid fid : Nat} {w : Warp} {f : Frag} {t : VFmt} {op : Issue → Nat → Nat → Nat → Nat → Nat} {l : Nat}
    {op' : Nat → Nat → Nat → Nat}
    (h : ∀ a b c, a < 2 ^ t.ty.width → b < 2 ^ t.ty.width → op (mkIssue i wid fid w f) l a b c = op' a b c) :
    elementwise t op (mkIssue i wid fid w f) l = byElement w fid f t op' l := by
  unfold elementwise byElement
  congr 2
  funext k
  exact h _ _ _ (elemAt_lt ..) (elemAt_lt ..)

section
variable {i : Instr} {t : VFmt} {op : Issue → Nat → Nat → Nat → Nat → Nat} {op' : Warp → Frag → Nat → Nat → Nat → Nat → Nat}
variable (hi : ∀ s, Machine.exec i s = issue i false (effElem t op) s)
include hi

/-- An instruction whose effect is the model's element rule `op` produces what a rule gives that agrees with it on elements of the type. -/
theorem whenever_produces_byElement_of_lt
    (h : ∀ x l a b c, a < 2 ^ t.ty.width → b < 2 ^ t.ty.width → op x l a b c = op' x.w x.f l a b c) :
    Whenever i fun s wid fid w f => Produces s i wid fid w f t t.ty.isL w fun l => byElement w fid f t (op' w f l) l := by
  intro s wid fid w f he ha
  have hlanes : elementwise t op (mkIssue i wid fid w f) = fun l => byElement w fid f t (op' w f l) l :=
    funext fun l => elementwise_eq_byElement (h _ l)
  rw [← hlanes]
  exact produces_effLanes he ha (hi s)

theorem whenever_produces_byElement (h : ∀ x l a b c, op x l a b c = op' x.w x.f l a b c) :
    Whenever i fun s wid fid w f => Produces s i wid fid w f t t.ty.isL w fun l => byElement w fid f t (op' w f l) l :=
  whenever_produces_byElement_of_lt hi fun x l a b c _ _ => h x l a b c

end

/-! ## Integer element rules (Table 06.1) -/

section
variable {t : VFmt} (ht : t.ty.isFloat = false) (x : Issue) (l a b c : Nat)
include ht

theorem elAdd_int : elAdd t x l a b c = t.fit (t.int a + t.int b) := if_neg (ne_true_of_eq_false ht)

theorem elSub_int : elSub t x l a b c = t.fit (t.int a - t.int b) := if_neg (ne_true_of_eq_false ht)

theorem elMul_int : elMul t x l a b c = t.fit (t.int a * t.int b) := if_neg (ne_true_of_eq_false ht)

theorem elAbs_int : elAbs t x l a b c = t.fit (if t.int a < 0 then -t.int a else t.int a) := by
  have habs : ((t.int a).natAbs : Int) = if t.int a < 0 then -t.int a else t.int a := by omega
  rw [← habs]
  exact if_neg (ne_true_of_eq_false ht)

theorem elNeg_int : elNeg t x l a b c = t.fit (-t.int a) := if_neg (ne_true_of_eq_false ht)

variable (ha : a < 2 ^ t.ty.width) (hb : b < 2 ^ t.ty.width)
include ha hb

/-- The smaller element is the one whose integer is the smaller. -/
theorem elMin_int : elMin t x l a b c = wrapI t.ty.width (if t.int b < t.int a then t.int b else t.int a) := by
  rw [apply_ite (wrapI t.ty.width), VFmt.int, VFmt.int, wrapI_toI _ ha, wrapI_toI _ hb]
  exact if_neg (ne_true_of_eq_false ht)

/-- The larger element is the one whose integer is the larger. -/
theorem elMax_int : elMax t x l a b c = wrapI t.ty.width (if t.int a < t.int b then t.int b else t.int a) := by
  rw [apply_ite (wrapI t.ty.width), VFmt.int, VFmt.int, wrapI_toI _ ha, wrapI_toI _ hb]
  exact if_neg (ne_true_of_eq_false ht)

end

/-! ## Float element rules (Tables 06.1 and 06.3) -/

section
variable {t : VFmt} (ht : t.ty.isFloat = true) (x : Issue) (l a b c : Nat)
include ht

theorem elAdd_float : elAdd t x l a b c = t.ty.ff.add (x.venv t) l a b := if_pos ht

theorem elSub_float : elSub t x l a b c = t.ty.ff.sub (x.venv t) l a b := if_pos ht

theorem elMul_float : elMul t x l a b c = t.ty.ff.mul (x.venv t) l a b := if_pos ht

theorem elMin_float : elMin t x l a b c = t.ty.ff.minmax (x.venv t) false a b := if_pos ht

theorem elMax_float : elMax t x l a b c = t.ty.ff.minmax (x.venv t) true a b := if_pos ht

theorem elAbs_float : elAbs t x l a b c = t.ty.ff.signOp (x.venv t) true a := if_pos ht

theorem elNeg_float : elNeg t x l a b c = t.ty.ff.signOp (x.venv t) false a := if_pos ht

end

/-! ## The obligation -/

/-- Settles O13: every row is an element rule of the model, and `whenever_produces_byElement` says what such a rule produces. On integer
types the rules give the exact result fitted to the element, on float types they are the format's own operations. -/
theorem vectorArithmetic : Obligations.VectorArithmetic := by
  unfold Obligations.VectorArithmetic
  simp only [List.forall_mem_cons, List.not_mem_nil, false_implies, implies_true, and_true]
  refine ⟨⟨?integer, ?highHalfAndOrder⟩, ?float, ?ldexp, ?prof⟩
  case integer =>
    exact ⟨fun t ht => whenever_produces_byElement (fun _ => rfl) (elAdd_int ht),
      fun t ht => whenever_produces_byElement (fun _ => rfl) (elSub_int ht),
      fun t ht => whenever_produces_byElement (fun _ => rfl) (elMul_int ht),
      fun t _ => whenever_produces_byElement (fun _ => rfl) fun _ _ _ _ _ => rfl,
      fun t ht => whenever_produces_byElement (fun _ => rfl) (elAbs_int ht),
      fun t ht => whenever_produces_byElement (fun _ => rfl) (elNeg_int ht)⟩
  case highHalfAndOrder =>
    exact ⟨fun t _ => whenever_produces_byElement (fun _ => rfl) fun _ _ _ _ _ => rfl,
      fun t ht => whenever_produces_byElement_of_lt (fun _ => rfl) (elMin_int ht),
      fun t ht => whenever_produces_byElement_of_lt (fun _ => rfl) (elMax_int ht)⟩
  case float =>
    refine ⟨fun t ht => whenever_produces_byElement (fun _ => rfl) (elAdd_float ht),
      fun t ht => whenever_produces_byElement (fun _ => rfl) (elSub_float ht),
      fun t ht => whenever_produces_byElement (fun _ => rfl) (elMul_float ht), ?fma,
      fun t ht => whenever_produces_byElement (fun _ => rfl) (elMin_float ht),
      fun t ht => whenever_produces_byElement (fun _ => rfl) (elMax_float ht),
      fun t ht => whenever_produces_byElement (fun _ => rfl) (elAbs_float ht),
      fun t ht => whenever_produces_byElement (fun _ => rfl) (elNeg_float ht), ?special⟩
    case fma => exact fun t _ => whenever_produces_byElement (fun _ => rfl) fun _ _ _ _ _ => rfl
    -- Table 06.3 has no integer form, so the rule is the format's operation as it stands.
    case special => and_intros <;> exact fun t _ => whenever_produces_byElement (fun _ => rfl) fun _ _ _ _ _ => rfl
  case ldexp => exact fun t _ => whenever_produces_byElement (fun _ => rfl) fun _ _ _ _ _ => rfl
  case prof => exact fun k t _ => whenever_produces_byElement (fun _ => rfl) fun _ _ _ _ _ => rfl

end Sys2Proof
end

section
/-! SUPPORT. Inline integers and what floating formats hold exactly (R61, R64, R66, R96). An element of a splat is the element put in;
an integer whose leading `man` + 1 bits are all it has rounds to an encoding that decodes to it; every rounded value fits its element. -/

namespace Sys2Proof

open Machine

/-! ## Elements put together (R64) -/

/-- A packed element on top of packed ones is a concatenation of words. -/
theorem packNat_cons_toNat {n m : Nat} (x : BitVec n) (y : BitVec m) {es : List Nat} (h : packNat n es = y.toNat) :
    packNat n (x.toNat :: es) = (y ++ x).toNat := by
  rw [packNat, h, Nat.mod_eq_of_lt x.isLt, BitVec.toNat_append, Nat.shiftLeft_eq, Nat.mul_comm y.toNat,
    ← Nat.two_pow_add_eq_or_of_lt x.isLt, Nat.add_comm]

theorem packNat_singleton_toNat {n : Nat} (x : BitVec n) : packNat n [x.toNat] = x.toNat := by
  rw [packNat, packNat, Nat.mul_zero, Nat.add_zero, Nat.mod_eq_of_lt x.isLt]

theorem packNat_lt (n : Nat) (es : List Nat) : packNat n es < 2 ^ (n * es.length) := by
  induction es with
  | nil => exact Nat.two_pow_pos _
  | cons e es ih =>
    have he : e % 2 ^ n < 2 ^ n := Nat.mod_lt _ (Nat.two_pow_pos n)
    calc e % 2 ^ n + 2 ^ n * packNat n es
      _ < 2 ^ n * (packNat n es + 1) := by rw [Nat.mul_add_one]; omega
      _ ≤ 2 ^ n * 2 ^ (n * es.length) := Nat.mul_le_mul_left _ ih
      _ = 2 ^ (n * (e :: es).length) := by rw [← Nat.pow_add, List.length_cons, Nat.mul_add_one, Nat.add_comm]

theorem packNat_digit (n : Nat) (es : List Nat) : ∀ {k : Nat} (h : k < es.length), packNat n es / 2 ^ (n * k) % 2 ^ n = es[k] % 2 ^ n := by
  induction es with
  | nil => intro k h; exact absurd h (Nat.not_lt_zero k)
  | cons e es ih =>
    intro k h
    cases k with
    | zero => simp [packNat]
    | succ k =>
      have hk : k < es.length := Nat.lt_of_succ_lt_succ h
      rw [packNat, Nat.mul_add_one, Nat.add_comm (n * k), Nat.pow_add, ← Nat.div_div_eq_div_mul, Nat.add_mul_div_left _ _ (Nat.two_pow_pos n),
        Nat.div_eq_of_lt (Nat.mod_lt e (Nat.two_pow_pos n)), Nat.zero_add, ih hk, List.getElem_cons_succ]

theorem VTy.width_mul_count_le (ty : VTy) : ty.width * ty.count ≤ 64 := by
  cases ty <;> decide

/-- Every element of a splat is the element that was placed. -/
theorem elemAt_splat (ty : VTy) (e : Nat) {k : Nat} (h : k < ty.count) : elemAt ty.width (splat ty e) k = e % 2 ^ ty.width := by
  have hlen : (List.replicate ty.count e).length = ty.count := List.length_replicate
  have hlt : packNat ty.width (List.replicate ty.count e) < 2 ^ 64 := by
    refine Nat.lt_of_lt_of_le (packNat_lt ..) (Nat.pow_le_pow_right Nat.two_pos ?_)
    rw [hlen]
    exact ty.width_mul_count_le
  rw [elemAt, splat, VTy.pack, BitVec.toNat_ofNat, Nat.mod_eq_of_lt hlt, packNat_digit _ _ (by rwa [hlen]), List.getElem_replicate]

/-! ## Integers in an element (R60) -/

/-- Wrapping a signed word to `m` bits extends its sign, or cuts it off. -/
theorem wrapI_toInt {n : Nat} (m : Nat) (v : BitVec n) : wrapI m v.toInt = (v.signExtend m).toNat := by
  rw [BitVec.signExtend, BitVec.toNat_ofInt, wrapI]
  norm_cast

theorem wrapI_natCast (n a : Nat) : wrapI n a = a % 2 ^ n := by
  rw [wrapI]
  norm_cast

theorem toI_unsigned (n a : Nat) : toI false n a = a := rfl

theorem toI_signed {n : Nat} (hn : 0 < n) (v : BitVec n) : toI true n v.toNat = v.toInt := by
  have htop : 2 ^ n = 2 * 2 ^ (n - 1) := by rw [← Nat.pow_succ', Nat.succ_eq_add_one, Nat.sub_add_cancel hn]
  rw [toI, Bool.true_and, BitVec.toInt_eq_toNat_cond]
  by_cases h : 2 ^ (n - 1) ≤ v.toNat
  · rw [decide_eq_true h, if_pos rfl, if_neg (by omega)]
    norm_cast
  · rw [decide_eq_false h, if_neg Bool.false_ne_true, if_pos (by omega)]

theorem immVal_int {ty : VTy} (h : ty.isFloat = false) (v : BitVec 9) : immVal ty v = splat ty (v.signExtend ty.width).toNat := by
  rw [immVal, if_neg (ne_true_of_eq_false h), wrapI_toInt]

theorem splat_one {ty : VTy} (h : ty.count = 1) (x : BitVec ty.width) : splat ty x.toNat = x.setWidth 64 := by
  rw [splat, h, List.replicate_one, VTy.pack, packNat_singleton_toNat, BitVec.ofNat_toNat]

theorem splat_two {ty : VTy} (h : ty.count = 2) (x : BitVec ty.width) : splat ty x.toNat = (x ++ x).setWidth 64 := by
  have hpack : packNat ty.width [x.toNat, x.toNat] = (x ++ x).toNat := packNat_cons_toNat x x (packNat_singleton_toNat x)
  rw [splat, h, VTy.pack, show List.replicate 2 x.toNat = [x.toNat, x.toNat] from rfl, hpack, BitVec.ofNat_toNat]

theorem splat_four {ty : VTy} (h : ty.count = 4) (x : BitVec ty.width) : splat ty x.toNat = (x ++ x ++ x ++ x).setWidth 64 := by
  have hpack : packNat ty.width [x.toNat, x.toNat, x.toNat, x.toNat] = (x ++ x ++ x ++ x).toNat :=
    packNat_cons_toNat x _ (packNat_cons_toNat x _ (packNat_cons_toNat x _ (packNat_singleton_toNat x)))
  rw [splat, h, VTy.pack, show List.replicate 4 x.toNat = [x.toNat, x.toNat, x.toNat, x.toNat] from rfl, hpack, BitVec.ofNat_toNat]

/-! ## Signs and magnitudes of a format (R61) -/

section
variable (f : FF)

theorem FF.one_le_bias : 1 ≤ f.bias := by
  cases f <;> decide

theorem FF.maxMag_lt_signBit : f.maxMag < f.signBit := by
  cases f <;> decide

theorem FF.two_mul_signBit : 2 * f.signBit = 2 ^ f.width := by
  cases f <;> decide

theorem FF.infMag_ne_of_le {m : Nat} (h : m ≤ f.maxMag) : f.infMag ≠ some m := by
  cases f <;> simp only [FF.infMag, FF.maxMag, ne_eq, reduceCtorEq, not_false_eq_true, Option.some.injEq] at h ⊢ <;> omega

theorem FF.signed_lt (neg : Bool) {m : Nat} (h : m < f.signBit) : f.signed neg m < 2 ^ f.width := by
  have h2 := f.two_mul_signBit
  rw [FF.signed]
  split <;> omega

theorem FF.mag_signed (neg : Bool) {m : Nat} (h : m < f.signBit) : f.mag (f.signed neg m) = m := by
  cases neg <;> simp [FF.mag, FF.signed, Nat.mod_eq_of_lt h]

theorem FF.neg_signed (neg : Bool) {m : Nat} (h : m < f.signBit) : f.neg (f.signed neg m) = neg := by
  cases neg
  · simpa [FF.neg, FF.signed] using h
  · simp [FF.neg, FF.signed]

/-- A sign and a finite magnitude decode to their value. -/
theorem FF.dec_signed (neg : Bool) {m : Nat} (h : m ≤ f.maxMag) : f.dec (f.signed neg m) = .fin neg (f.magVal m) := by
  have hm := Nat.lt_of_le_of_lt h f.maxMag_lt_signBit
  have hinf : f.isInf (f.signed neg m) = false := by
    rw [FF.isInf, f.mag_signed neg hm, beq_eq_false_iff_ne]
    exact f.infMag_ne_of_le h
  rw [FF.dec, hinf, if_neg Bool.false_ne_true, f.neg_signed neg hm, f.mag_signed neg hm]

theorem FF.overflow_lt_signBit (rm : Rm) (neg sat : Bool) : f.overflow rm neg sat < f.signBit := by
  unfold FF.overflow
  extract_lets toInf
  split
  · exact f.maxMag_lt_signBit
  · cases f <;> decide

/-- A rounded value is an encoding of the format's width. -/
theorem FF.roundFin_lt (rm : Rm) (sat ftz neg : Bool) (x : Rat) : f.roundFin rm sat ftz neg x < 2 ^ f.width := by
  have hpos : 0 < f.signBit := Nat.two_pow_pos _
  unfold FF.roundFin
  extract_lets e
  split
  · exact f.signed_lt neg hpos
  · split
    · exact f.signed_lt neg (f.overflow_lt_signBit ..)
    · split
      · exact f.signed_lt neg hpos
      · exact f.signed_lt neg (Nat.lt_of_le_of_lt (Nat.not_lt.mp ‹_›) f.maxMag_lt_signBit)

end

/-! ## Integers that a format holds exactly (R66) -/

theorem pow2_natCast (n : Nat) : pow2 n = ((2 ^ n : Nat) : Rat) := if_pos (Int.natCast_nonneg n)

theorem pow2_neg_natCast {n : Nat} (h : 0 < n) : pow2 (-n) = mkRat 1 (2 ^ n) := by
  rw [pow2, if_neg (by omega), Int.neg_neg, Int.toNat_natCast]

theorem two_pow_cast_ne_zero (n : Nat) : ((2 ^ n : Nat) : Rat) ≠ 0 :=
  fun h => absurd (Rat.natCast_eq_zero_iff.mp h) (Nat.ne_of_gt (Nat.two_pow_pos n))

/-- Powers of two divide by taking exponents apart. -/
theorem pow2_sub_mul (a b : Nat) : pow2 ((a : Int) - b) * ((2 ^ b : Nat) : Rat) = ((2 ^ a : Nat) : Rat) := by
  rcases Nat.lt_or_ge a b with hlt | hge
  · obtain ⟨c, rfl⟩ := Nat.exists_eq_add_of_lt hlt
    have hexp : (a : Int) - (a + c + 1 : Nat) = -((c + 1 : Nat) : Int) := by omega
    have hinv : mkRat 1 (2 ^ (c + 1)) * ((2 ^ (c + 1) : Nat) : Rat) = 1 := by
      rw [Rat.mkRat_eq_div, Rat.intCast_one, Rat.div_mul_cancel (two_pow_cast_ne_zero _)]
    rw [hexp, pow2_neg_natCast (Nat.succ_pos c), Nat.add_assoc, Nat.add_comm a, Nat.pow_add, Rat.natCast_mul, ← Rat.mul_assoc, hinv, Rat.one_mul]
  · obtain ⟨c, rfl⟩ := Nat.exists_eq_add_of_le hge
    have hexp : ((b + c : Nat) : Int) - b = (c : Nat) := by omega
    rw [hexp, pow2_natCast, ← Rat.natCast_mul, ← Nat.pow_add, Nat.add_comm]

theorem pow2_sub_ne_zero (a b : Nat) : pow2 ((a : Int) - b) ≠ 0 := by
  intro h
  have hmul := pow2_sub_mul a b
  rw [h, Rat.zero_mul] at hmul
  exact two_pow_cast_ne_zero a hmul.symm

theorem floorLog2_natCast {n : Nat} (h : n ≠ 0) : floorLog2 (n : Rat) = n.log2 := by
  have hd : ((n : Rat).num.natAbs.log2 : Int) - ((n : Rat).den.log2 : Int) = n.log2 := by
    rw [Rat.num_natCast, Rat.den_natCast, Int.natAbs_natCast, show Nat.log2 1 = 0 by decide]
    exact Int.sub_zero _
  have hle : pow2 n.log2 ≤ n := by
    rw [pow2_natCast]
    exact Rat.natCast_le_natCast.mpr (Nat.log2_self_le h)
  unfold floorLog2
  extract_lets d
  rw [show d = n.log2 from hd, if_pos hle]

section
variable (f : FF) {n k : Nat} (hn : n ≠ 0) (hk : n * 2 ^ f.man = 2 ^ n.log2 * k)
include hk

theorem FF.natCast_eq_significand : (n : Rat) = k * pow2 ((n.log2 : Int) - f.man) := by
  have hscaled : (n : Rat) * ((2 ^ f.man : Nat) : Rat) = k * pow2 ((n.log2 : Int) - f.man) * ((2 ^ f.man : Nat) : Rat) := by
    rw [Rat.mul_assoc, pow2_sub_mul, ← Rat.natCast_mul, ← Rat.natCast_mul, hk, Nat.mul_comm k]
  have hdiv := congrArg (· / ((2 ^ f.man : Nat) : Rat)) hscaled
  simpa only [Rat.mul_div_cancel (two_pow_cast_ne_zero f.man)] using hdiv

include hn

/-- The significand `k` of `n` has `man` + 1 bits. -/
theorem FF.significand_bounds : 2 ^ f.man ≤ k ∧ k < 2 ^ f.man * 2 := by
  have hpos : 0 < 2 ^ n.log2 := Nat.two_pow_pos _
  constructor
  · refine Nat.le_of_mul_le_mul_left ?_ hpos
    rw [← hk]
    exact Nat.mul_le_mul_right _ (Nat.log2_self_le hn)
  · refine Nat.lt_of_mul_lt_mul_left (a := 2 ^ n.log2) ?_
    calc 2 ^ n.log2 * k
      _ = n * 2 ^ f.man := hk.symm
      _ < 2 ^ (n.log2 + 1) * 2 ^ f.man := Nat.mul_lt_mul_of_pos_right Nat.lt_log2_self (Nat.two_pow_pos _)
      _ = 2 ^ n.log2 * (2 ^ f.man * 2) := by rw [Nat.pow_succ, Nat.mul_assoc, Nat.mul_comm 2]

/-- Nothing of `n` is left to round, whatever the mode. -/
theorem FF.roundMag_natCast (rm : Rm) (neg : Bool) : f.roundMag rm neg n = (n.log2 + f.bias - 1) * 2 ^ f.man + k := by
  have hbias := f.one_le_bias
  have hq : max ((n.log2 : Int) - f.man) (1 - (f.bias : Int) - f.man) = n.log2 - f.man := by omega
  have ht : (n : Rat) / pow2 ((n.log2 : Int) - f.man) = k := by
    rw [f.natCast_eq_significand hk]
    exact Rat.mul_div_cancel (pow2_sub_ne_zero _ _)
  have hexp : ((n.log2 : Int) - f.man - (1 - (f.bias : Int) - f.man)).toNat = n.log2 + f.bias - 1 := by omega
  have hfloor : (k : Rat).floor.toNat = k := by rw [← Rat.intCast_natCast, Rat.floor_intCast, Int.toNat_natCast]
  have hrest : (k : Rat) - (k : Rat) = 0 := Rat.sub_self
  have hhalf : ¬ (1 : Rat) / 2 < 0 ∧ ¬ (0 : Rat) = 1 / 2 ∧ ¬ (0 : Rat) < 0 := by grind
  obtain ⟨hover, htie, hpos⟩ := hhalf
  simp only [FF.roundMag, floorLog2_natCast hn, hq, ht, hexp, hfloor, hrest, hover, htie, hpos, decide_false, Bool.false_and, Bool.and_false,
    Bool.or_false]
  cases rm <;> rfl

theorem FF.magVal_natCast : f.magVal ((n.log2 + f.bias - 1) * 2 ^ f.man + k) = n := by
  obtain ⟨hlo, hhi⟩ := f.significand_bounds hn hk
  have hbias := f.one_le_bias
  obtain ⟨t, rfl⟩ := Nat.exists_eq_add_of_le hlo
  have ht : t < 2 ^ f.man := by omega
  have hsplit : (n.log2 + f.bias - 1) * 2 ^ f.man + (2 ^ f.man + t) = t + 2 ^ f.man * (n.log2 + f.bias) := by
    rw [← Nat.add_assoc, ← Nat.succ_mul, Nat.succ_eq_add_one, Nat.sub_add_cancel (by omega), Nat.mul_comm, Nat.add_comm]
  have hexp : ((n.log2 + f.bias : Nat) : Int) - f.bias - f.man = n.log2 - f.man := by omega
  have hexpField : (t + 2 ^ f.man * (n.log2 + f.bias)) / 2 ^ f.man = n.log2 + f.bias := by
    rw [Nat.add_mul_div_left _ _ (Nat.two_pow_pos _), Nat.div_eq_of_lt ht, Nat.zero_add]
  have hmanField : (t + 2 ^ f.man * (n.log2 + f.bias)) % 2 ^ f.man = t := by
    rw [Nat.add_mul_mod_self_left, Nat.mod_eq_of_lt ht]
  rw [hsplit, FF.magVal, hexpField, hmanField]
  simp only [hexp]
  rw [if_neg (by omega), ← f.natCast_eq_significand hk]

end

/-- An integer that needs no more than the significand, and not the top exponent, rounds to an encoding of itself. -/
theorem FF.dec_roundFin_natCast (f : FF) (rm : Rm) (sat neg : Bool) {n : Nat} (hdvd : 2 ^ n.log2 ∣ n * 2 ^ f.man)
    (htop : (n.log2 + f.bias + 1) * 2 ^ f.man ≤ f.maxMag) : f.dec (f.roundFin rm sat false neg n) = .fin neg n := by
  by_cases hn : n = 0
  · subst hn
    have hzero : f.magVal 0 = ((0 : Nat) : Rat) := by
      simp only [FF.magVal, Nat.zero_div, Nat.zero_mod, if_true]
      exact Rat.zero_mul _
    rw [FF.roundFin, if_pos (Rat.natCast_eq_zero_iff.mpr rfl), f.dec_signed neg (Nat.zero_le _), hzero]
  · obtain ⟨k, hk⟩ := hdvd
    have hmag : (n.log2 + f.bias - 1) * 2 ^ f.man + k ≤ f.maxMag := by
      obtain ⟨-, hhi⟩ := f.significand_bounds hn hk
      have hbias := f.one_le_bias
      calc (n.log2 + f.bias - 1) * 2 ^ f.man + k
        _ ≤ (n.log2 + f.bias - 1) * 2 ^ f.man + 2 * 2 ^ f.man := by omega
        _ = (n.log2 + f.bias + 1) * 2 ^ f.man := by rw [← Nat.add_mul]; congr 1; omega
        _ ≤ f.maxMag := htop
    have hne : ¬ (n : Rat) = 0 := fun h => hn (Rat.natCast_eq_zero_iff.mp h)
    rw [FF.roundFin, if_neg hne, f.roundMag_natCast hn hk]
    simp only [if_neg (Nat.not_lt.mpr hmag), Bool.false_and, Bool.false_eq_true, if_false]
    rw [f.dec_signed neg hmag, f.magVal_natCast hn hk]

/-! ## Inline integers (R96) -/

/-- The magnitude of an integer, as a rational: the one that a splat rounds. -/
theorem ratAbs_intCast (z : Int) : (if (z : Rat) < 0 then -(z : Rat) else z) = (z.natAbs : Rat) := by
  rw [← Rat.intCast_natCast]
  by_cases hz : z < 0
  · rw [if_pos (Rat.intCast_neg_iff.mpr hz), ← Rat.intCast_neg, Int.ofNat_natAbs_of_nonpos (Int.le_of_lt hz)]
  · rw [if_neg (mt Rat.intCast_neg_iff.mp hz), Int.natAbs_of_nonneg (Int.not_lt.mp hz)]

theorem splatF_intCast (ty : VTy) (z : Int) :
    splatF ty (z : Rat) = splat ty (ty.ff.roundFin .rne true false (decide (z < 0)) (z.natAbs : Rat)) := by
  rw [splatF, ratAbs_intCast, decide_eq_decide.mpr Rat.intCast_neg_iff]

/-- Each element of a floating type holds the integer rounded to its format. -/
theorem elemAt_immVal_float {ty : VTy} (h : ty.isFloat = true) (hw : ty.ff.width = ty.width) (v : BitVec 9) {k : Nat} (hk : k < ty.count) :
    elemAt ty.width (immVal ty v) k = ty.ff.roundFin .rne true false (decide (v.toInt < 0)) (v.toInt.natAbs : Rat) := by
  rw [immVal, if_pos h, splatF_intCast, elemAt_splat ty _ hk, ← hw, Nat.mod_eq_of_lt (ty.ff.roundFin_lt ..)]

theorem natAbs_inline_le (v : BitVec 9) : v.toInt.natAbs ≤ 256 := by
  have hlo := BitVec.le_toInt v
  have hhi := BitVec.toInt_lt (x := v)
  omega

theorem log2_le_of_lt {n m : Nat} (h : n < 2 ^ (m + 1)) : n.log2 ≤ m := by
  by_cases hn : n = 0
  · rw [hn, Nat.log2_zero]
    exact Nat.zero_le m
  · exact Nat.le_of_lt_succ ((Nat.log2_lt hn).mpr h)

/-- No integer up to 256 has a bit below the seven after its leading one. -/
theorem two_pow_log2_dvd_of_le_256 {n m : Nat} (h : n ≤ 256) (hm : 7 ≤ m) : 2 ^ n.log2 ∣ n * 2 ^ m := by
  rcases Nat.lt_or_eq_of_le h with hlt | rfl
  · exact Nat.dvd_mul_left_of_dvd (Nat.pow_dvd_pow 2 (Nat.le_trans (log2_le_of_lt (m := 7) hlt) hm)) n
  · have hlog : Nat.log2 256 = 8 := by decide
    rw [hlog]
    exact Nat.dvd_mul_right 256 (2 ^ m)

/-- A format of 7 mantissa bits and more holds every inline integer exactly. -/
theorem dec_elemAt_immVal {ty : VTy} (h : ty.isFloat = true) (hw : ty.ff.width = ty.width) (hman : 7 ≤ ty.ff.man)
    (htop : (8 + ty.ff.bias + 1) * 2 ^ ty.ff.man ≤ ty.ff.maxMag) (v : BitVec 9) {k : Nat} (hk : k < ty.count) :
    (ty.ff.dec (elemAt ty.width (immVal ty v) k)).rat = v.toInt := by
  have hv := natAbs_inline_le v
  have hlog : v.toInt.natAbs.log2 ≤ 8 := log2_le_of_lt (by omega)
  have hexp := Nat.add_le_add_right hlog (ty.ff.bias + 1)
  rw [elemAt_immVal_float h hw v hk, FF.dec_roundFin_natCast _ _ _ _ (two_pow_log2_dvd_of_le_256 hv hman)
    (Nat.le_trans (Nat.mul_le_mul_right _ hexp) htop), FVal.rat, ← ratAbs_intCast]
  by_cases hneg : v.toInt < 0
  · rw [decide_eq_true hneg, if_pos rfl, if_pos (Rat.intCast_neg_iff.mpr hneg), Rat.neg_neg]
  · rw [decide_eq_false hneg, if_neg Bool.false_ne_true, if_neg (mt Rat.intCast_neg_iff.mp hneg)]

/-- Settles O54: an integer type repeats the sign-extended integer, and a floating type the rounded one, which is exact from 7 mantissa
bits on. -/
theorem inlineIntegers : Obligations.InlineIntegers := by
  unfold Obligations.InlineIntegers
  intro w fid f pos l v
  have h8 : v.signExtend 8 = v.setWidth 8 := BitVec.signExtend_eq_setWidth_of_le v (by decide)
  simp only [selVal, List.forall_mem_cons, List.not_mem_nil, false_implies, implies_true, and_true]
  refine ⟨?s32, ?n32, ?b32, ?s16, ?n16, ⟨?s8, ?n8⟩, ?s64, ?n64, ⟨?f32, ?f16, ?bf16⟩, ?e4m3, ?e5m2, ?e2m1⟩
  case s32 | n32 | b32 | s64 | n64 => exact (immVal_int rfl v).trans (splat_one rfl _)
  case s16 | n16 => exact (immVal_int rfl v).trans (splat_two rfl _)
  case s8 | n8 =>
    rw [← h8]
    exact (immVal_int rfl v).trans (splat_four rfl _)
  case f32 | f16 | bf16 => exact fun k hk => dec_elemAt_immVal rfl rfl (by decide) (by decide) v hk
  case e4m3 | e5m2 | e2m1 => exact fun k hk => elemAt_immVal_float rfl rfl v hk

end Sys2Proof
end

section
/-! SUPPORT. Addresses and loaded values (R92, R164, R165, R170, R233). A sum of an address form reads off its registers by definition; a
factor 2^SC is a shift; little-endian bytes are a concatenation, which a load extends; and nothing is old where nothing has been written. -/

namespace Sys2Proof

open Machine

/-! ## Scaled offsets (R92) -/

theorem mul_two_pow_eq_shiftLeft {n : Nat} (v : BitVec n) (k : Nat) : v * BitVec.ofNat n (2 ^ k) = v <<< k := by
  rw [BitVec.shiftLeft_eq_mul_twoPow]
  exact congrArg (v * ·) (BitVec.eq_of_toNat_eq (by rw [BitVec.toNat_ofNat, BitVec.toNat_twoPow]))

section
variable (x : Issue)

theorem Issue.ea_of_base {t : VMFmt} (h : t.sb ≠ 0) (size l : Nat) :
    x.ea t size l = x.w.spair t.sb.toNat + x.offset t.a l <<< t.sc.toNat + t.imm8.signExtend 64 * BitVec.ofNat 64 size := by
  rw [← mul_two_pow_eq_shiftLeft]
  exact if_neg h

theorem Issue.ea_of_pair {t : VMFmt} {n : BitVec 11} (ha : t.a = .vreg n) (h : t.sb = 0) (size l : Nat) :
    x.ea t size l = x.w.vpair n.toNat l + t.imm8.signExtend 64 * BitVec.ofNat 64 size := by
  simp only [Issue.ea, h, ha, if_true]

@[simp] theorem Issue.offset_imm (v : BitVec 9) (l : Nat) : x.offset (.imm v) l = v.signExtend 64 := rfl

@[simp] theorem Issue.offset_vreg (n : BitVec 11) (l : Nat) : x.offset (.vreg n) l = (x.w.vreg n.toNat l).setWidth 64 := by
  simp [Issue.offset, selInt, selVal, VTy.isL, Warp.vval]

theorem Issue.eaList_of_vreg {t : VMFmt} {n : BitVec 11} (ha : t.a = .vreg n) (j l : Nat) :
    x.eaList t j l = x.w.spair t.sb.toNat + (x.w.vreg (n.toNat + j) l).setWidth 64 <<< t.sc.toNat := by
  rw [← mul_two_pow_eq_shiftLeft, Issue.eaList, ha]

theorem Issue.sea_of_imm {t : SFmt} {a : BitVec 9} {d : BitVec 23} (h : t.src = .imm a d) :
    x.sea t = x.w.spair a.toNat + d.signExtend 64 := by
  rw [Issue.sea, h]

/-- The second register is part of every address but that of `satom`. -/
theorem Issue.sea_of_regs {t : SFmt} {a b : BitVec 9} {d : BitVec 14} (h : t.src = .regs a b d) (hi : x.i = .sld t ∨ x.i = .sst t) :
    x.sea t = x.w.spair a.toNat + d.signExtend 64 + (x.w.sreg b.toNat).signExtend 64 := by
  rcases hi with hi | hi <;> rw [Issue.sea, h, hi]

end

/-! ## Loaded bytes (R4, R164) -/

/-- Bytes above the lowest are the high part of the number. -/
theorem leNat_cons_toNat {n : Nat} (b : Byte) (y : BitVec n) {bs : List Byte} (h : leNat bs = y.toNat) : leNat (b :: bs) = (y ++ b).toNat := by
  rw [leNat, h, BitVec.toNat_append, Nat.shiftLeft_eq, Nat.mul_comm y.toNat, ← Nat.two_pow_add_eq_or_of_lt b.isLt, Nat.add_comm]

theorem leNat_singleton (b : Byte) : leNat [b] = b.toNat := by
  rw [leNat, leNat, Nat.mul_zero, Nat.add_zero]

theorem leNat_pair (b c : Byte) : leNat [b, c] = (c ++ b).toNat := leNat_cons_toNat b c (leNat_singleton c)

theorem leNat_quad (b c d e : Byte) : leNat [b, c, d, e] = (e ++ d ++ c ++ b).toNat :=
  leNat_cons_toNat b _ (leNat_cons_toNat c _ (leNat_pair d e))

/-- Bytes below a word are extended as their load says. -/
theorem LdFn.words_narrow (fn : LdFn) (h : fn.bytes < 4) {bs : List Byte} (v : BitVec (8 * fn.bytes)) (hv : leNat bs = v.toNat) :
    fn.words bs = [if fn.signed then v.signExtend 32 else v.setWidth 32] := by
  have hpos : 0 < 8 * fn.bytes := by cases fn <;> decide
  rw [LdFn.words, if_pos h, hv]
  cases fn.signed
  · rw [toI_unsigned, wrapI_natCast, ← BitVec.toNat_setWidth, BitVec.ofNat_toNat, BitVec.setWidth_eq, if_neg Bool.false_ne_true]
  · rw [toI_signed hpos, wrapI_toInt, BitVec.ofNat_toNat, BitVec.setWidth_eq, if_pos rfl]

theorem LdFn.words_b32 (b c d e : Byte) : LdFn.words .b32 [b, c, d, e] = [e ++ d ++ c ++ b] := by
  have hword : LdFn.words .b32 [b, c, d, e] = [BitVec.ofNat 32 (leNat [b, c, d, e])] := rfl
  rw [hword, leNat_quad, BitVec.ofNat_toNat, BitVec.setWidth_eq]

/-! ## What a load reads (R59, R233) -/

theorem agedLoc_of_no_olds {s : State} (h : s.olds = []) (start salt : Nat) (l : Loc) (n : Nat) : agedLoc s start salt l n = readLoc s l n := by
  rw [agedLoc, h]
  rfl

theorem Issue.readAt_eq_readLoc (x : Issue) {s : State} {a : DWord} (h : pathOf a ≠ 7 ∨ s.olds = []) (k : Nat) (l : Loc) (n : Nat) :
    x.readAt s a k l n = readLoc s l n := by
  unfold Issue.readAt
  split
  case isTrue h7 => exact agedLoc_of_no_olds (h.resolve_left (not_not_intro h7)) ..
  case isFalse => rfl

/-- Settles O18: each address form reads its registers as stated, with SC as a shift, and a load extends the concatenation of its bytes. -/
theorem effectiveAddresses : Obligations.EffectiveAddresses := by
  unfold Obligations.EffectiveAddresses
  refine ⟨?pair, ?offset, ?inlineOffset, ?list, ?scalarImm, ?scalarRegs, ?byte, ?half, LdFn.words_b32, ?memory⟩
  case pair => exact fun x t n size l ha h => x.ea_of_pair ha h size l
  case offset =>
    intro x t n size l ha h
    rw [x.ea_of_base h, ha, x.offset_vreg, Warp.spair]
  case inlineOffset =>
    intro x t v size l ha h
    rw [x.ea_of_base h, ha, x.offset_imm, Warp.spair]
  case list => exact fun x t n j l ha => x.eaList_of_vreg ha j l
  case scalarImm => exact fun x t a d h => x.sea_of_imm h
  case scalarRegs => exact fun x t a b d h hi => x.sea_of_regs h hi
  case byte => exact fun b => ⟨LdFn.b8z.words_narrow (by decide) b (leNat_singleton b), LdFn.b8s.words_narrow (by decide) b (leNat_singleton b)⟩
  case half =>
    exact fun b c => ⟨LdFn.b16z.words_narrow (by decide) (c ++ b) (leNat_pair b c), LdFn.b16s.words_narrow (by decide) (c ++ b) (leNat_pair b c)⟩
  case memory => exact fun x s a k l n h => x.readAt_eq_readLoc h k l n

end Sys2Proof
end
